-- ==== Sys2Proof/Word.lean ====
section
/-! DEFINITION. The word types of the Lylek and the plainest arithmetic on raw element patterns. -/

namespace Sys2Proof

/-- An x register, a virtual address or a CSR value (R41). -/
abbrev Word := BitVec 64

/-- A byte of memory. -/
abbrev Byte := BitVec 8

/-- A scalar or vector register number as an instruction field holds it (R37). -/
abbrev Reg := BitVec 5

/-- A mask register number, or the km field of the V format (R37). -/
abbrev KReg := BitVec 3

/-- One instruction word (R50). -/
abbrev InstrWord := BitVec 32

/-- The 4 KiB of a vector register as one pattern, element 0 in the low bits (R41). -/
abbrev VBits := BitVec 32768

/-- The 4096 bits of a mask register (R41). -/
abbrev KBits := BitVec 4096

/-- The five exception flags in the order of `vstat`: NV, DZ, OF, UF, NX from bit 0 up (R48). -/
abbrev Flags := BitVec 5

end Sys2Proof
end

