-- ==== Sys2Proof/Syntax/Scalar.lean ====
section
/-! DEFINITION. The operand kinds of the scalar rows (R35: RV64I, M, A, Zicsr, Zifencei, Zba, Zbb) and of the
event rows of the table; the instructions themselves are the one inductive of Syntax.lean. -/

namespace Sys2Proof

/-- The six branches of RV64I. -/
inductive BranchOp where
  | beq | bne | blt | bge | bltu | bgeu
  deriving DecidableEq, Repr

/-- Register-register operations of RV64I, M, Zba and Zbb. -/
inductive AluOp where
  | add | sub | sll | slt | sltu | xor | srl | sra | or | and
  | addw | subw | sllw | srlw | sraw
  | mul | mulh | mulhsu | mulhu | div | divu | rem | remu
  | mulw | divw | divuw | remw | remuw
  | addUw | sh1add | sh2add | sh3add | sh1addUw | sh2addUw | sh3addUw
  | andn | orn | xnor | min | minu | max | maxu | rol | ror | rolw | rorw
  deriving DecidableEq, Repr

/-- Register-immediate operations whose immediate is the 12-bit field. -/
inductive ImmOp where
  | addi | slti | sltiu | xori | ori | andi | addiw
  deriving DecidableEq, Repr

/-- Shifts by a six-bit amount. -/
inductive ShiftOp where
  | slli | srli | srai | rori | slliUw
  deriving DecidableEq, Repr

/-- Word shifts by a five-bit amount. -/
inductive ShiftWOp where
  | slliw | srliw | sraiw | roriw
  deriving DecidableEq, Repr

/-- Unary operations of Zbb. -/
inductive UnOp where
  | clz | ctz | cpop | clzw | ctzw | cpopw | sextB | sextH | zextH | orcB | rev8
  deriving DecidableEq, Repr

/-- The instructions of the row SCALAR_INSTRUCTION (R35): the ordinary RV64I, M, Zba and Zbb instructions. -/
inductive ScalarOp where
  | lui (rd : Reg) (imm : BitVec 20)
  | auipc (rd : Reg) (imm : BitVec 20)
  /-- `off` is the J immediate without its low zero bit. -/
  | jal (rd : Reg) (off : BitVec 20)
  | jalr (rd rs1 : Reg) (imm : BitVec 12)
  /-- `off` is the B immediate without its low zero bit. -/
  | branch (op : BranchOp) (rs1 rs2 : Reg) (off : BitVec 12)
  | opImm (op : ImmOp) (rd rs1 : Reg) (imm : BitVec 12)
  | shift (op : ShiftOp) (rd rs1 : Reg) (amt : BitVec 6)
  | shiftW (op : ShiftWOp) (rd rs1 : Reg) (amt : BitVec 5)
  | op (op : AluOp) (rd rs1 rs2 : Reg)
  | unary (op : UnOp) (rd rs1 : Reg)
  | ecall
  | ebreak
  deriving DecidableEq, Repr

/-- Scalar loads. -/
inductive LoadKind where
  | lb | lh | lw | ld | lbu | lhu | lwu
  deriving DecidableEq, Repr

/-- Scalar stores. -/
inductive StoreKind where
  | sb | sh | sw | sd
  deriving DecidableEq, Repr

/-- Operations of the A extension. -/
inductive AmoOp where
  | lr | sc | swap | add | xor | and | or | min | max | minu | maxu
  deriving DecidableEq, Repr

/-- The six Zicsr instructions. -/
inductive CsrOp where
  | rw | rs | rc | rwi | rsi | rci
  deriving DecidableEq, Repr

/-- The three CSRs whose read waits (R19). -/
inductive WaitCsr where
  | vstat | vmcnt | vtrows
  deriving DecidableEq, Repr

/-- Where a slice's read of a line goes (R182, R228, R237, R244): to a record, a scalar L1, an instruction cache or a replica. -/
inductive FillDest where
  | record | scalarL1 | instrCache | replica
  deriving DecidableEq, Repr

/-- The structures of R404, and the registers of R360, in which an uncorrectable error may be met. -/
inductive StructErr where
  | slath (slice entry : Nat)
  | link (slice line gid : Nat)
  | deferral (slice index : Nat)
  | poolNode (die index : Nat)
  /-- a ready-pool node of a grouped launch: its block, request and number (R285) -/
  | groupNode (block serial num : Nat)
  /-- a correctable error that a demand read of a line meets (R401) -/
  | soft (line : Nat)
  /-- parity of an x register of a strand, of a 32-bit element of a vector register, of a bit of a mask register (R360, R401) -/
  | xReg (gid reg : Nat)
  | vReg (gid reg word : Nat)
  | kReg (gid reg bit : Nat)
  deriving DecidableEq, Repr

/-- What the background scrubber finds on the line it visits (R401, R402). -/
inductive ScrubResult where
  | clean | corrected | uncorrectable
  deriving DecidableEq, Repr

/-- What a remote package, a forwarded access or a host access asks of a memory location (R180, R250, R397). -/
inductive ExtAccess where
  | read (bytes : Nat)
  | write (data : List Byte)
  | amo (op : AmoOp) (dword : Bool) (operand : Word)
  deriving DecidableEq, Repr

/-- What a write to a BAR0 register names (R389, R390): the registers with no row of their own. -/
inductive Bar0Reg where
  | devId
  | arenaBase (die : Nat)
  | arenaSize (die : Nat)
  | tlbVa
  | queueBase (q : Nat)
  | queueSize (q : Nat)
  | queueCbase (q : Nat)
  | queueInte (q : Nat)
  | other (offset : Nat)
  deriving DecidableEq, Repr

end Sys2Proof
end

