-- ==== Sys2Proof/Config.lean ====
section
/-! DEFINITION. What the spec leaves to each implementation: free values, with no body, so that nothing in Lean can
say what one of them is. -/

namespace Sys2Proof

/-- A choice or value the spec leaves open, by the number of the draw (the counter `free` of the state): the tree of an
LAM = 0 sum (R158), the blocks of an LAM = 0 product (R160), the elements at and above a fault (R28.2), which lines of a
refused store were written (R106), which bytes of a failed copy were (R233), a router's own choice of port (R207). -/
opaque Config.freeNat : Nat → Nat

/-- Byte `n` of the frame image with a number: a frame's format belongs to the implementation (R347). -/
opaque Config.frameByte : Nat → Nat → Byte

/-- Which set of a cache a line falls into, before reduction to the number of sets (R182, R184): the spec gives the number of
sets and ways, and no index function. -/
opaque Config.cacheSet : Nat → Nat

/-- The CRC-16 over a flit's header bits [111:0] and its payload (R200): the spec gives the width and the bits covered, and no
polynomial. -/
opaque Config.crc16 : Nat → List Byte → BitVec 16

/-- The field of the Reed-Solomon codes of a Wale flit (R395): the low eight coefficients of its polynomial, the element whose powers the
generator's six roots are, and the power of the first. The spec gives the shape of the codes and not these. -/
opaque Config.fecField : Byte
opaque Config.fecRoot : Byte
opaque Config.fecFirst : Nat

/-- What the spec leaves open of the CRC-32 of a Wale flit (R395), whose polynomial it gives: the initial value, what the result is combined
with, and whether bits are taken and given in the reversed order. -/
opaque Config.crcInit : BitVec 32
opaque Config.crcFinal : BitVec 32
opaque Config.crcReflected : Bool

/-- The payload that a request to another package is packed into (R395), from the target package, the physical address and the access. -/
opaque Config.packedRequest : Nat → Nat → ExtAccess → List Byte

/-- Whether a Wale port leads to a package (R396): the spec gives no topology. -/
opaque Config.portReaches : Nat → Nat → Bool

/-- The code of a kind of unit in a log entry (R399): the spec gives the field and no codes. -/
opaque Config.unitKind : Nat → BitVec 6

/-- The payload that a reply to a remote access is packed into (R395), from its data and whether it failed. -/
opaque Config.packedReply : List Byte → Bool → List Byte

/-- Whether a breakpoint trap's `xtval` holds the address of the `ebreak` or 0: the Privileged specification allows both. -/
opaque Config.breakpointAddress : Bool

/-- The SHAKE256 measurement of the firmware image with a version (R400): the hash's value is not the model's. -/
opaque Config.measurement : Nat → List Byte

/-- The measurement of the control-plane firmware (R7), likewise. -/
opaque Config.controlMeasurement : List Byte

/-- The device identity certificate that a report carries (R400). -/
opaque Config.certificate : List Byte

/-- The signature of an attestation report over what it carries (R400). -/
opaque Config.signature : List Byte → List Byte

end Sys2Proof
end

