-- ==== Sys2Proof/Syntax.lean ====
section
/-! DEFINITION. The instructions: one constructor for each row of the opcode table. Device words keep their operand
fields d, a, b, km (R37, R38); the scalar rows keep the fields of the RISC-V word; the event rows have no
operand fields: what the environment or another agent supplies with one (which strand, line, queue, unit) stands in
the state's input record. Rows with fields stand first. -/

namespace Sys2Proof

/-- One constructor per row of the opcode table. -/
inductive Instr where
  /-- va.add.ivv (R108). Adds vs1 to vs2 element by element at width w into vd. -/
  | vaAddIvv (d : Reg) (a : Reg) (b : Reg) (m : KReg)
  /-- va.sub.ivv (R108). Subtracts vs1 from vs2 element by element into vd. -/
  | vaSubIvv (d : Reg) (a : Reg) (b : Reg) (m : KReg)
  /-- va.mul.ivv (R108). Writes the low w bits of the element products into vd. -/
  | vaMulIvv (d : Reg) (a : Reg) (b : Reg) (m : KReg)
  /-- va.mulh.ivv (R108). Writes the high w bits of the signed element products into vd. -/
  | vaMulhIvv (d : Reg) (a : Reg) (b : Reg) (m : KReg)
  /-- va.min.ivv (R108). Writes the signed minimum of each element pair into vd. -/
  | vaMinIvv (d : Reg) (a : Reg) (b : Reg) (m : KReg)
  /-- va.max.ivv (R108). Writes the signed maximum of each element pair into vd. -/
  | vaMaxIvv (d : Reg) (a : Reg) (b : Reg) (m : KReg)
  /-- va.minu.ivv (R108). Writes the unsigned minimum of each element pair into vd. -/
  | vaMinuIvv (d : Reg) (a : Reg) (b : Reg) (m : KReg)
  /-- va.maxu.ivv (R108). Writes the unsigned maximum of each element pair into vd. -/
  | vaMaxuIvv (d : Reg) (a : Reg) (b : Reg) (m : KReg)
  /-- va.and.ivv (R108). Writes the bitwise AND of each element pair into vd. -/
  | vaAndIvv (d : Reg) (a : Reg) (b : Reg) (m : KReg)
  /-- va.or.ivv (R108). Writes the bitwise OR of each element pair into vd. -/
  | vaOrIvv (d : Reg) (a : Reg) (b : Reg) (m : KReg)
  /-- va.xor.ivv (R108). Writes the bitwise XOR of each element pair into vd. -/
  | vaXorIvv (d : Reg) (a : Reg) (b : Reg) (m : KReg)
  /-- va.sll.ivv (R108). Shifts each vs2 element left by vs1 mod w. -/
  | vaSllIvv (d : Reg) (a : Reg) (b : Reg) (m : KReg)
  /-- va.srl.ivv (R108). Shifts each vs2 element right logically by vs1 mod w. -/
  | vaSrlIvv (d : Reg) (a : Reg) (b : Reg) (m : KReg)
  /-- va.sra.ivv (R108). Shifts each vs2 element right arithmetically by vs1 mod w. -/
  | vaSraIvv (d : Reg) (a : Reg) (b : Reg) (m : KReg)
  /-- va.merge.ivv (R109). Selects vs1 where the mask bit is 1 and vs2 elsewhere, for every element below VL. -/
  | vaMergeIvv (d : Reg) (a : Reg) (b : Reg) (m : KReg)
  /-- va.mulhu.ivv (R108). Writes the high w bits of the unsigned element products into vd. -/
  | vaMulhuIvv (d : Reg) (a : Reg) (b : Reg) (m : KReg)
  /-- va.add.ivx (R108). Adds the scalar to each vs2 element into vd. -/
  | vaAddIvx (d : Reg) (a : Reg) (b : Reg) (m : KReg)
  /-- va.sub.ivx (R108). Subtracts the scalar from each vs2 element into vd. -/
  | vaSubIvx (d : Reg) (a : Reg) (b : Reg) (m : KReg)
  /-- va.mul.ivx (R108). Multiplies each vs2 element by the scalar, low w bits. -/
  | vaMulIvx (d : Reg) (a : Reg) (b : Reg) (m : KReg)
  /-- va.mulh.ivx (R108). Writes the high w bits of the signed products with the scalar. -/
  | vaMulhIvx (d : Reg) (a : Reg) (b : Reg) (m : KReg)
  /-- va.min.ivx (R108). Writes the signed minimum of each vs2 element and the scalar. -/
  | vaMinIvx (d : Reg) (a : Reg) (b : Reg) (m : KReg)
  /-- va.max.ivx (R108). Writes the signed maximum of each vs2 element and the scalar. -/
  | vaMaxIvx (d : Reg) (a : Reg) (b : Reg) (m : KReg)
  /-- va.minu.ivx (R108). Writes the unsigned minimum of each vs2 element and the scalar. -/
  | vaMinuIvx (d : Reg) (a : Reg) (b : Reg) (m : KReg)
  /-- va.maxu.ivx (R108). Writes the unsigned maximum of each vs2 element and the scalar. -/
  | vaMaxuIvx (d : Reg) (a : Reg) (b : Reg) (m : KReg)
  /-- va.and.ivx (R108). ANDs each vs2 element with the scalar. -/
  | vaAndIvx (d : Reg) (a : Reg) (b : Reg) (m : KReg)
  /-- va.or.ivx (R108). ORs each vs2 element with the scalar. -/
  | vaOrIvx (d : Reg) (a : Reg) (b : Reg) (m : KReg)
  /-- va.xor.ivx (R108). XORs each vs2 element with the scalar. -/
  | vaXorIvx (d : Reg) (a : Reg) (b : Reg) (m : KReg)
  /-- va.sll.ivx (R108). Shifts each vs2 element left by the scalar mod w. -/
  | vaSllIvx (d : Reg) (a : Reg) (b : Reg) (m : KReg)
  /-- va.srl.ivx (R108). Shifts each vs2 element right logically by the scalar mod w. -/
  | vaSrlIvx (d : Reg) (a : Reg) (b : Reg) (m : KReg)
  /-- va.sra.ivx (R108). Shifts each vs2 element right arithmetically by the scalar mod w. -/
  | vaSraIvx (d : Reg) (a : Reg) (b : Reg) (m : KReg)
  /-- va.merge.ivx (R109). Selects the scalar where the mask bit is 1 and vs2 elsewhere. -/
  | vaMergeIvx (d : Reg) (a : Reg) (b : Reg) (m : KReg)
  /-- va.mulhu.ivx (R108). Writes the high w bits of the unsigned products with the scalar. -/
  | vaMulhuIvx (d : Reg) (a : Reg) (b : Reg) (m : KReg)
  /-- va.add.ivi (R108). Adds the sign-extended immediate to each vs2 element. -/
  | vaAddIvi (d : Reg) (a : Reg) (b : Reg) (m : KReg)
  /-- va.sub.ivi (R108). Subtracts the sign-extended immediate from each vs2 element. -/
  | vaSubIvi (d : Reg) (a : Reg) (b : Reg) (m : KReg)
  /-- va.min.ivi (R108). Writes the signed minimum of each vs2 element and the immediate. -/
  | vaMinIvi (d : Reg) (a : Reg) (b : Reg) (m : KReg)
  /-- va.max.ivi (R108). Writes the signed maximum of each vs2 element and the immediate. -/
  | vaMaxIvi (d : Reg) (a : Reg) (b : Reg) (m : KReg)
  /-- va.minu.ivi (R108). Writes the unsigned minimum of each vs2 element and the immediate. -/
  | vaMinuIvi (d : Reg) (a : Reg) (b : Reg) (m : KReg)
  /-- va.maxu.ivi (R108). Writes the unsigned maximum of each vs2 element and the immediate. -/
  | vaMaxuIvi (d : Reg) (a : Reg) (b : Reg) (m : KReg)
  /-- va.and.ivi (R108). ANDs each vs2 element with the immediate. -/
  | vaAndIvi (d : Reg) (a : Reg) (b : Reg) (m : KReg)
  /-- va.or.ivi (R108). ORs each vs2 element with the immediate. -/
  | vaOrIvi (d : Reg) (a : Reg) (b : Reg) (m : KReg)
  /-- va.xor.ivi (R108). XORs each vs2 element with the immediate. -/
  | vaXorIvi (d : Reg) (a : Reg) (b : Reg) (m : KReg)
  /-- va.sll.ivi (R108). Shifts each vs2 element left by the unsigned amount mod w. -/
  | vaSllIvi (d : Reg) (a : Reg) (b : Reg) (m : KReg)
  /-- va.srl.ivi (R108). Shifts each vs2 element right logically by the unsigned amount mod w. -/
  | vaSrlIvi (d : Reg) (a : Reg) (b : Reg) (m : KReg)
  /-- va.sra.ivi (R108). Shifts each vs2 element right arithmetically by the unsigned amount mod w. -/
  | vaSraIvi (d : Reg) (a : Reg) (b : Reg) (m : KReg)
  /-- va.merge.ivi (R109). Selects the immediate where the mask bit is 1 and vs2 elsewhere. -/
  | vaMergeIvi (d : Reg) (a : Reg) (b : Reg) (m : KReg)
  /-- va.fadd.fvv (R162). Adds vs1 to vs2 in the FP format, rounded once. -/
  | vaFaddFvv (d : Reg) (a : Reg) (b : Reg) (m : KReg)
  /-- va.fsub.fvv (R162). Subtracts vs1 from vs2 in the FP format, rounded once. -/
  | vaFsubFvv (d : Reg) (a : Reg) (b : Reg) (m : KReg)
  /-- va.fmul.fvv (R162). Multiplies vs2 by vs1, rounded once. -/
  | vaFmulFvv (d : Reg) (a : Reg) (b : Reg) (m : KReg)
  /-- va.fdiv.fvv (R162). Divides vs2 by vs1, rounded once. -/
  | vaFdivFvv (d : Reg) (a : Reg) (b : Reg) (m : KReg)
  /-- va.fmin.fvv (R163). Writes the smaller of each pair under the fmin rules. -/
  | vaFminFvv (d : Reg) (a : Reg) (b : Reg) (m : KReg)
  /-- va.fmax.fvv (R163). Writes the larger of each pair under the fmax rules. -/
  | vaFmaxFvv (d : Reg) (a : Reg) (b : Reg) (m : KReg)
  /-- va.fmacc.fvv (R162). Computes A×B + D fused into vd. -/
  | vaFmaccFvv (d : Reg) (a : Reg) (b : Reg) (m : KReg)
  /-- va.fnmacc.fvv (R162). Computes −(A×B) − D fused into vd. -/
  | vaFnmaccFvv (d : Reg) (a : Reg) (b : Reg) (m : KReg)
  /-- va.fmsac.fvv (R162). Computes A×B − D fused into vd. -/
  | vaFmsacFvv (d : Reg) (a : Reg) (b : Reg) (m : KReg)
  /-- va.fnmsac.fvv (R162). Computes −(A×B) + D fused into vd. -/
  | vaFnmsacFvv (d : Reg) (a : Reg) (b : Reg) (m : KReg)
  /-- va.fsgnj.fvv (R163). Replaces the sign of vs2 with that of vs1. -/
  | vaFsgnjFvv (d : Reg) (a : Reg) (b : Reg) (m : KReg)
  /-- va.fsgnjn.fvv (R163). Replaces the sign of vs2 with the inverse of vs1's sign. -/
  | vaFsgnjnFvv (d : Reg) (a : Reg) (b : Reg) (m : KReg)
  /-- va.fsgnjx.fvv (R163). Replaces the sign of vs2 with the XOR of both signs. -/
  | vaFsgnjxFvv (d : Reg) (a : Reg) (b : Reg) (m : KReg)
  /-- va.fadd.fvx (R162). Adds the FP scalar to each vs2 element, rounded once. -/
  | vaFaddFvx (d : Reg) (a : Reg) (b : Reg) (m : KReg)
  /-- va.fsub.fvx (R162). Subtracts the FP scalar from each vs2 element. -/
  | vaFsubFvx (d : Reg) (a : Reg) (b : Reg) (m : KReg)
  /-- va.fmul.fvx (R162). Multiplies each vs2 element by the FP scalar. -/
  | vaFmulFvx (d : Reg) (a : Reg) (b : Reg) (m : KReg)
  /-- va.fdiv.fvx (R162). Divides each vs2 element by the FP scalar. -/
  | vaFdivFvx (d : Reg) (a : Reg) (b : Reg) (m : KReg)
  /-- va.fmin.fvx (R163). Writes the smaller of each vs2 element and the scalar. -/
  | vaFminFvx (d : Reg) (a : Reg) (b : Reg) (m : KReg)
  /-- va.fmax.fvx (R163). Writes the larger of each vs2 element and the scalar. -/
  | vaFmaxFvx (d : Reg) (a : Reg) (b : Reg) (m : KReg)
  /-- va.fmacc.fvx (R162). Computes scalar×B + D fused into vd. -/
  | vaFmaccFvx (d : Reg) (a : Reg) (b : Reg) (m : KReg)
  /-- va.fnmacc.fvx (R162). Computes −(scalar×B) − D fused into vd. -/
  | vaFnmaccFvx (d : Reg) (a : Reg) (b : Reg) (m : KReg)
  /-- va.fmsac.fvx (R162). Computes scalar×B − D fused into vd. -/
  | vaFmsacFvx (d : Reg) (a : Reg) (b : Reg) (m : KReg)
  /-- va.fnmsac.fvx (R162). Computes −(scalar×B) + D fused into vd. -/
  | vaFnmsacFvx (d : Reg) (a : Reg) (b : Reg) (m : KReg)
  /-- va.fsgnj.fvx (R163). Replaces each vs2 sign with the scalar's sign. -/
  | vaFsgnjFvx (d : Reg) (a : Reg) (b : Reg) (m : KReg)
  /-- va.fsgnjn.fvx (R163). Replaces each vs2 sign with the inverse of the scalar's sign. -/
  | vaFsgnjnFvx (d : Reg) (a : Reg) (b : Reg) (m : KReg)
  /-- va.fsgnjx.fvx (R163). Replaces each vs2 sign with its XOR with the scalar's sign. -/
  | vaFsgnjxFvx (d : Reg) (a : Reg) (b : Reg) (m : KReg)
  /-- va.seq (R110). Sets kd bits where vs2 equals vs1. -/
  | vaSeq (d : KReg) (a : Reg) (b : Reg) (m : KReg)
  /-- va.sne (R110). Sets kd bits where vs2 differs from vs1. -/
  | vaSne (d : KReg) (a : Reg) (b : Reg) (m : KReg)
  /-- va.slt (R110). Sets kd bits where vs2 is signed less than vs1. -/
  | vaSlt (d : KReg) (a : Reg) (b : Reg) (m : KReg)
  /-- va.sltu (R110). Sets kd bits where vs2 is unsigned less than vs1. -/
  | vaSltu (d : KReg) (a : Reg) (b : Reg) (m : KReg)
  /-- va.sle (R110). Sets kd bits where vs2 is signed at most vs1. -/
  | vaSle (d : KReg) (a : Reg) (b : Reg) (m : KReg)
  /-- va.sleu (R110). Sets kd bits where vs2 is unsigned at most vs1. -/
  | vaSleu (d : KReg) (a : Reg) (b : Reg) (m : KReg)
  /-- va.feq (R110). Sets kd bits where vs2 equals vs1 as FP numbers. -/
  | vaFeq (d : KReg) (a : Reg) (b : Reg) (m : KReg)
  /-- va.flt (R110). Sets kd bits where vs2 is FP less than vs1. -/
  | vaFlt (d : KReg) (a : Reg) (b : Reg) (m : KReg)
  /-- va.fle (R110). Sets kd bits where vs2 is FP at most vs1. -/
  | vaFle (d : KReg) (a : Reg) (b : Reg) (m : KReg)
  /-- va.fne (R110). Sets kd bits where feq is false. -/
  | vaFne (d : KReg) (a : Reg) (b : Reg) (m : KReg)
  /-- va.kand (R111). ANDs two mask registers into kd. -/
  | vaKand (d : KReg) (a : KReg) (b : KReg)
  /-- va.kor (R111). ORs two mask registers into kd. -/
  | vaKor (d : KReg) (a : KReg) (b : KReg)
  /-- va.kxor (R111). XORs two mask registers into kd. -/
  | vaKxor (d : KReg) (a : KReg) (b : KReg)
  /-- va.kandn (R111). Writes kb AND NOT ka into kd. -/
  | vaKandn (d : KReg) (a : KReg) (b : KReg)
  /-- va.knot (R111). Writes NOT kb into kd. -/
  | vaKnot (d : KReg) (b : KReg)
  /-- va.fsqrt (R164). Writes the rounded square root of each element. -/
  | vaFsqrt (d : Reg) (b : Reg) (m : KReg)
  /-- va.frsqrte (R165). Writes a 12-bit reciprocal square root estimate of each element. -/
  | vaFrsqrte (d : Reg) (b : Reg) (m : KReg)
  /-- va.frece (R165). Writes a 12-bit reciprocal estimate of each element. -/
  | vaFrece (d : Reg) (b : Reg) (m : KReg)
  /-- va.flog2 (R164). Writes log2 of each element rounded under RNE. -/
  | vaFlog2 (d : Reg) (b : Reg) (m : KReg)
  /-- va.fexp2 (R164). Writes 2 to the power of each element rounded under RNE. -/
  | vaFexp2 (d : Reg) (b : Reg) (m : KReg)
  /-- va.fclass (R166). Writes the class code of each FP element. -/
  | vaFclass (d : Reg) (b : Reg) (m : KReg)
  /-- va.fcvt (R168). Converts each element from vcfg.FMT to the format in field a. -/
  | vaFcvt (d : Reg) (a : Reg) (b : Reg) (m : KReg)
  /-- va.mv (R112). Copies vs2 elements into vd as DENSE. -/
  | vaMv (d : Reg) (b : Reg) (m : KReg)
  /-- va.splat (R112). Fills vd with the low w bits of a scalar. -/
  | vaSplat (d : Reg) (b : Reg) (m : KReg)
  /-- va.iota (R112). Writes each element's index mod 2^w. -/
  | vaIota (d : Reg) (m : KReg)
  /-- va.rng (R172). Writes counter-based random bits from the key and element index. -/
  | vaRng (d : Reg) (b : Reg) (m : KReg)
  /-- va.redsum (R169). Writes the integer sum of the active elements to element 0. -/
  | vaRedsum (d : Reg) (b : Reg) (m : KReg)
  /-- va.fredsum (R157). Writes the FP sum of the active elements over the LAM tree or any tree. -/
  | vaFredsum (d : Reg) (b : Reg) (m : KReg)
  /-- va.redmax (R169). Writes the signed maximum of the active elements. -/
  | vaRedmax (d : Reg) (b : Reg) (m : KReg)
  /-- va.redmin (R169). Writes the signed minimum of the active elements. -/
  | vaRedmin (d : Reg) (b : Reg) (m : KReg)
  /-- va.fredmax (R169). Writes the largest non-NaN active element. -/
  | vaFredmax (d : Reg) (b : Reg) (m : KReg)
  /-- va.fredmin (R169). Writes the smallest non-NaN active element. -/
  | vaFredmin (d : Reg) (b : Reg) (m : KReg)
  /-- va.redmaxi (R170). Writes the signed maximum and its lowest index. -/
  | vaRedmaxi (d : Reg) (b : Reg) (m : KReg)
  /-- va.fredmaxi (R170). Writes the FP maximum and its lowest index, NaN ranking lowest. -/
  | vaFredmaxi (d : Reg) (b : Reg) (m : KReg)
  /-- va.redand (R169). Writes the AND of the active elements. -/
  | vaRedand (d : Reg) (b : Reg) (m : KReg)
  /-- va.redor (R169). Writes the OR of the active elements. -/
  | vaRedor (d : Reg) (b : Reg) (m : KReg)
  /-- va.redxor (R169). Writes the XOR of the active elements. -/
  | vaRedxor (d : Reg) (b : Reg) (m : KReg)
  /-- va.kpop (R171). Writes to rd the count of active set bits of kb. -/
  | vaKpop (d : Reg) (b : KReg) (m : KReg)
  /-- va.kfirst (R171). Writes to rd the lowest active set bit of kb, or all ones. -/
  | vaKfirst (d : Reg) (b : KReg) (m : KReg)
  /-- va.setvl (R98). Grants vl = min(x[a], VLMAX), applies a weight hint and takes up NEXT. -/
  | vaSetvl (d : Reg) (a : Reg) (b : Reg)
  /-- va.setvl.p (R31). Grants vl as va.setvl, or traps PREEMPT when a request is pending and no push state holds. -/
  | vaSetvlP (d : Reg) (a : Reg) (b : Reg)
  /-- va.setcfg (R100). Checks and writes vcfg, returns the old value and clips vl. -/
  | vaSetcfg (d : Reg) (a : Reg)
  /-- va.setkey (R101). Checks and writes vkey, returning the old value. -/
  | vaSetkey (d : Reg) (a : Reg)
  /-- vm.ld (R103). Loads VL unit-stride elements into vd. -/
  | vmLd (d : Reg) (a : Reg) (m : KReg)
  /-- vm.lds (R103). Loads VL strided elements into vd. -/
  | vmLds (d : Reg) (a : Reg) (b : Reg) (m : KReg)
  /-- vm.ldx (R226). Gathers elements at base plus 32-bit index offsets. -/
  | vmLdx (d : Reg) (a : Reg) (b : Reg) (m : KReg)
  /-- vm.ldff (R227). First-fault unit-stride load that clears mask bits from the first fault. -/
  | vmLdff (d : Reg) (a : Reg) (m : KReg)
  /-- vm.ldnc (R228). Loads through the core's read-only buffer. -/
  | vmLdnc (d : Reg) (a : Reg) (m : KReg)
  /-- vm.ldsc (R229). Sequentially consistent load, one ticket per element. -/
  | vmLdsc (d : Reg) (a : Reg) (m : KReg)
  /-- vm.ldmc (R230). Masked multicast read merged at the slices for cores in the mask. -/
  | vmLdmc (d : Reg) (a : Reg) (b : Reg) (m : KReg)
  /-- vm.ldraw (R226). Loads raw w-bit elements ignoring the page format. -/
  | vmLdraw (d : Reg) (a : Reg) (m : KReg)
  /-- vm.ldgl (R257). Gathers as vm.ldx and sets links at the home slices. -/
  | vmLdgl (d : Reg) (a : Reg) (b : Reg) (m : KReg)
  /-- vm.ldffx (R227). First-fault gather that clears mask bits from the first fault. -/
  | vmLdffx (d : Reg) (a : Reg) (b : Reg) (m : KReg)
  /-- vm.st (R104). Stores VL unit-stride elements of vs3. -/
  | vmSt (d : Reg) (a : Reg) (m : KReg)
  /-- vm.sts (R104). Stores VL strided elements of vs3. -/
  | vmSts (d : Reg) (a : Reg) (b : Reg) (m : KReg)
  /-- vm.stx (R226). Scatters vs3 elements to base plus index offsets. -/
  | vmStx (d : Reg) (a : Reg) (b : Reg) (m : KReg)
  /-- vm.stsc (R229). Sequentially consistent store, one ticket per element. -/
  | vmStsc (d : Reg) (a : Reg) (m : KReg)
  /-- vm.straw (R226). Stores raw w-bit elements ignoring the page format. -/
  | vmStraw (d : Reg) (a : Reg) (m : KReg)
  /-- vm.stcx (R258). Conditionally scatters each line whose link still holds and reports success in km. -/
  | vmStcx (d : Reg) (a : Reg) (b : Reg) (m : KReg)
  /-- vm.amoadd (R254). Indivisibly adds vs3 elements to memory at indexed addresses. -/
  | vmAmoadd (d : Reg) (a : Reg) (b : Reg) (m : KReg)
  /-- vm.amofadd (R254). Indivisibly adds FP values to memory in index order. -/
  | vmAmofadd (d : Reg) (a : Reg) (b : Reg) (m : KReg)
  /-- vm.amomin (R254). Indivisible signed minimum into memory. -/
  | vmAmomin (d : Reg) (a : Reg) (b : Reg) (m : KReg)
  /-- vm.amomax (R254). Indivisible signed maximum into memory. -/
  | vmAmomax (d : Reg) (a : Reg) (b : Reg) (m : KReg)
  /-- vm.amominu (R254). Indivisible unsigned minimum into memory. -/
  | vmAmominu (d : Reg) (a : Reg) (b : Reg) (m : KReg)
  /-- vm.amomaxu (R254). Indivisible unsigned maximum into memory. -/
  | vmAmomaxu (d : Reg) (a : Reg) (b : Reg) (m : KReg)
  /-- vm.amoand (R254). Indivisible AND into memory. -/
  | vmAmoand (d : Reg) (a : Reg) (b : Reg) (m : KReg)
  /-- vm.amoor (R254). Indivisible OR into memory. -/
  | vmAmoor (d : Reg) (a : Reg) (b : Reg) (m : KReg)
  /-- vm.amoxor (R254). Indivisible XOR into memory. -/
  | vmAmoxor (d : Reg) (a : Reg) (b : Reg) (m : KReg)
  /-- vm.amoswap (R254). Indivisible swap into memory. -/
  | vmAmoswap (d : Reg) (a : Reg) (b : Reg) (m : KReg)
  /-- vm.amocas (R254). Indivisible compare-and-swap with expected vs3 and new vs3+1. -/
  | vmAmocas (d : BitVec 4) (a : Reg) (b : Reg) (m : KReg)
  /-- vm.amoadd.r (R254). vm.amoadd returning the old values in vs3. -/
  | vmAmoaddR (d : Reg) (a : Reg) (b : Reg) (m : KReg)
  /-- vm.amofadd.r (R254). vm.amofadd returning the old values in vs3. -/
  | vmAmofaddR (d : Reg) (a : Reg) (b : Reg) (m : KReg)
  /-- vm.amomin.r (R254). vm.amomin returning the old values. -/
  | vmAmominR (d : Reg) (a : Reg) (b : Reg) (m : KReg)
  /-- vm.amomax.r (R254). vm.amomax returning the old values. -/
  | vmAmomaxR (d : Reg) (a : Reg) (b : Reg) (m : KReg)
  /-- vm.amominu.r (R254). vm.amominu returning the old values. -/
  | vmAmominuR (d : Reg) (a : Reg) (b : Reg) (m : KReg)
  /-- vm.amomaxu.r (R254). vm.amomaxu returning the old values. -/
  | vmAmomaxuR (d : Reg) (a : Reg) (b : Reg) (m : KReg)
  /-- vm.amoand.r (R254). vm.amoand returning the old values. -/
  | vmAmoandR (d : Reg) (a : Reg) (b : Reg) (m : KReg)
  /-- vm.amoor.r (R254). vm.amoor returning the old values. -/
  | vmAmoorR (d : Reg) (a : Reg) (b : Reg) (m : KReg)
  /-- vm.amoxor.r (R254). vm.amoxor returning the old values. -/
  | vmAmoxorR (d : Reg) (a : Reg) (b : Reg) (m : KReg)
  /-- vm.amoswap.r (R254). vm.amoswap returning the old values. -/
  | vmAmoswapR (d : Reg) (a : Reg) (b : Reg) (m : KReg)
  /-- vm.amocas.r (R254). vm.amocas returning the old values in vs3. -/
  | vmAmocasR (d : BitVec 4) (a : Reg) (b : Reg) (m : KReg)
  /-- vm.updadd (R231). Adds vs3 into memory at unit stride at the bank ALUs, line by line. -/
  | vmUpdadd (d : Reg) (a : Reg) (m : KReg)
  /-- vm.updfadd (R231). FP-adds vs3 into memory at the bank ALUs. -/
  | vmUpdfadd (d : Reg) (a : Reg) (m : KReg)
  /-- vm.updmin (R231). Signed minimum of vs3 into memory at the bank ALUs. -/
  | vmUpdmin (d : Reg) (a : Reg) (m : KReg)
  /-- vm.updmax (R231). Signed maximum of vs3 into memory at the bank ALUs. -/
  | vmUpdmax (d : Reg) (a : Reg) (m : KReg)
  /-- vm.updfmax (R231). FP maximum of vs3 into memory at the bank ALUs. -/
  | vmUpdfmax (d : Reg) (a : Reg) (m : KReg)
  /-- vm.updfmin (R231). FP minimum of vs3 into memory at the bank ALUs. -/
  | vmUpdfmin (d : Reg) (a : Reg) (m : KReg)
  /-- vm.fence (R241). Orders the strand's accesses at the named scope, releasing and acquiring at DIE or wider. -/
  | vmFence (a : Reg) (m : KReg)
  /-- vm.fenceb (R262). Fences at the scope and sends a barrier arrival as a release. -/
  | vmFenceb (a : Reg) (b : Reg) (m : KReg)
  /-- vm.bwait (R263). Waits at the barrier's slice until its phase differs from x[b]. -/
  | vmBwait (a : Reg) (b : Reg) (m : KReg)
  /-- vm.gcsleep (R259). Sleeps until any or all armed words hold their expected values. -/
  | vmGcsleep (d : BitVec 4) (a : Reg) (b : BitVec 1) (m : KReg)
  /-- vm.rofence (R249). Performs vm.fence die and empties the core's read-only buffer. -/
  | vmRofence (m : KReg)
  /-- vm.cp (R233). Reads a copy descriptor and starts a copy on tag x[b]. -/
  | vmCp (a : Reg) (b : Reg) (m : KReg)
  /-- vm.cpwany (R234). Waits until any tag in the mask completes and returns completed tags. -/
  | vmCpwany (d : Reg) (a : Reg) (m : KReg)
  /-- vm.cpwall (R234). Waits until every tag in the mask completes. -/
  | vmCpwall (d : Reg) (a : Reg) (m : KReg)
  /-- vm.cpffr (R234). Returns and clears the copy-fault bits in the mask. -/
  | vmCpffr (d : Reg) (a : Reg) (m : KReg)
  /-- vm.cpclr (R234). Waits for the masked copies and clears their ctags bits. -/
  | vmCpclr (a : Reg) (m : KReg)
  /-- vp.sort (R123). Stably sorts vs2 under vkey into a RUN vd. -/
  | vpSort (d : Reg) (b : Reg)
  /-- vp.chk (R124). Tests vs2 for sortedness and marks it RUN when sorted. -/
  | vpChk (d : Reg) (b : Reg)
  /-- vp.merge (R125). Merges two runs into the register pair vd, vd+1. -/
  | vpMerge (d : BitVec 4) (a : Reg) (b : Reg)
  /-- vp.mergec (R126). Keeps the lowest h merged elements and sets vmcnt. -/
  | vpMergec (d : Reg) (a : Reg) (b : Reg)
  /-- vp.isect (R127). Keeps vs1 elements whose key occurs in vs2. -/
  | vpIsect (d : Reg) (a : Reg) (b : Reg)
  /-- vp.diff (R127). Keeps vs1 elements whose key does not occur in vs2. -/
  | vpDiff (d : Reg) (a : Reg) (b : Reg)
  /-- vp.uniq (R128). Keeps the first element of each group of equal keys. -/
  | vpUniq (d : Reg) (b : Reg)
  /-- vp.rank (R129). Writes the lower-bound rank of each vs2 key in run vs1. -/
  | vpRank (d : Reg) (a : Reg) (b : Reg)
  /-- vp.part (R129). Writes the bucket of each vs2 key among the splitters vs1. -/
  | vpPart (d : Reg) (a : Reg) (b : Reg)
  /-- vp.keys (R130). Extracts the key of each element into a DENSE vd. -/
  | vpKeys (d : Reg) (b : Reg)
  /-- vp.spk (R373). Tests strictly rising coordinates and marks vs2 SPARSE. -/
  | vpSpk (d : Reg) (b : Reg)
  /-- vp.spx (R376). Expands a sparse register to dense form. -/
  | vpSpx (d : Reg) (b : Reg)
  /-- vp.spadd (R374). Writes the sparse union with values summed mod 2^16. -/
  | vpSpadd (d : Reg) (a : Reg) (b : Reg)
  /-- vp.spmul (R374). Writes the sparse intersection with values multiplied mod 2^16. -/
  | vpSpmul (d : Reg) (a : Reg) (b : Reg)
  /-- vp.spdot (R375). Writes the 64-bit sparse dot product to rd. -/
  | vpSpdot (d : Reg) (a : Reg) (b : Reg)
  /-- vp.spbuild (R376). Builds a sparse register from the non-zero dense values. -/
  | vpSpbuild (d : Reg) (b : Reg)
  /-- vp.spcoord (R377). Extracts the coordinates of a sparse register. -/
  | vpSpcoord (d : Reg) (b : Reg)
  /-- vp.spval (R377). Extracts the widened values of a sparse register. -/
  | vpSpval (d : Reg) (b : Reg)
  /-- vp.topk (R301). Writes the k best elements of each group of E under vkey. -/
  | vpTopk (d : Reg) (a : Reg) (b : Reg)
  /-- vp.hist (R302). Counts occurrences of each bin value in vs2. -/
  | vpHist (d : Reg) (a : Reg) (b : Reg)
  /-- vp.scan (R303). Writes the exclusive prefix sum of vs2. -/
  | vpScan (d : Reg) (b : Reg)
  /-- vp.scani (R303). Writes the inclusive prefix sum of vs2. -/
  | vpScani (d : Reg) (b : Reg)
  /-- vp.gperm (R304). Writes each assignment's row from bases plus prior duplicates. -/
  | vpGperm (d : Reg) (a : Reg) (b : Reg)
  /-- vp.slideup (R174). Slides vs2 elements up by x[a]. -/
  | vpSlideup (d : Reg) (a : Reg) (b : Reg)
  /-- vp.slidedn (R174). Slides vs2 elements down by x[a]. -/
  | vpSlidedn (d : Reg) (a : Reg) (b : Reg)
  /-- vp.perm (R174). Permutes vs2 by the indices in vs1. -/
  | vpPerm (d : Reg) (a : Reg) (b : Reg)
  /-- vp.compress (R174). Packs the vs2 elements selected by ka to the front. -/
  | vpCompress (d : Reg) (a : KReg) (b : Reg)
  /-- vp.expand (R174). Spreads packed vs2 elements to the positions set in ka. -/
  | vpExpand (d : Reg) (a : KReg) (b : Reg)
  /-- vp.rotg (R174). Rotates whole element groups by x[a] mod EG. -/
  | vpRotg (d : Reg) (a : Reg) (b : Reg)
  /-- vp.bcast (R174). Broadcasts element x[a] of vs2 to every element. -/
  | vpBcast (d : Reg) (a : Reg) (b : Reg)
  /-- vp.ext (R113). Extracts element x[a] of vs2 into rd, extended. -/
  | vpExt (d : Reg) (a : Reg) (b : Reg)
  /-- vp.ins (R174). Inserts the low w bits of x[b] at element x[a] of vd. -/
  | vpIns (d : Reg) (a : Reg) (b : Reg)
  /-- vp.getd (R131). Reads the descriptor of vs2 into rd once its producer completes. -/
  | vpGetd (d : Reg) (b : Reg)
  /-- vp.setd (R132). Shortens or downgrades the descriptor of vd within limits. -/
  | vpSetd (d : Reg) (a : Reg)
  /-- vx.mmac (R289). Dense tile product accumulated into the C group. -/
  | vxMmac (d : Reg) (a : Reg) (b : Reg)
  /-- vx.mmacs (R290). N-of-8 sparse tile product accumulated into C. -/
  | vxMmacs (d : Reg) (a : Reg) (e : BitVec 2) (n : BitVec 2)
  /-- vx.mgemm (R295). Long product streamed from memory in K-block steps into C. -/
  | vxMgemm (d : Reg) (a : Reg)
  /-- vx.mtld (R292). Loads G tile rows from a pitched base, plain or first-fault. -/
  | vxMtld (d : Reg) (a : Reg) (b : Reg)
  /-- vx.mcomp (R293). Compresses a dense B into N-of-8 slots. -/
  | vxMcomp (d : BitVec 2) (a : Reg) (b : Reg)
  /-- vx.munf (R296). Loads an unfolding descriptor into the strand's slot. -/
  | vxMunf (a : Reg)
  /-- vx.mzero (R291). Writes +0 to the G-register group below VL. -/
  | vxMzero (d : Reg)
  /-- vx.push (R264). Sends a register group to a peer strand's registers. -/
  | vxPush (d : Reg) (a : Reg) (b : Reg) (m : KReg)
  /-- vx.take (R265). Waits for FULL and maps the pushed register into vd. -/
  | vxTake (d : Reg)
  /-- vx.fe (R265). Returns the FE bits of v0–v31 in rd. -/
  | vxFe (d : Reg)
  /-- vx.claim (R320). Presents a name to the Slath and returns MAKER, WAITER, DONE or BUSY. -/
  | vxClaim (d : Reg) (a : Reg) (b : Reg)
  /-- vx.fulfil (R321). Releases and hands a value handle to the claimed entry. -/
  | vxFulfil (a : Reg) (b : Reg)
  /-- vx.abandon (R322). Gives up a claim handle or a future. -/
  | vxAbandon (a : Reg)
  /-- vx.fld (R323). Waits on a future until it is DONE or handed over. -/
  | vxFld (d : Reg) (a : Reg)
  /-- vx.fprobe (R324). Returns the status of an entry named by a handle. -/
  | vxFprobe (d : Reg) (a : Reg)
  /-- vx.release (R325). Drops a reference to a DONE entry. -/
  | vxRelease (a : Reg)
  /-- vx.spawn (R334). Releases at DIE scope and inserts a launch record into the die's pool. -/
  | vxSpawn (d : Reg) (a : Reg)
  /-- vx.dep (R335). Adds a dependence edge to a held node or releases it. -/
  | vxDep (d : Reg) (a : Reg) (b : Reg)
  /-- vx.glaunch (R298). Fences and forwards a grouped-launch descriptor to the cluster's block. -/
  | vxGlaunch (a : Reg)
  /-- vx.lvl (R337). Returns a level index or unit count of the task. -/
  | vxLvl (d : Reg) (a : Reg)
  /-- vx.save (R380). Gives up the context with code 0 or fails it with codes 1 to 127. -/
  | vxSave (a : Reg)
  /-- vx.icinv (R383). Fences and invalidates instruction caches within a scope. -/
  | vxIcinv (a : Reg)
  /-- vx.tlbinv (R384). Invalidates matching TLB entries throughout the package and waits for their accesses. -/
  | vxTlbinv (a : Reg) (b : Reg)
  /-- RESERVED_WORD (R57). A word failing the decode check stalls until the queue drains, then traps illegal-instruction. -/
  | reservedWord (w : InstrWord)
  /-- FENCE_I (R36). Scalar fence.i waits for the queue and stores, then invalidates the core's instruction cache. -/
  | fenceI (imm : BitVec 12) (rs1 : Reg) (rd : Reg)
  /-- SFENCE_VMA (R368). Waits for the queue and scalar stores, then invalidates the core's L1 TLB and cluster's L2 TLB entries. -/
  | sfenceVma (rs1 : Reg) (rs2 : Reg)
  /-- SCALAR_FENCE (R242). Orders the strand's scalar accesses as RVWMO gives. -/
  | scalarFence (fm : BitVec 4) (pred : BitVec 4) (succ : BitVec 4) (rs1 : Reg) (rd : Reg)
  /-- SCALAR_LOAD (R182). Scalar load served from the scalar L1 or its slice. -/
  | scalarLoad (k : LoadKind) (rd : Reg) (rs1 : Reg) (imm : BitVec 12)
  /-- SCALAR_STORE (R182). Write-through scalar store sent to its line's slice. -/
  | scalarStore (k : StoreKind) (rs1 : Reg) (rs2 : Reg) (imm : BitVec 12)
  /-- SCALAR_AMO (R182). Scalar AMO, LR or SC performed at the bank ALU. -/
  | scalarAmo (op : AmoOp) (dword : Bool) (aq : Bool) (rl : Bool) (rd : Reg) (rs1 : Reg) (rs2 : Reg)
  /-- CSR_READ_WAIT (R19). Read of vstat, vmcnt or vtrows waits for older vector instructions. -/
  | csrReadWait (csr : WaitCsr) (op : CsrOp) (rd : Reg)
  /-- CSR_WRITE_VSTAT (R45). Write to vstat waits for older vector instructions to complete. -/
  | csrWriteVstat (op : CsrOp) (rd : Reg) (src : Reg)
  /-- CSR_WRITE_VRTHR (R185). Write to vrthr waits for older fault points, then sets the residency threshold. -/
  | csrWriteVrthr (op : CsrOp) (rd : Reg) (src : Reg)
  /-- CSR_WRITE_DATP (R45). Write to datp waits for the queue and copies, then applies the new translation. -/
  | csrWriteDatp (op : CsrOp) (rd : Reg) (src : Reg)
  /-- CSR_WRITE_FMTB (R148). Write to fmtb waits for the queue, then later translations use the new table. -/
  | csrWriteFmtb (op : CsrOp) (rd : Reg) (src : Reg)
  /-- CSR_WRITE (R45). Write to any other CSR, trapping on read-only or under-privileged access. -/
  | csrWrite (csr : BitVec 12) (op : CsrOp) (rd : Reg) (src : Reg)
  /-- SCALAR_INSTRUCTION (R35). An ordinary RV64I/M/Zba/Zbb instruction (ALU, branch, jump, ecall from U), fetched and executed by the strand's front end. -/
  | scalarInstruction (op : ScalarOp)
  /-- vx.end (R114). Drains, writes the completion word and tears the task down. -/
  | vxEnd
  /-- vx.yield (R336). Drains and takes PREEMPT when a request or an eligible ready node waits. -/
  | vxYield
  /-- vx.restore (R381). Drains, reloads the watchdog and reloads a pending frame. -/
  | vxRestore
  /-- vx.vdrain (R382). Waits until the vector queue is empty. -/
  | vxVdrain
  /-- vx.wdpet (R385). Reloads the watchdog when older vector instructions have committed. -/
  | vxWdpet
  /-- WFI (R36). Stops the scalar stream until an interrupt is pending. -/
  | wfi
  /-- SRET (R387). Returns from a supervisor trap, reactivating a PREEMPTED context. -/
  | sret
  /-- MRET (R387). Returns from a machine trap. -/
  | mret
  /-- ECALL_FROM_S (R350). Firmware returns after the ecall with a0 = −1. -/
  | ecallFromS
  /-- ELEMENT_GROUP_ISSUE (R339). A lane group issues one element group chosen by the issue keys. -/
  | elementGroupIssue
  /-- VECTOR_COMMIT (R18). A vector instruction whose elements are complete commits in program order. -/
  | vectorCommit
  /-- TRAP_ENTRY (R343). A trap is delivered once the vector queue is empty. -/
  | trapEntry
  /-- SUPERVISOR_TIMER_INTERRUPT (R344). Becomes pending when time reaches stimecmp. -/
  | supervisorTimerInterrupt
  /-- PREEMPTION_REQUEST (R332). Dispatcher raises a request at a lower-priority strand after a node waits 10 µs. -/
  | preemptionRequest
  /-- FORCED_SAVE (R354). Deadline expiry forces the strand out, writing a full frame. -/
  | forcedSave
  /-- SAVE_ENGINE_TIMEOUT (R355). 10 ms save timeout makes the context LOST with ERR 129. -/
  | saveEngineTimeout
  /-- WATCHDOG_EXPIRY (R358). Watchdog expiry writes a frame with cause 48 and delivers the trap. -/
  | watchdogExpiry
  /-- TASK_DISPATCH (R350). A task is placed on a strand with mode, supervisor state and reset CSRs. -/
  | taskDispatch
  /-- TASK_RESUMPTION (R356). A PREEMPTED or FORCED context is reloaded on a free strand. -/
  | taskResumption
  /-- NODE_READY (R332). A pool node becomes ready once predecessors complete and streams are resident. -/
  | nodeReady
  /-- READ_REQUEST (R237). A slice performs a read of a line, filling from the LLC on a miss. -/
  | readRequest
  /-- READ_REPLY (R203). A reply's flits land in a reassembly record and deliver when whole. -/
  | readReply
  /-- WRITE_REQUEST (R210). The home slice invalidates scalar copies, accepts and stamps a write. -/
  | writeRequest
  /-- WRITE_ACKNOWLEDGEMENT (R205). Returns the stamp to the writer, freeing its next request for the line. -/
  | writeAcknowledgement
  /-- ATOMIC_REQUEST (R184). A bank ALU performs an atomic or update operation on a line. -/
  | atomicRequest
  /-- ATOMIC_REPLY (R253). Returns old values of an atomic to its requester. -/
  | atomicReply
  /-- LINE_LOCK_REQUEST (R255). A vector atomic locks a line at its home, or is answered NACK when the set is full. -/
  | lineLockRequest
  /-- AMO_LOCK_RETRY (R255). After a NACK backoff the VMU retakes its line locks. -/
  | amoLockRetry
  /-- SCALAR_L1_INVALIDATION (R183). A multicast invalidation removes a line from scalar L1s. -/
  | scalarL1Invalidation
  /-- INVALIDATION_ACKNOWLEDGEMENT (R183). Acknowledges an invalidation so the slice can accept the write. -/
  | invalidationAcknowledgement
  /-- OWNERSHIP_REQUEST (R194). An engine asks its home slice for exclusive ownership of a line. -/
  | ownershipRequest
  /-- OWNERSHIP_GRANT (R194). The slice grants ownership of a line to one agent in arrival order. -/
  | ownershipGrant
  /-- OWNERSHIP_RECALL (R194). The slice recalls an owned line when another party accesses it. -/
  | ownershipRecall
  /-- BARRIER_ARRIVAL (R262). The bank ALU counts an arrival and advances the phase when complete. -/
  | barrierArrival
  /-- BARRIER_WAIT_REQUEST (R263). The slice answers or defers a bwait by its phase. -/
  | barrierWaitRequest
  /-- NACK_RETRY (R263). A port resends a NACKed request after its doubling backoff. -/
  | nackRetry
  /-- SLATH_CLAIM_REQUEST (R314). The home slice steps an entry for a claim, allocating or evicting per R315. -/
  | slathClaimRequest
  /-- SLATH_FLD_REQUEST (R316). The slice answers or holds a future load in its deferral buffer. -/
  | slathFldRequest
  /-- SLATH_FULFIL_REQUEST (R314). The entry becomes DONE and every held future is answered. -/
  | slathFulfilRequest
  /-- SLATH_ABANDON_REQUEST (R314). The entry drops a future or hands over its maker role. -/
  | slathAbandonRequest
  /-- SLATH_RELEASE_REQUEST (R314). The entry's REFS count is decremented. -/
  | slathReleaseRequest
  /-- SLATH_PROBE_REQUEST (R324). The slice returns an entry's status word. -/
  | slathProbeRequest
  /-- SC_TICKET (R229). The D0.s0 sequence counter hands out the next ticket when the last returns. -/
  | scTicket
  /-- PUSH_REQUEST (R264). A pusher asks the peer for an EMPTY register and a spare. -/
  | pushRequest
  /-- PUSH_GRANT (R264). The peer grants a register and records the bound context. -/
  | pushGrant
  /-- PUSH_DATA (R264). Push data fills a fresh register and sets FE FULL when whole. -/
  | pushData
  /-- REPLICA_UPDATE (R244). A guest slice applies a home write once its frontier allows. -/
  | replicaUpdate
  /-- EPOCH_CLOSE_TIMEOUT (R244). An epoch closes 256 Weave cycles after its first write without a release. -/
  | epochCloseTimeout
  /-- RESTAMP (R210). A home restamps a guested line before its counter runs 2^30 ahead. -/
  | restamp
  /-- FORWARDED_ACCESS (R180). A slice forwards an uncached host or Wale access. -/
  | forwardedAccess
  /-- MULTICAST_READ_REQUEST (R212). A slice joins, opens or serves alone a masked multicast read. -/
  | multicastReadRequest
  /-- MERGE_WINDOW_CLOSE (R212). A window closes when all cores joined or 64 cycles pass, and its line is read once. -/
  | mergeWindowClose
  /-- MULTICAST_READ_REPLY (R211). A multicast reply lands in the multicast record of each core in its mask. -/
  | multicastReadReply
  /-- ROUTER_CYCLE (R207). A router ejects, ranks, assigns ports, forks and injects flits. -/
  | routerCycle
  /-- RECORD_LOSS_TIMEOUT (R403). A marked record unanswered 2^24 cycles after LOSS fails with DATA-ERROR. -/
  | recordLossTimeout
  /-- THROTTLE_WINDOW_END (R213). Each 256-cycle window adjusts the node's injection interval k. -/
  | throttleWindowEnd
  /-- ROUTER_POWER_DOWN (R215). A router powers down after 2,048 idle Weave cycles. -/
  | routerPowerDown
  /-- GCSLEEP_WAKE (R259). A write to a watched line rechecks a sleeper's armed words. -/
  | gcsleepWake
  /-- GCSLEEP_POLL (R259). Unwatched sleeper lines are re-read every 256 Weave cycles. -/
  | gcsleepPoll
  /-- PAGE_WALK (R366). A free walker walks Sv57 tables for a TLB miss and fills the TLBs. -/
  | pageWalk
  /-- COPY_START (R193). The copy engine starts a copy and writes rows and lines in order. -/
  | copyStart
  /-- COPY_COMPLETE (R191). A tag's bit is set when every destination byte has been accepted. -/
  | copyComplete
  /-- COPY_FAILURE (R233). A failing copy ends at once and sets ctags and the fault bit. -/
  | copyFailure
  /-- MGEMM_STEP (R277). The sequencer applies one fetched K block to the accumulator. -/
  | mgemmStep
  /-- GLAUNCH_BLOCK_SERVE (R285). A grouped-launch block reads a descriptor and counts and inserts nodes. -/
  | glaunchBlockServe
  /-- GLAUNCH_NODE (R269). A node computes its C rows under the launcher's translation. -/
  | glaunchNode
  /-- GLAUNCH_DONE (R269). When every inserted node has ended, the block writes DONE as a release. -/
  | glaunchDone
  /-- QUEUE_DOORBELL (R390). A TAIL write submits packets to a launch queue. -/
  | queueDoorbell
  /-- QUEUE_START (R390). A write of 1 to STATE from STOPPED resets HEAD, TAIL and EXPSEQ. -/
  | queueStart
  /-- QUEUE_STOP (R390). A write of 0 to STATE stops taking packets. -/
  | queueStop
  /-- PACKET_TAKE (R391). The control plane checks and takes the next packet, or overruns. -/
  | packetTake
  /-- TASK_ABORT (R392). A write to ABORT fails the named task with ERR 161. -/
  | taskAbort
  /-- TLBCTL_GO (R393). A write of GO performs a package-wide TLB invalidation. -/
  | tlbctlGo
  /-- BAR0_REGISTER_WRITE (R389). A host write to a BAR0 register with no row of its own. -/
  | bar0RegisterWrite
  /-- BAR2_READ (R388). A host read of device HBM or the Basket through BAR2. -/
  | bar2Read
  /-- BAR2_WRITE (R388). A host posted write to device HBM or the Basket through BAR2. -/
  | bar2Write
  /-- SET_PHYSICAL_MAP (R394). Handle request sets HBMB, BSKB, HOSTB and HOSTSZ. -/
  | setPhysicalMap
  /-- SET_WALE_WINDOW (R394). Handle request configures or disables a Wale window. -/
  | setWaleWindow
  /-- SET_BASKET_PARTITION (R186). Handle request changes a die's Basket partition, writing back and zeroing. -/
  | setBasketPartition
  /-- SET_CONTEXT_TABLE (R394). Handle request sets a die's context table base. -/
  | setContextTable
  /-- SET_LINK_BONDING (R394). Handle request bonds or separates the PCIe links. -/
  | setLinkBonding
  /-- SET_POWER_LIMIT (R394). Handle request sets the package power limit. -/
  | setPowerLimit
  /-- SENSOR_READ (R398). Handle returns sensor readings to an MCTP requester. -/
  | sensorRead
  /-- LOG_READ (R399). Handle returns event log entries. -/
  | logRead
  /-- FIRMWARE_UPDATE (R400). Handle writes a new image into the inactive firmware slot. -/
  | firmwareUpdate
  /-- ATTESTATION (R400). Handle returns a signed report with measurements and the caller's nonce. -/
  | attestation
  /-- SENSOR_SAMPLE (R398). Every 1 ms the Handle samples its sensors. -/
  | sensorSample
  /-- SCRUB (R401). Background scrubbing visits lines, correcting and logging errors. -/
  | scrub
  /-- STRUCTURE_ERROR (R404). An uncorrectable error in a Slath, link, deferral or pool entry is handled and logged. -/
  | structureError
  /-- COLD_RESET (R405). Power-on resets everything and brings the device up in order. -/
  | coldReset
  /-- PACKAGE_RESET (R405). PCIe hot reset or Handle request resets all but the Handle. -/
  | packageReset
  /-- DIE_RESET (R406). A die is reset while the other dies keep running. -/
  | dieReset
  /-- PCIE_D3HOT (R408). Entry to D3hot loses all device state except the Handle's. -/
  | pcieD3hot
  /-- CORE_CLOCK_GATE (R408). A core with no task clock-gates itself. -/
  | coreClockGate
  /-- WALE_FLIT_RECEIVE (R396). A Wale port corrects, checks and accepts or requests replay of a flit. -/
  | waleFlitReceive
  /-- WALE_REPLAY_REQUEST (R396). The sender resends from the requested sequence. -/
  | waleReplayRequest
  /-- WALE_PORT_RETRAIN (R396). The Handle retrains a downed Wale port. -/
  | walePortRetrain
  /-- REMOTE_ACCESS_TIMEOUT (R396). A remote access undelivered within 1 ms ends with an error reply. -/
  | remoteAccessTimeout
  /-- REMOTE_ACCESS (R397). An incoming Wale access is performed at the local home slice. -/
  | remoteAccess
  /-- REPLICA_DROP (R244). A guest slice that drops a replica tells the home, which clears that die's bit in the line's guest mask. -/
  | replicaDrop
  /-- D3HOT_RESTART (R408). On leaving PCIe D3hot the device, having lost all but the Handle's state, restarts from step 2 of the bring-up sequence. -/
  | d3hotRestart
  deriving DecidableEq, Repr

end Sys2Proof
end

