-- ==== Sys2Proof/WellFormed.lean ====
section
/-! DEFINITION. Which instructions have a word: the field rules of R40, R53, R56, R57 that the types do not carry, and
the split of the Zicsr instructions among their rows (R45). -/

namespace Sys2Proof

/-- The destination format codes of `va.fcvt`: 0 to 5 or 8 to 12 (R52). -/
def fcvtCode (a : Reg) : Bool := decide (a.toNat ≤ 5) || (decide (8 ≤ a.toNat) && decide (a.toNat ≤ 12))

/-- Whether a Zicsr form writes its CSR: `csrrs` and `csrrc` with a zero source do not (R45.1). -/
def csrWrites (op : CsrOp) (src : Reg) : Bool :=
  match op with
  | .rw => true
  | .rwi => true
  | .rs => decide (src ≠ 0)
  | .rc => decide (src ≠ 0)
  | .rsi => decide (src ≠ 0)
  | .rci => decide (src ≠ 0)

/-- Whether a Zicsr word belongs to a row of its own rather than to the general row CSR_WRITE (R19, R45). -/
def csrOwnRow (csr : BitVec 12) (op : CsrOp) (src : Reg) : Bool :=
  if csrWrites op src then decide (csr = 0x800#12 ∨ csr = 0x801#12 ∨ csr = 0x5C0#12 ∨ csr = 0x5C1#12)
  else decide (csr = 0x800#12 ∨ csr = 0xCC3#12 ∨ csr = 0xCC4#12)

/-- The Zicsr forms that may leave the CSR alone. -/
def csrMayRead (op : CsrOp) : Bool :=
  match op with
  | .rw => false
  | .rwi => false
  | _ => true

/-- The field rules of a scalar operation: nothing beyond the types. -/
def wellFormedScalar (_ : ScalarOp) : Bool := true

/-- The field rules of an instruction: R40.4 and R40.5 for mask registers, the scopes of R53 and R260, the mask of
`vm.stcx`, the code of `va.fcvt`, the N code of `vx.mmacs`. -/
def wellFormed (i : Instr) : Bool :=
  match i with
  | .vaAddIvv _ _ _ _ => true
  | .vaSubIvv _ _ _ _ => true
  | .vaMulIvv _ _ _ _ => true
  | .vaMulhIvv _ _ _ _ => true
  | .vaMinIvv _ _ _ _ => true
  | .vaMaxIvv _ _ _ _ => true
  | .vaMinuIvv _ _ _ _ => true
  | .vaMaxuIvv _ _ _ _ => true
  | .vaAndIvv _ _ _ _ => true
  | .vaOrIvv _ _ _ _ => true
  | .vaXorIvv _ _ _ _ => true
  | .vaSllIvv _ _ _ _ => true
  | .vaSrlIvv _ _ _ _ => true
  | .vaSraIvv _ _ _ _ => true
  | .vaMergeIvv _ _ _ _ => true
  | .vaMulhuIvv _ _ _ _ => true
  | .vaAddIvx _ _ _ _ => true
  | .vaSubIvx _ _ _ _ => true
  | .vaMulIvx _ _ _ _ => true
  | .vaMulhIvx _ _ _ _ => true
  | .vaMinIvx _ _ _ _ => true
  | .vaMaxIvx _ _ _ _ => true
  | .vaMinuIvx _ _ _ _ => true
  | .vaMaxuIvx _ _ _ _ => true
  | .vaAndIvx _ _ _ _ => true
  | .vaOrIvx _ _ _ _ => true
  | .vaXorIvx _ _ _ _ => true
  | .vaSllIvx _ _ _ _ => true
  | .vaSrlIvx _ _ _ _ => true
  | .vaSraIvx _ _ _ _ => true
  | .vaMergeIvx _ _ _ _ => true
  | .vaMulhuIvx _ _ _ _ => true
  | .vaAddIvi _ _ _ _ => true
  | .vaSubIvi _ _ _ _ => true
  | .vaMinIvi _ _ _ _ => true
  | .vaMaxIvi _ _ _ _ => true
  | .vaMinuIvi _ _ _ _ => true
  | .vaMaxuIvi _ _ _ _ => true
  | .vaAndIvi _ _ _ _ => true
  | .vaOrIvi _ _ _ _ => true
  | .vaXorIvi _ _ _ _ => true
  | .vaSllIvi _ _ _ _ => true
  | .vaSrlIvi _ _ _ _ => true
  | .vaSraIvi _ _ _ _ => true
  | .vaMergeIvi _ _ _ _ => true
  | .vaFaddFvv _ _ _ _ => true
  | .vaFsubFvv _ _ _ _ => true
  | .vaFmulFvv _ _ _ _ => true
  | .vaFdivFvv _ _ _ _ => true
  | .vaFminFvv _ _ _ _ => true
  | .vaFmaxFvv _ _ _ _ => true
  | .vaFmaccFvv _ _ _ _ => true
  | .vaFnmaccFvv _ _ _ _ => true
  | .vaFmsacFvv _ _ _ _ => true
  | .vaFnmsacFvv _ _ _ _ => true
  | .vaFsgnjFvv _ _ _ _ => true
  | .vaFsgnjnFvv _ _ _ _ => true
  | .vaFsgnjxFvv _ _ _ _ => true
  | .vaFaddFvx _ _ _ _ => true
  | .vaFsubFvx _ _ _ _ => true
  | .vaFmulFvx _ _ _ _ => true
  | .vaFdivFvx _ _ _ _ => true
  | .vaFminFvx _ _ _ _ => true
  | .vaFmaxFvx _ _ _ _ => true
  | .vaFmaccFvx _ _ _ _ => true
  | .vaFnmaccFvx _ _ _ _ => true
  | .vaFmsacFvx _ _ _ _ => true
  | .vaFnmsacFvx _ _ _ _ => true
  | .vaFsgnjFvx _ _ _ _ => true
  | .vaFsgnjnFvx _ _ _ _ => true
  | .vaFsgnjxFvx _ _ _ _ => true
  | .vaSeq d _ _ _ => decide (d ≠ 0)
  | .vaSne d _ _ _ => decide (d ≠ 0)
  | .vaSlt d _ _ _ => decide (d ≠ 0)
  | .vaSltu d _ _ _ => decide (d ≠ 0)
  | .vaSle d _ _ _ => decide (d ≠ 0)
  | .vaSleu d _ _ _ => decide (d ≠ 0)
  | .vaFeq d _ _ _ => decide (d ≠ 0)
  | .vaFlt d _ _ _ => decide (d ≠ 0)
  | .vaFle d _ _ _ => decide (d ≠ 0)
  | .vaFne d _ _ _ => decide (d ≠ 0)
  | .vaKand d _ _ => decide (d ≠ 0)
  | .vaKor d _ _ => decide (d ≠ 0)
  | .vaKxor d _ _ => decide (d ≠ 0)
  | .vaKandn d _ _ => decide (d ≠ 0)
  | .vaKnot d _ => decide (d ≠ 0)
  | .vaFsqrt _ _ _ => true
  | .vaFrsqrte _ _ _ => true
  | .vaFrece _ _ _ => true
  | .vaFlog2 _ _ _ => true
  | .vaFexp2 _ _ _ => true
  | .vaFclass _ _ _ => true
  | .vaFcvt _ a _ _ => fcvtCode a
  | .vaMv _ _ _ => true
  | .vaSplat _ _ _ => true
  | .vaIota _ _ => true
  | .vaRng _ _ _ => true
  | .vaRedsum _ _ _ => true
  | .vaFredsum _ _ _ => true
  | .vaRedmax _ _ _ => true
  | .vaRedmin _ _ _ => true
  | .vaFredmax _ _ _ => true
  | .vaFredmin _ _ _ => true
  | .vaRedmaxi _ _ _ => true
  | .vaFredmaxi _ _ _ => true
  | .vaRedand _ _ _ => true
  | .vaRedor _ _ _ => true
  | .vaRedxor _ _ _ => true
  | .vaKpop _ _ _ => true
  | .vaKfirst _ _ _ => true
  | .vaSetvl _ _ _ => true
  | .vaSetvlP _ _ _ => true
  | .vaSetcfg _ _ => true
  | .vaSetkey _ _ => true
  | .vmLd _ _ _ => true
  | .vmLds _ _ _ _ => true
  | .vmLdx _ _ _ _ => true
  | .vmLdff _ _ _ => true
  | .vmLdnc _ _ _ => true
  | .vmLdsc _ _ _ => true
  | .vmLdmc _ _ _ _ => true
  | .vmLdraw _ _ _ => true
  | .vmLdgl _ _ _ _ => true
  | .vmLdffx _ _ _ _ => true
  | .vmSt _ _ _ => true
  | .vmSts _ _ _ _ => true
  | .vmStx _ _ _ _ => true
  | .vmStsc _ _ _ => true
  | .vmStraw _ _ _ => true
  | .vmStcx _ _ _ m => decide (m ≠ 0)
  | .vmAmoadd _ _ _ _ => true
  | .vmAmofadd _ _ _ _ => true
  | .vmAmomin _ _ _ _ => true
  | .vmAmomax _ _ _ _ => true
  | .vmAmominu _ _ _ _ => true
  | .vmAmomaxu _ _ _ _ => true
  | .vmAmoand _ _ _ _ => true
  | .vmAmoor _ _ _ _ => true
  | .vmAmoxor _ _ _ _ => true
  | .vmAmoswap _ _ _ _ => true
  | .vmAmocas _ _ _ _ => true
  | .vmAmoaddR _ _ _ _ => true
  | .vmAmofaddR _ _ _ _ => true
  | .vmAmominR _ _ _ _ => true
  | .vmAmomaxR _ _ _ _ => true
  | .vmAmominuR _ _ _ _ => true
  | .vmAmomaxuR _ _ _ _ => true
  | .vmAmoandR _ _ _ _ => true
  | .vmAmoorR _ _ _ _ => true
  | .vmAmoxorR _ _ _ _ => true
  | .vmAmoswapR _ _ _ _ => true
  | .vmAmocasR _ _ _ _ => true
  | .vmUpdadd _ _ _ => true
  | .vmUpdfadd _ _ _ => true
  | .vmUpdmin _ _ _ => true
  | .vmUpdmax _ _ _ => true
  | .vmUpdfmax _ _ _ => true
  | .vmUpdfmin _ _ _ => true
  | .vmFence a _ => decide (a.toNat ≤ 5)
  | .vmFenceb _ b _ => decide (b.toNat ≤ 5)
  | .vmBwait _ _ _ => true
  | .vmGcsleep _ _ _ _ => true
  | .vmRofence _ => true
  | .vmCp _ _ _ => true
  | .vmCpwany _ _ _ => true
  | .vmCpwall _ _ _ => true
  | .vmCpffr _ _ _ => true
  | .vmCpclr _ _ => true
  | .vpSort _ _ => true
  | .vpChk _ _ => true
  | .vpMerge _ _ _ => true
  | .vpMergec _ _ _ => true
  | .vpIsect _ _ _ => true
  | .vpDiff _ _ _ => true
  | .vpUniq _ _ => true
  | .vpRank _ _ _ => true
  | .vpPart _ _ _ => true
  | .vpKeys _ _ => true
  | .vpSpk _ _ => true
  | .vpSpx _ _ => true
  | .vpSpadd _ _ _ => true
  | .vpSpmul _ _ _ => true
  | .vpSpdot _ _ _ => true
  | .vpSpbuild _ _ => true
  | .vpSpcoord _ _ => true
  | .vpSpval _ _ => true
  | .vpTopk _ _ _ => true
  | .vpHist _ _ _ => true
  | .vpScan _ _ => true
  | .vpScani _ _ => true
  | .vpGperm _ _ _ => true
  | .vpSlideup _ _ _ => true
  | .vpSlidedn _ _ _ => true
  | .vpPerm _ _ _ => true
  | .vpCompress _ _ _ => true
  | .vpExpand _ _ _ => true
  | .vpRotg _ _ _ => true
  | .vpBcast _ _ _ => true
  | .vpExt _ _ _ => true
  | .vpIns _ _ _ => true
  | .vpGetd _ _ => true
  | .vpSetd _ _ => true
  | .vxMmac _ _ _ => true
  | .vxMmacs _ _ _ n => decide (n.toNat ≤ 2)
  | .vxMgemm _ _ => true
  | .vxMtld _ _ _ => true
  | .vxMcomp _ _ _ => true
  | .vxMunf _ => true
  | .vxMzero _ => true
  | .vxPush _ _ _ _ => true
  | .vxTake _ => true
  | .vxFe _ => true
  | .vxClaim _ _ _ => true
  | .vxFulfil _ _ => true
  | .vxAbandon _ => true
  | .vxFld _ _ => true
  | .vxFprobe _ _ => true
  | .vxRelease _ => true
  | .vxSpawn _ _ => true
  | .vxEnd => true
  | .vxDep _ _ _ => true
  | .vxGlaunch _ => true
  | .vxYield => true
  | .vxLvl _ _ => true
  | .vxSave _ => true
  | .vxRestore => true
  | .vxVdrain => true
  | .vxIcinv _ => true
  | .vxTlbinv _ _ => true
  | .vxWdpet => true
  | .reservedWord _ => true
  | .fenceI _ _ _ => true
  | .sfenceVma _ _ => true
  | .scalarFence _ _ _ _ _ => true
  | .wfi => true
  | .sret => true
  | .mret => true
  | .ecallFromS => true
  | .scalarLoad _ _ _ _ => true
  | .scalarStore _ _ _ _ => true
  | .scalarAmo op _ _ _ _ _ rs2 => decide (op ≠ .lr) || decide (rs2 = 0)
  | .csrReadWait _ op _ => csrMayRead op
  | .csrWriteVstat op _ src => csrWrites op src
  | .csrWriteVrthr op _ src => csrWrites op src
  | .csrWriteDatp op _ src => csrWrites op src
  | .csrWriteFmtb op _ src => csrWrites op src
  | .csrWrite csr op _ src => !csrOwnRow csr op src
  | .elementGroupIssue => true
  | .vectorCommit => true
  | .trapEntry => true
  | .supervisorTimerInterrupt => true
  | .preemptionRequest => true
  | .forcedSave => true
  | .saveEngineTimeout => true
  | .watchdogExpiry => true
  | .taskDispatch => true
  | .taskResumption => true
  | .nodeReady => true
  | .readRequest => true
  | .readReply => true
  | .writeRequest => true
  | .writeAcknowledgement => true
  | .atomicRequest => true
  | .atomicReply => true
  | .lineLockRequest => true
  | .amoLockRetry => true
  | .scalarL1Invalidation => true
  | .invalidationAcknowledgement => true
  | .ownershipRequest => true
  | .ownershipGrant => true
  | .ownershipRecall => true
  | .barrierArrival => true
  | .barrierWaitRequest => true
  | .nackRetry => true
  | .slathClaimRequest => true
  | .slathFldRequest => true
  | .slathFulfilRequest => true
  | .slathAbandonRequest => true
  | .slathReleaseRequest => true
  | .slathProbeRequest => true
  | .scTicket => true
  | .pushRequest => true
  | .pushGrant => true
  | .pushData => true
  | .replicaUpdate => true
  | .epochCloseTimeout => true
  | .restamp => true
  | .forwardedAccess => true
  | .multicastReadRequest => true
  | .mergeWindowClose => true
  | .multicastReadReply => true
  | .routerCycle => true
  | .recordLossTimeout => true
  | .throttleWindowEnd => true
  | .routerPowerDown => true
  | .gcsleepWake => true
  | .gcsleepPoll => true
  | .pageWalk => true
  | .copyStart => true
  | .copyComplete => true
  | .copyFailure => true
  | .mgemmStep => true
  | .glaunchBlockServe => true
  | .glaunchNode => true
  | .glaunchDone => true
  | .queueDoorbell => true
  | .queueStart => true
  | .queueStop => true
  | .packetTake => true
  | .taskAbort => true
  | .tlbctlGo => true
  | .bar0RegisterWrite => true
  | .bar2Read => true
  | .bar2Write => true
  | .setPhysicalMap => true
  | .setWaleWindow => true
  | .setBasketPartition => true
  | .setContextTable => true
  | .setLinkBonding => true
  | .setPowerLimit => true
  | .sensorRead => true
  | .logRead => true
  | .firmwareUpdate => true
  | .attestation => true
  | .sensorSample => true
  | .scrub => true
  | .structureError => true
  | .coldReset => true
  | .packageReset => true
  | .dieReset => true
  | .pcieD3hot => true
  | .coreClockGate => true
  | .waleFlitReceive => true
  | .waleReplayRequest => true
  | .walePortRetrain => true
  | .remoteAccessTimeout => true
  | .remoteAccess => true
  | .scalarInstruction op => wellFormedScalar op
  | .replicaDrop => true
  | .d3hotRestart => true

/-- A well-formed instruction. -/
def WellFormed (i : Instr) : Prop := wellFormed i = true

end Sys2Proof
end

