-- ==== Sys2Proof/Decode.lean ====
section
/-! DEFINITION. Decoding of every 32-bit word (R35 to R57) and the encoder written from the same tables. -/

namespace Sys2Proof

/-- Why a word is refused at decode (R57): each reason is one rule of the decode check. -/
inductive Reject where
  /-- no major opcode of R35 or R50 -/
  | opcode
  /-- a reserved f3, f4, f7 or sub-operation, or an encoding of an extension that is not implemented -/
  | funct
  /-- a field the instruction does not name is not zero (R40.1) -/
  | zeroField
  /-- a register group that does not begin at a multiple of its size (R40.2) -/
  | group
  /-- km not 000 where it must be, or 000 for `vm.stcx` (R40.3, R53) -/
  | mask
  /-- a kd field with bits [11:10] not 00, or naming k0 (R40.4) -/
  | maskDest
  /-- a mask source above 7 (R40.5) -/
  | maskSource
  /-- a fence scope of 6 or more (R53, R260) -/
  | scope
  deriving DecidableEq, Repr

/-- A check of R40 before the result. -/
def need (c : Bool) (e : Reject) (r : Except Reject Instr) : Except Reject Instr := if c then r else .error e

/-- A word of the V layout (R37), which the S and R layouts share bit for bit. -/
def mkV (f4 : BitVec 4) (m : BitVec 3) (b a : BitVec 5) (f3 : BitVec 3) (d : BitVec 5) (opc : BitVec 7) : InstrWord :=
  f4 ++ m ++ b ++ a ++ f3 ++ d ++ opc

/-- custom-0 (R51, R52), f3 = 0. -/
def decIvv (f4 : BitVec 4) (m : KReg) (b a d : Reg) : Except Reject Instr :=
  match f4.toNat with
  | 0 => .ok (.vaAddIvv d a b m)
  | 1 => .ok (.vaSubIvv d a b m)
  | 2 => .ok (.vaMulIvv d a b m)
  | 3 => .ok (.vaMulhIvv d a b m)
  | 4 => .ok (.vaMinIvv d a b m)
  | 5 => .ok (.vaMaxIvv d a b m)
  | 6 => .ok (.vaMinuIvv d a b m)
  | 7 => .ok (.vaMaxuIvv d a b m)
  | 8 => .ok (.vaAndIvv d a b m)
  | 9 => .ok (.vaOrIvv d a b m)
  | 10 => .ok (.vaXorIvv d a b m)
  | 11 => .ok (.vaSllIvv d a b m)
  | 12 => .ok (.vaSrlIvv d a b m)
  | 13 => .ok (.vaSraIvv d a b m)
  | 14 => .ok (.vaMergeIvv d a b m)
  | 15 => .ok (.vaMulhuIvv d a b m)
  | _ => .error .funct

/-- custom-0 (R51, R52), f3 = 1. -/
def decIvx (f4 : BitVec 4) (m : KReg) (b a d : Reg) : Except Reject Instr :=
  match f4.toNat with
  | 0 => .ok (.vaAddIvx d a b m)
  | 1 => .ok (.vaSubIvx d a b m)
  | 2 => .ok (.vaMulIvx d a b m)
  | 3 => .ok (.vaMulhIvx d a b m)
  | 4 => .ok (.vaMinIvx d a b m)
  | 5 => .ok (.vaMaxIvx d a b m)
  | 6 => .ok (.vaMinuIvx d a b m)
  | 7 => .ok (.vaMaxuIvx d a b m)
  | 8 => .ok (.vaAndIvx d a b m)
  | 9 => .ok (.vaOrIvx d a b m)
  | 10 => .ok (.vaXorIvx d a b m)
  | 11 => .ok (.vaSllIvx d a b m)
  | 12 => .ok (.vaSrlIvx d a b m)
  | 13 => .ok (.vaSraIvx d a b m)
  | 14 => .ok (.vaMergeIvx d a b m)
  | 15 => .ok (.vaMulhuIvx d a b m)
  | _ => .error .funct

/-- custom-0 (R51, R52), f3 = 2. -/
def decIvi (f4 : BitVec 4) (m : KReg) (b a d : Reg) : Except Reject Instr :=
  match f4.toNat with
  | 0 => .ok (.vaAddIvi d a b m)
  | 1 => .ok (.vaSubIvi d a b m)
  | 4 => .ok (.vaMinIvi d a b m)
  | 5 => .ok (.vaMaxIvi d a b m)
  | 6 => .ok (.vaMinuIvi d a b m)
  | 7 => .ok (.vaMaxuIvi d a b m)
  | 8 => .ok (.vaAndIvi d a b m)
  | 9 => .ok (.vaOrIvi d a b m)
  | 10 => .ok (.vaXorIvi d a b m)
  | 11 => .ok (.vaSllIvi d a b m)
  | 12 => .ok (.vaSrlIvi d a b m)
  | 13 => .ok (.vaSraIvi d a b m)
  | 14 => .ok (.vaMergeIvi d a b m)
  | _ => .error .funct

/-- custom-0 (R51, R52), f3 = 3. -/
def decFvv (f4 : BitVec 4) (m : KReg) (b a d : Reg) : Except Reject Instr :=
  match f4.toNat with
  | 0 => .ok (.vaFaddFvv d a b m)
  | 1 => .ok (.vaFsubFvv d a b m)
  | 2 => .ok (.vaFmulFvv d a b m)
  | 3 => .ok (.vaFdivFvv d a b m)
  | 4 => .ok (.vaFminFvv d a b m)
  | 5 => .ok (.vaFmaxFvv d a b m)
  | 6 => .ok (.vaFmaccFvv d a b m)
  | 7 => .ok (.vaFnmaccFvv d a b m)
  | 8 => .ok (.vaFmsacFvv d a b m)
  | 9 => .ok (.vaFnmsacFvv d a b m)
  | 10 => .ok (.vaFsgnjFvv d a b m)
  | 11 => .ok (.vaFsgnjnFvv d a b m)
  | 12 => .ok (.vaFsgnjxFvv d a b m)
  | _ => .error .funct

/-- custom-0 (R51, R52), f3 = 4. -/
def decFvx (f4 : BitVec 4) (m : KReg) (b a d : Reg) : Except Reject Instr :=
  match f4.toNat with
  | 0 => .ok (.vaFaddFvx d a b m)
  | 1 => .ok (.vaFsubFvx d a b m)
  | 2 => .ok (.vaFmulFvx d a b m)
  | 3 => .ok (.vaFdivFvx d a b m)
  | 4 => .ok (.vaFminFvx d a b m)
  | 5 => .ok (.vaFmaxFvx d a b m)
  | 6 => .ok (.vaFmaccFvx d a b m)
  | 7 => .ok (.vaFnmaccFvx d a b m)
  | 8 => .ok (.vaFmsacFvx d a b m)
  | 9 => .ok (.vaFnmsacFvx d a b m)
  | 10 => .ok (.vaFsgnjFvx d a b m)
  | 11 => .ok (.vaFsgnjnFvx d a b m)
  | 12 => .ok (.vaFsgnjxFvx d a b m)
  | _ => .error .funct

/-- custom-0 (R51, R52), f3 = 5. -/
def decCmp (f4 : BitVec 4) (m : KReg) (b a d : Reg) : Except Reject Instr :=
  match f4.toNat with
  | 0 => need (decide (d.extractLsb' 3 2 = 0)) .maskDest (need (decide (d.extractLsb' 0 3 ≠ 0)) .maskDest (.ok (.vaSeq (d.extractLsb' 0 3) a b m)))
  | 1 => need (decide (d.extractLsb' 3 2 = 0)) .maskDest (need (decide (d.extractLsb' 0 3 ≠ 0)) .maskDest (.ok (.vaSne (d.extractLsb' 0 3) a b m)))
  | 2 => need (decide (d.extractLsb' 3 2 = 0)) .maskDest (need (decide (d.extractLsb' 0 3 ≠ 0)) .maskDest (.ok (.vaSlt (d.extractLsb' 0 3) a b m)))
  | 3 => need (decide (d.extractLsb' 3 2 = 0)) .maskDest (need (decide (d.extractLsb' 0 3 ≠ 0)) .maskDest (.ok (.vaSltu (d.extractLsb' 0 3) a b m)))
  | 4 => need (decide (d.extractLsb' 3 2 = 0)) .maskDest (need (decide (d.extractLsb' 0 3 ≠ 0)) .maskDest (.ok (.vaSle (d.extractLsb' 0 3) a b m)))
  | 5 => need (decide (d.extractLsb' 3 2 = 0)) .maskDest (need (decide (d.extractLsb' 0 3 ≠ 0)) .maskDest (.ok (.vaSleu (d.extractLsb' 0 3) a b m)))
  | 6 => need (decide (d.extractLsb' 3 2 = 0)) .maskDest (need (decide (d.extractLsb' 0 3 ≠ 0)) .maskDest (.ok (.vaFeq (d.extractLsb' 0 3) a b m)))
  | 7 => need (decide (d.extractLsb' 3 2 = 0)) .maskDest (need (decide (d.extractLsb' 0 3 ≠ 0)) .maskDest (.ok (.vaFlt (d.extractLsb' 0 3) a b m)))
  | 8 => need (decide (d.extractLsb' 3 2 = 0)) .maskDest (need (decide (d.extractLsb' 0 3 ≠ 0)) .maskDest (.ok (.vaFle (d.extractLsb' 0 3) a b m)))
  | 9 => need (decide (d.extractLsb' 3 2 = 0)) .maskDest (need (decide (d.extractLsb' 0 3 ≠ 0)) .maskDest (.ok (.vaFne (d.extractLsb' 0 3) a b m)))
  | 10 => need (decide (m = 0)) .mask (need (decide (b.extractLsb' 3 2 = 0)) .maskSource (need (decide (a.extractLsb' 3 2 = 0)) .maskSource (need (decide (d.extractLsb' 3 2 = 0)) .maskDest (need (decide (d.extractLsb' 0 3 ≠ 0)) .maskDest (.ok (.vaKand (d.extractLsb' 0 3) (a.extractLsb' 0 3) (b.extractLsb' 0 3)))))))
  | 11 => need (decide (m = 0)) .mask (need (decide (b.extractLsb' 3 2 = 0)) .maskSource (need (decide (a.extractLsb' 3 2 = 0)) .maskSource (need (decide (d.extractLsb' 3 2 = 0)) .maskDest (need (decide (d.extractLsb' 0 3 ≠ 0)) .maskDest (.ok (.vaKor (d.extractLsb' 0 3) (a.extractLsb' 0 3) (b.extractLsb' 0 3)))))))
  | 12 => need (decide (m = 0)) .mask (need (decide (b.extractLsb' 3 2 = 0)) .maskSource (need (decide (a.extractLsb' 3 2 = 0)) .maskSource (need (decide (d.extractLsb' 3 2 = 0)) .maskDest (need (decide (d.extractLsb' 0 3 ≠ 0)) .maskDest (.ok (.vaKxor (d.extractLsb' 0 3) (a.extractLsb' 0 3) (b.extractLsb' 0 3)))))))
  | 13 => need (decide (m = 0)) .mask (need (decide (b.extractLsb' 3 2 = 0)) .maskSource (need (decide (a.extractLsb' 3 2 = 0)) .maskSource (need (decide (d.extractLsb' 3 2 = 0)) .maskDest (need (decide (d.extractLsb' 0 3 ≠ 0)) .maskDest (.ok (.vaKandn (d.extractLsb' 0 3) (a.extractLsb' 0 3) (b.extractLsb' 0 3)))))))
  | 14 => need (decide (m = 0)) .mask (need (decide (b.extractLsb' 3 2 = 0)) .maskSource (need (decide (a = 0)) .zeroField (need (decide (d.extractLsb' 3 2 = 0)) .maskDest (need (decide (d.extractLsb' 0 3 ≠ 0)) .maskDest (.ok (.vaKnot (d.extractLsb' 0 3) (b.extractLsb' 0 3)))))))
  | _ => .error .funct

/-- custom-0 (R51, R52), f3 = 6: the UN group, whose sub-operation stands in field a. -/
def decUn (f4 : BitVec 4) (m : KReg) (b a : Reg) (d : Reg) : Except Reject Instr :=
  match f4.toNat, a.toNat with
  | 0, 0 => .ok (.vaFsqrt d b m)
  | 0, 1 => .ok (.vaFrsqrte d b m)
  | 0, 2 => .ok (.vaFrece d b m)
  | 0, 3 => .ok (.vaFlog2 d b m)
  | 0, 4 => .ok (.vaFexp2 d b m)
  | 0, 5 => .ok (.vaFclass d b m)
  | 1, _ => need (fcvtCode a) .funct (.ok (.vaFcvt d a b m))
  | 2, 0 => .ok (.vaMv d b m)
  | 2, 1 => .ok (.vaSplat d b m)
  | 2, 2 => need (decide (b = 0)) .zeroField (.ok (.vaIota d m))
  | 2, 3 => .ok (.vaRng d b m)
  | 3, 0 => .ok (.vaRedsum d b m)
  | 3, 1 => .ok (.vaFredsum d b m)
  | 3, 2 => .ok (.vaRedmax d b m)
  | 3, 3 => .ok (.vaRedmin d b m)
  | 3, 4 => .ok (.vaFredmax d b m)
  | 3, 5 => .ok (.vaFredmin d b m)
  | 3, 6 => .ok (.vaRedmaxi d b m)
  | 3, 7 => .ok (.vaFredmaxi d b m)
  | 3, 8 => .ok (.vaRedand d b m)
  | 3, 9 => .ok (.vaRedor d b m)
  | 3, 10 => .ok (.vaRedxor d b m)
  | 5, 0 => need (decide (b.extractLsb' 3 2 = 0)) .maskSource (.ok (.vaKpop d (b.extractLsb' 0 3) m))
  | 5, 1 => need (decide (b.extractLsb' 3 2 = 0)) .maskSource (.ok (.vaKfirst d (b.extractLsb' 0 3) m))
  | _, _ => .error .funct

/-- custom-0 (R51, R52), f3 = 7. -/
def decCfg (f4 : BitVec 4) (m : KReg) (b a d : Reg) : Except Reject Instr :=
  match f4.toNat with
  | 0 => need (decide (m = 0)) .mask (.ok (.vaSetvl d a b))
  | 1 => need (decide (m = 0)) .mask (.ok (.vaSetvlP d a b))
  | 2 => need (decide (m = 0)) .mask (need (decide (b = 0)) .zeroField (.ok (.vaSetcfg d a)))
  | 3 => need (decide (m = 0)) .mask (need (decide (b = 0)) .zeroField (.ok (.vaSetkey d a)))
  | _ => .error .funct

/-- custom-1 (R53), f3 = 0. -/
def decLd (f4 : BitVec 4) (m : KReg) (b a d : Reg) : Except Reject Instr :=
  match f4.toNat with
  | 0 => need (decide (b = 0)) .zeroField (.ok (.vmLd d a m))
  | 1 => .ok (.vmLds d a b m)
  | 2 => .ok (.vmLdx d a b m)
  | 3 => need (decide (b = 0)) .zeroField (.ok (.vmLdff d a m))
  | 4 => need (decide (b = 0)) .zeroField (.ok (.vmLdnc d a m))
  | 5 => need (decide (b = 0)) .zeroField (.ok (.vmLdsc d a m))
  | 6 => .ok (.vmLdmc d a b m)
  | 7 => need (decide (b = 0)) .zeroField (.ok (.vmLdraw d a m))
  | 8 => .ok (.vmLdgl d a b m)
  | 9 => .ok (.vmLdffx d a b m)
  | _ => .error .funct

/-- custom-1 (R53), f3 = 1. -/
def decSt (f4 : BitVec 4) (m : KReg) (b a d : Reg) : Except Reject Instr :=
  match f4.toNat with
  | 0 => need (decide (b = 0)) .zeroField (.ok (.vmSt d a m))
  | 1 => .ok (.vmSts d a b m)
  | 2 => .ok (.vmStx d a b m)
  | 3 => need (decide (b = 0)) .zeroField (.ok (.vmStsc d a m))
  | 4 => need (decide (b = 0)) .zeroField (.ok (.vmStraw d a m))
  | 5 => need (decide (m ≠ 0)) .mask (.ok (.vmStcx d a b m))
  | _ => .error .funct

/-- custom-1 (R53), f3 = 2. -/
def decAmo (f4 : BitVec 4) (m : KReg) (b a d : Reg) : Except Reject Instr :=
  match f4.toNat with
  | 0 => .ok (.vmAmoadd d a b m)
  | 1 => .ok (.vmAmofadd d a b m)
  | 2 => .ok (.vmAmomin d a b m)
  | 3 => .ok (.vmAmomax d a b m)
  | 4 => .ok (.vmAmominu d a b m)
  | 5 => .ok (.vmAmomaxu d a b m)
  | 6 => .ok (.vmAmoand d a b m)
  | 7 => .ok (.vmAmoor d a b m)
  | 8 => .ok (.vmAmoxor d a b m)
  | 9 => .ok (.vmAmoswap d a b m)
  | 10 => need (decide (d.extractLsb' 0 1 = 0)) .group (.ok (.vmAmocas (d.extractLsb' 1 4) a b m))
  | _ => .error .funct

/-- custom-1 (R53), f3 = 3. -/
def decAmor (f4 : BitVec 4) (m : KReg) (b a d : Reg) : Except Reject Instr :=
  match f4.toNat with
  | 0 => .ok (.vmAmoaddR d a b m)
  | 1 => .ok (.vmAmofaddR d a b m)
  | 2 => .ok (.vmAmominR d a b m)
  | 3 => .ok (.vmAmomaxR d a b m)
  | 4 => .ok (.vmAmominuR d a b m)
  | 5 => .ok (.vmAmomaxuR d a b m)
  | 6 => .ok (.vmAmoandR d a b m)
  | 7 => .ok (.vmAmoorR d a b m)
  | 8 => .ok (.vmAmoxorR d a b m)
  | 9 => .ok (.vmAmoswapR d a b m)
  | 10 => need (decide (d.extractLsb' 0 1 = 0)) .group (.ok (.vmAmocasR (d.extractLsb' 1 4) a b m))
  | _ => .error .funct

/-- custom-1 (R53), f3 = 4. -/
def decUpd (f4 : BitVec 4) (m : KReg) (b a d : Reg) : Except Reject Instr :=
  match f4.toNat with
  | 0 => need (decide (b = 0)) .zeroField (.ok (.vmUpdadd d a m))
  | 1 => need (decide (b = 0)) .zeroField (.ok (.vmUpdfadd d a m))
  | 2 => need (decide (b = 0)) .zeroField (.ok (.vmUpdmin d a m))
  | 3 => need (decide (b = 0)) .zeroField (.ok (.vmUpdmax d a m))
  | 4 => need (decide (b = 0)) .zeroField (.ok (.vmUpdfmax d a m))
  | 5 => need (decide (b = 0)) .zeroField (.ok (.vmUpdfmin d a m))
  | _ => .error .funct

/-- custom-1 (R53), f3 = 5. -/
def decSync (f4 : BitVec 4) (m : KReg) (b a d : Reg) : Except Reject Instr :=
  match f4.toNat with
  | 0 => need (decide (b = 0)) .zeroField (need (decide (d = 0)) .zeroField (need (decide (a.toNat ≤ 5)) .scope (.ok (.vmFence a m))))
  | 1 => need (decide (d = 0)) .zeroField (need (decide (b.toNat ≤ 5)) .scope (.ok (.vmFenceb a b m)))
  | 2 => need (decide (d = 0)) .zeroField (.ok (.vmBwait a b m))
  | 3 => need (decide (b.extractLsb' 1 4 = 0)) .funct (need (decide (d.extractLsb' 0 1 = 0)) .group (.ok (.vmGcsleep (d.extractLsb' 1 4) a (b.extractLsb' 0 1) m)))
  | 4 => need (decide (b = 0)) .zeroField (need (decide (a = 0)) .zeroField (need (decide (d = 0)) .zeroField (.ok (.vmRofence m))))
  | _ => .error .funct

/-- custom-1 (R53), f3 = 6. -/
def decCopy (f4 : BitVec 4) (m : KReg) (b a d : Reg) : Except Reject Instr :=
  match f4.toNat with
  | 0 => need (decide (d = 0)) .zeroField (.ok (.vmCp a b m))
  | 1 => need (decide (b = 0)) .zeroField (.ok (.vmCpwany d a m))
  | 2 => need (decide (b = 0)) .zeroField (.ok (.vmCpwall d a m))
  | 3 => need (decide (b = 0)) .zeroField (.ok (.vmCpffr d a m))
  | 4 => need (decide (b = 0)) .zeroField (need (decide (d = 0)) .zeroField (.ok (.vmCpclr a m)))
  | _ => .error .funct

/-- custom-2 (R54), f3 = 0. -/
def decSort (f4 : BitVec 4) (m : KReg) (b a d : Reg) : Except Reject Instr :=
  match f4.toNat with
  | 0 => need (decide (m = 0)) .mask (need (decide (a = 0)) .zeroField (.ok (.vpSort d b)))
  | 1 => need (decide (m = 0)) .mask (need (decide (a = 0)) .zeroField (.ok (.vpChk d b)))
  | 2 => need (decide (m = 0)) .mask (need (decide (d.extractLsb' 0 1 = 0)) .group (.ok (.vpMerge (d.extractLsb' 1 4) a b)))
  | 3 => need (decide (m = 0)) .mask (.ok (.vpMergec d a b))
  | 4 => need (decide (m = 0)) .mask (.ok (.vpIsect d a b))
  | 5 => need (decide (m = 0)) .mask (.ok (.vpDiff d a b))
  | 6 => need (decide (m = 0)) .mask (need (decide (a = 0)) .zeroField (.ok (.vpUniq d b)))
  | 7 => need (decide (m = 0)) .mask (.ok (.vpRank d a b))
  | 8 => need (decide (m = 0)) .mask (.ok (.vpPart d a b))
  | 9 => need (decide (m = 0)) .mask (need (decide (a = 0)) .zeroField (.ok (.vpKeys d b)))
  | _ => .error .funct

/-- custom-2 (R54), f3 = 1. -/
def decSparse (f4 : BitVec 4) (m : KReg) (b a d : Reg) : Except Reject Instr :=
  match f4.toNat with
  | 0 => need (decide (m = 0)) .mask (need (decide (a = 0)) .zeroField (.ok (.vpSpk d b)))
  | 1 => need (decide (m = 0)) .mask (need (decide (a = 0)) .zeroField (.ok (.vpSpx d b)))
  | 2 => need (decide (m = 0)) .mask (.ok (.vpSpadd d a b))
  | 3 => need (decide (m = 0)) .mask (.ok (.vpSpmul d a b))
  | 4 => need (decide (m = 0)) .mask (.ok (.vpSpdot d a b))
  | 5 => need (decide (m = 0)) .mask (need (decide (a = 0)) .zeroField (.ok (.vpSpbuild d b)))
  | 6 => need (decide (m = 0)) .mask (need (decide (a = 0)) .zeroField (.ok (.vpSpcoord d b)))
  | 7 => need (decide (m = 0)) .mask (need (decide (a = 0)) .zeroField (.ok (.vpSpval d b)))
  | _ => .error .funct

/-- custom-2 (R54), f3 = 2. -/
def decGate (f4 : BitVec 4) (m : KReg) (b a d : Reg) : Except Reject Instr :=
  match f4.toNat with
  | 0 => need (decide (m = 0)) .mask (.ok (.vpTopk d a b))
  | 1 => need (decide (m = 0)) .mask (.ok (.vpHist d a b))
  | 2 => need (decide (m = 0)) .mask (need (decide (a = 0)) .zeroField (.ok (.vpScan d b)))
  | 3 => need (decide (m = 0)) .mask (need (decide (a = 0)) .zeroField (.ok (.vpScani d b)))
  | 4 => need (decide (m = 0)) .mask (.ok (.vpGperm d a b))
  | _ => .error .funct

/-- custom-2 (R54), f3 = 3. -/
def decPerm (f4 : BitVec 4) (m : KReg) (b a d : Reg) : Except Reject Instr :=
  match f4.toNat with
  | 0 => need (decide (m = 0)) .mask (.ok (.vpSlideup d a b))
  | 1 => need (decide (m = 0)) .mask (.ok (.vpSlidedn d a b))
  | 2 => need (decide (m = 0)) .mask (.ok (.vpPerm d a b))
  | 3 => need (decide (m = 0)) .mask (need (decide (a.extractLsb' 3 2 = 0)) .maskSource (.ok (.vpCompress d (a.extractLsb' 0 3) b)))
  | 4 => need (decide (m = 0)) .mask (need (decide (a.extractLsb' 3 2 = 0)) .maskSource (.ok (.vpExpand d (a.extractLsb' 0 3) b)))
  | 5 => need (decide (m = 0)) .mask (.ok (.vpRotg d a b))
  | 6 => need (decide (m = 0)) .mask (.ok (.vpBcast d a b))
  | 7 => need (decide (m = 0)) .mask (.ok (.vpExt d a b))
  | 8 => need (decide (m = 0)) .mask (.ok (.vpIns d a b))
  | _ => .error .funct

/-- custom-2 (R54), f3 = 4. -/
def decDesc (f4 : BitVec 4) (m : KReg) (b a d : Reg) : Except Reject Instr :=
  match f4.toNat with
  | 0 => need (decide (m = 0)) .mask (need (decide (a = 0)) .zeroField (.ok (.vpGetd d b)))
  | 1 => need (decide (m = 0)) .mask (need (decide (b = 0)) .zeroField (.ok (.vpSetd d a)))
  | _ => .error .funct

/-- custom-3 (R55), f3 = 0. -/
def decMat (f4 : BitVec 4) (m : KReg) (b a d : Reg) : Except Reject Instr :=
  match f4.toNat with
  | 0 => need (decide (m = 0)) .mask (.ok (.vxMmac d a b))
  | 1 => need (decide (m = 0)) .mask (need (decide (b.extractLsb' 2 1 = 0)) .funct (need (decide ((b.extractLsb' 0 2).toNat ≤ 2)) .funct (.ok (.vxMmacs d a (b.extractLsb' 3 2) (b.extractLsb' 0 2)))))
  | 2 => need (decide (m = 0)) .mask (need (decide (b = 0)) .zeroField (.ok (.vxMgemm d a)))
  | 3 => need (decide (m = 0)) .mask (.ok (.vxMtld d a b))
  | 4 => need (decide (m = 0)) .mask (need (decide (d.extractLsb' 0 3 = 0)) .group (.ok (.vxMcomp (d.extractLsb' 3 2) a b)))
  | 5 => need (decide (m = 0)) .mask (need (decide (b = 0)) .zeroField (need (decide (d = 0)) .zeroField (.ok (.vxMunf a))))
  | 6 => need (decide (m = 0)) .mask (need (decide (b = 0)) .zeroField (need (decide (a = 0)) .zeroField (.ok (.vxMzero d))))
  | _ => .error .funct

/-- custom-3 (R55), f3 = 1. -/
def decMsg (f4 : BitVec 4) (m : KReg) (b a d : Reg) : Except Reject Instr :=
  match f4.toNat with
  | 0 => .ok (.vxPush d a b m)
  | 1 => need (decide (m = 0)) .mask (need (decide (b = 0)) .zeroField (need (decide (a = 0)) .zeroField (.ok (.vxTake d))))
  | 2 => need (decide (m = 0)) .mask (need (decide (b = 0)) .zeroField (need (decide (a = 0)) .zeroField (.ok (.vxFe d))))
  | _ => .error .funct

/-- custom-3 (R55), f3 = 2. -/
def decClaim (f7 : Nat) (b a d : Reg) : Except Reject Instr :=
  match f7 with
  | 0 => .ok (.vxClaim d a b)
  | 1 => need (decide (d = 0)) .zeroField (.ok (.vxFulfil a b))
  | 2 => need (decide (b = 0)) .zeroField (need (decide (d = 0)) .zeroField (.ok (.vxAbandon a)))
  | 3 => need (decide (b = 0)) .zeroField (.ok (.vxFld d a))
  | 4 => need (decide (b = 0)) .zeroField (.ok (.vxFprobe d a))
  | 5 => need (decide (b = 0)) .zeroField (need (decide (d = 0)) .zeroField (.ok (.vxRelease a)))
  | _ => .error .funct

/-- custom-3 (R55), f3 = 3. -/
def decTask (f7 : Nat) (b a d : Reg) : Except Reject Instr :=
  match f7 with
  | 0 => need (decide (b = 0)) .zeroField (.ok (.vxSpawn d a))
  | 1 => need (decide (b = 0)) .zeroField (need (decide (a = 0)) .zeroField (need (decide (d = 0)) .zeroField (.ok (.vxEnd))))
  | 2 => .ok (.vxDep d a b)
  | 3 => need (decide (b = 0)) .zeroField (need (decide (d = 0)) .zeroField (.ok (.vxGlaunch a)))
  | 4 => need (decide (b = 0)) .zeroField (need (decide (a = 0)) .zeroField (need (decide (d = 0)) .zeroField (.ok (.vxYield))))
  | 5 => need (decide (b = 0)) .zeroField (.ok (.vxLvl d a))
  | _ => .error .funct

/-- custom-3 (R55), f3 = 4. -/
def decSys (f7 : Nat) (b a d : Reg) : Except Reject Instr :=
  match f7 with
  | 0 => need (decide (b = 0)) .zeroField (need (decide (d = 0)) .zeroField (.ok (.vxSave a)))
  | 1 => need (decide (b = 0)) .zeroField (need (decide (a = 0)) .zeroField (need (decide (d = 0)) .zeroField (.ok (.vxRestore))))
  | 2 => need (decide (b = 0)) .zeroField (need (decide (a = 0)) .zeroField (need (decide (d = 0)) .zeroField (.ok (.vxVdrain))))
  | 3 => need (decide (b = 0)) .zeroField (need (decide (d = 0)) .zeroField (.ok (.vxIcinv a)))
  | 4 => need (decide (d = 0)) .zeroField (.ok (.vxTlbinv a b))
  | 5 => need (decide (b = 0)) .zeroField (need (decide (a = 0)) .zeroField (need (decide (d = 0)) .zeroField (.ok (.vxWdpet))))
  | _ => .error .funct

/-- custom-0 (R51, R52) by f3; the other values of f3 are reserved (R50). -/
def decVa (f4 : BitVec 4) (m : KReg) (b a : Reg) (f3 : BitVec 3) (d : Reg) : Except Reject Instr :=
  match f3.toNat with
  | 0 => decIvv f4 m b a d
  | 1 => decIvx f4 m b a d
  | 2 => decIvi f4 m b a d
  | 3 => decFvv f4 m b a d
  | 4 => decFvx f4 m b a d
  | 5 => decCmp f4 m b a d
  | 6 => decUn f4 m b a d
  | 7 => decCfg f4 m b a d
  | _ => .error .funct

/-- custom-1 (R53) by f3; the other values of f3 are reserved (R50). -/
def decVm (f4 : BitVec 4) (m : KReg) (b a : Reg) (f3 : BitVec 3) (d : Reg) : Except Reject Instr :=
  match f3.toNat with
  | 0 => decLd f4 m b a d
  | 1 => decSt f4 m b a d
  | 2 => decAmo f4 m b a d
  | 3 => decAmor f4 m b a d
  | 4 => decUpd f4 m b a d
  | 5 => decSync f4 m b a d
  | 6 => decCopy f4 m b a d
  | _ => .error .funct

/-- custom-2 (R54) by f3; the other values of f3 are reserved (R50). -/
def decVp (f4 : BitVec 4) (m : KReg) (b a : Reg) (f3 : BitVec 3) (d : Reg) : Except Reject Instr :=
  match f3.toNat with
  | 0 => decSort f4 m b a d
  | 1 => decSparse f4 m b a d
  | 2 => decGate f4 m b a d
  | 3 => decPerm f4 m b a d
  | 4 => decDesc f4 m b a d
  | _ => .error .funct

/-- custom-3 (R55) by f3; the other values of f3 are reserved (R50). -/
def decVx (f4 : BitVec 4) (m : KReg) (b a : Reg) (f3 : BitVec 3) (d : Reg) : Except Reject Instr :=
  match f3.toNat with
  | 0 => decMat f4 m b a d
  | 1 => decMsg f4 m b a d
  | 2 => decClaim (f4.toNat * 8 + m.toNat) b a d
  | 3 => decTask (f4.toNat * 8 + m.toNat) b a d
  | 4 => decSys (f4.toNat * 8 + m.toNat) b a d
  | _ => .error .funct

/-- The Zicsr operation of f3. -/
def csrOpOf (f3 : Nat) : Option CsrOp :=
  match f3 with
  | 1 => some .rw
  | 2 => some .rs
  | 3 => some .rc
  | 5 => some .rwi
  | 6 => some .rsi
  | 7 => some .rci
  | _ => none

/-- A Zicsr word, sent to its row (R19, R45). -/
def decCsr (csr : BitVec 12) (op : CsrOp) (rd src : Reg) : Instr :=
  if csrWrites op src then
    if csr = 0x800#12 then .csrWriteVstat op rd src
    else if csr = 0x801#12 then .csrWriteVrthr op rd src
    else if csr = 0x5C1#12 then .csrWriteDatp op rd src
    else if csr = 0x5C0#12 then .csrWriteFmtb op rd src
    else .csrWrite csr op rd src
  else if csr = 0x800#12 then .csrReadWait .vstat op rd
  else if csr = 0xCC3#12 then .csrReadWait .vmcnt op rd
  else if csr = 0xCC4#12 then .csrReadWait .vtrows op rd
  else .csrWrite csr op rd src

/-- The SYSTEM words with f3 = 0. -/
def decPriv (imm : BitVec 12) (rs1 rd : Reg) : Except Reject Instr :=
  if imm.extractLsb' 5 7 = 0x09#7 then need (decide (rd = 0)) .zeroField (.ok (.sfenceVma rs1 (imm.extractLsb' 0 5)))
  else
    need (decide (rs1 = 0 ∧ rd = 0)) .zeroField <|
      match imm.toNat with
      | 0x000 => .ok (.scalarInstruction .ecall)
      | 0x001 => .ok (.scalarInstruction .ebreak)
      | 0x102 => .ok .sret
      | 0x302 => .ok .mret
      | 0x105 => .ok .wfi
      | _ => .error .funct

/-- A scalar operation as a result. -/
def okS (op : ScalarOp) : Except Reject Instr := .ok (.scalarInstruction op)

/-- OP: register-register operations of RV64I, M, Zba, Zbb. -/
def decOp (f7 f3 : Nat) (rd rs1 rs2 : Reg) : Except Reject Instr :=
  let r := fun op => okS (.op op rd rs1 rs2)
  match f7, f3 with
  | 0x00, 0 => r .add
  | 0x00, 1 => r .sll
  | 0x00, 2 => r .slt
  | 0x00, 3 => r .sltu
  | 0x00, 4 => r .xor
  | 0x00, 5 => r .srl
  | 0x00, 6 => r .or
  | 0x00, 7 => r .and
  | 0x20, 0 => r .sub
  | 0x20, 5 => r .sra
  | 0x20, 4 => r .xnor
  | 0x20, 6 => r .orn
  | 0x20, 7 => r .andn
  | 0x01, 0 => r .mul
  | 0x01, 1 => r .mulh
  | 0x01, 2 => r .mulhsu
  | 0x01, 3 => r .mulhu
  | 0x01, 4 => r .div
  | 0x01, 5 => r .divu
  | 0x01, 6 => r .rem
  | 0x01, 7 => r .remu
  | 0x10, 2 => r .sh1add
  | 0x10, 4 => r .sh2add
  | 0x10, 6 => r .sh3add
  | 0x05, 4 => r .min
  | 0x05, 5 => r .minu
  | 0x05, 6 => r .max
  | 0x05, 7 => r .maxu
  | 0x30, 1 => r .rol
  | 0x30, 5 => r .ror
  | _, _ => .error .funct

/-- OP-32. -/
def decOp32 (f7 f3 : Nat) (rd rs1 rs2 : Reg) : Except Reject Instr :=
  let r := fun op => okS (.op op rd rs1 rs2)
  match f7, f3 with
  | 0x00, 0 => r .addw
  | 0x00, 1 => r .sllw
  | 0x00, 5 => r .srlw
  | 0x20, 0 => r .subw
  | 0x20, 5 => r .sraw
  | 0x01, 0 => r .mulw
  | 0x01, 4 => r .divw
  | 0x01, 5 => r .divuw
  | 0x01, 6 => r .remw
  | 0x01, 7 => r .remuw
  | 0x04, 0 => r .addUw
  | 0x04, 4 => need (decide (rs2 = 0)) .funct (okS (.unary .zextH rd rs1))
  | 0x10, 2 => r .sh1addUw
  | 0x10, 4 => r .sh2addUw
  | 0x10, 6 => r .sh3addUw
  | 0x30, 1 => r .rolw
  | 0x30, 5 => r .rorw
  | _, _ => .error .funct

/-- OP-IMM. -/
def decOpImm (imm : BitVec 12) (f3 : Nat) (rd rs1 : Reg) : Except Reject Instr :=
  match f3 with
  | 0 => okS (.opImm .addi rd rs1 imm)
  | 2 => okS (.opImm .slti rd rs1 imm)
  | 3 => okS (.opImm .sltiu rd rs1 imm)
  | 4 => okS (.opImm .xori rd rs1 imm)
  | 6 => okS (.opImm .ori rd rs1 imm)
  | 7 => okS (.opImm .andi rd rs1 imm)
  | 1 =>
    if imm.extractLsb' 6 6 = 0#6 then okS (.shift .slli rd rs1 (imm.extractLsb' 0 6))
    else
      match imm.toNat with
      | 0x600 => okS (.unary .clz rd rs1)
      | 0x601 => okS (.unary .ctz rd rs1)
      | 0x602 => okS (.unary .cpop rd rs1)
      | 0x604 => okS (.unary .sextB rd rs1)
      | 0x605 => okS (.unary .sextH rd rs1)
      | _ => .error .funct
  | 5 =>
    if imm.extractLsb' 6 6 = 0#6 then okS (.shift .srli rd rs1 (imm.extractLsb' 0 6))
    else if imm.extractLsb' 6 6 = 0x10#6 then okS (.shift .srai rd rs1 (imm.extractLsb' 0 6))
    else if imm.extractLsb' 6 6 = 0x18#6 then okS (.shift .rori rd rs1 (imm.extractLsb' 0 6))
    else
      match imm.toNat with
      | 0x287 => okS (.unary .orcB rd rs1)
      | 0x6B8 => okS (.unary .rev8 rd rs1)
      | _ => .error .funct
  | _ => .error .funct

/-- OP-IMM-32. -/
def decOpImm32 (imm : BitVec 12) (f3 : Nat) (rd rs1 : Reg) : Except Reject Instr :=
  match f3 with
  | 0 => okS (.opImm .addiw rd rs1 imm)
  | 1 =>
    if imm.extractLsb' 6 6 = 0x02#6 then okS (.shift .slliUw rd rs1 (imm.extractLsb' 0 6))
    else if imm.extractLsb' 5 7 = 0#7 then okS (.shiftW .slliw rd rs1 (imm.extractLsb' 0 5))
    else
      match imm.toNat with
      | 0x600 => okS (.unary .clzw rd rs1)
      | 0x601 => okS (.unary .ctzw rd rs1)
      | 0x602 => okS (.unary .cpopw rd rs1)
      | _ => .error .funct
  | 5 =>
    if imm.extractLsb' 5 7 = 0#7 then okS (.shiftW .srliw rd rs1 (imm.extractLsb' 0 5))
    else if imm.extractLsb' 5 7 = 0x20#7 then okS (.shiftW .sraiw rd rs1 (imm.extractLsb' 0 5))
    else if imm.extractLsb' 5 7 = 0x30#7 then okS (.shiftW .roriw rd rs1 (imm.extractLsb' 0 5))
    else .error .funct
  | _ => .error .funct

/-- LOAD. -/
def decLoad (imm : BitVec 12) (f3 : Nat) (rd rs1 : Reg) : Except Reject Instr :=
  match f3 with
  | 0 => .ok (.scalarLoad .lb rd rs1 imm)
  | 1 => .ok (.scalarLoad .lh rd rs1 imm)
  | 2 => .ok (.scalarLoad .lw rd rs1 imm)
  | 3 => .ok (.scalarLoad .ld rd rs1 imm)
  | 4 => .ok (.scalarLoad .lbu rd rs1 imm)
  | 5 => .ok (.scalarLoad .lhu rd rs1 imm)
  | 6 => .ok (.scalarLoad .lwu rd rs1 imm)
  | _ => .error .funct

/-- STORE. -/
def decStore (f3 : Nat) (rs1 rs2 : Reg) (imm : BitVec 12) : Except Reject Instr :=
  match f3 with
  | 0 => .ok (.scalarStore .sb rs1 rs2 imm)
  | 1 => .ok (.scalarStore .sh rs1 rs2 imm)
  | 2 => .ok (.scalarStore .sw rs1 rs2 imm)
  | 3 => .ok (.scalarStore .sd rs1 rs2 imm)
  | _ => .error .funct

/-- BRANCH; the immediate's scattered bits put in order, without the low zero bit. -/
def decBranch (f3 : Nat) (rs1 rs2 : Reg) (hi : BitVec 7) (lo : BitVec 5) : Except Reject Instr :=
  let off : BitVec 12 := hi.extractLsb' 6 1 ++ lo.extractLsb' 0 1 ++ hi.extractLsb' 0 6 ++ lo.extractLsb' 1 4
  match f3 with
  | 0 => okS (.branch .beq rs1 rs2 off)
  | 1 => okS (.branch .bne rs1 rs2 off)
  | 4 => okS (.branch .blt rs1 rs2 off)
  | 5 => okS (.branch .bge rs1 rs2 off)
  | 6 => okS (.branch .bltu rs1 rs2 off)
  | 7 => okS (.branch .bgeu rs1 rs2 off)
  | _ => .error .funct

/-- AMO: the A extension at 32 and 64 bits. -/
def decScalarAmo (f5 f3 : Nat) (aq rl : Bool) (rd rs1 rs2 : Reg) : Except Reject Instr :=
  let r := fun op => need (decide (f3 = 2 ∨ f3 = 3)) .funct (.ok (.scalarAmo op (decide (f3 = 3)) aq rl rd rs1 rs2))
  match f5 with
  | 0x02 => need (decide (rs2 = 0)) .zeroField (r .lr)
  | 0x03 => r .sc
  | 0x01 => r .swap
  | 0x00 => r .add
  | 0x04 => r .xor
  | 0x0C => r .and
  | 0x08 => r .or
  | 0x10 => r .min
  | 0x14 => r .max
  | 0x18 => r .minu
  | 0x1C => r .maxu
  | _ => .error .funct

/-- MISC-MEM: `fence` and `fence.i`; their unused fields are ignored, as the Unprivileged specification asks. -/
def decMisc (imm : BitVec 12) (f3 : Nat) (rs1 rd : Reg) : Except Reject Instr :=
  match f3 with
  | 0 => .ok (.scalarFence (imm.extractLsb' 8 4) (imm.extractLsb' 4 4) (imm.extractLsb' 0 4) rs1 rd)
  | 1 => .ok (.fenceI imm rs1 rd)
  | _ => .error .funct

/-- SYSTEM. -/
def decSystem (imm : BitVec 12) (f3 : Nat) (rs1 rd : Reg) : Except Reject Instr :=
  if f3 = 0 then decPriv imm rs1 rd
  else
    match csrOpOf f3 with
    | some op => .ok (decCsr imm op rd rs1)
    | none => .error .funct

/-- The fields of a word, sent by major opcode (R35, R50). -/
def decodeFields (f4 : BitVec 4) (m : BitVec 3) (b a : BitVec 5) (f3 : BitVec 3) (d : BitVec 5) (opc : BitVec 7) :
    Except Reject Instr :=
  let f7 : BitVec 7 := f4 ++ m
  let imm : BitVec 12 := f7 ++ b
  match opc.toNat with
  | 0x0B => decVa f4 m b a f3 d
  | 0x2B => decVm f4 m b a f3 d
  | 0x5B => decVp f4 m b a f3 d
  | 0x7B => decVx f4 m b a f3 d
  | 0x37 => okS (.lui d (imm ++ a ++ f3))
  | 0x17 => okS (.auipc d (imm ++ a ++ f3))
  | 0x6F =>
    let u : BitVec 20 := imm ++ a ++ f3
    okS (.jal d (u.extractLsb' 19 1 ++ u.extractLsb' 0 8 ++ u.extractLsb' 8 1 ++ u.extractLsb' 9 10))
  | 0x67 => need (decide (f3 = 0)) .funct (okS (.jalr d a imm))
  | 0x63 => decBranch f3.toNat a b f7 d
  | 0x03 => decLoad imm f3.toNat d a
  | 0x23 => decStore f3.toNat a b (f7 ++ d)
  | 0x13 => decOpImm imm f3.toNat d a
  | 0x1B => decOpImm32 imm f3.toNat d a
  | 0x33 => decOp f7.toNat f3.toNat d a b
  | 0x3B => decOp32 f7.toNat f3.toNat d a b
  | 0x2F => decScalarAmo (f7.extractLsb' 2 5).toNat f3.toNat (f7.getLsbD 1) (f7.getLsbD 0) d a b
  | 0x0F => decMisc imm f3.toNat a d
  | 0x73 => decSystem imm f3.toNat a d
  | _ => .error .opcode

/-- The instruction a word holds, or the rule of the decode check it fails (R57). -/
def decode (w : InstrWord) : Except Reject Instr :=
  decodeFields (w.extractLsb' 28 4) (w.extractLsb' 25 3) (w.extractLsb' 20 5) (w.extractLsb' 15 5) (w.extractLsb' 12 3)
    (w.extractLsb' 7 5) (w.extractLsb' 0 7)

/-- A word with a 12-bit immediate in [31:20] (R39's I layout). -/
def mkI (imm : BitVec 12) (rs1 : Reg) (f3 : BitVec 3) (rd : Reg) (opc : BitVec 7) : InstrWord :=
  mkV (imm.extractLsb' 8 4) (imm.extractLsb' 5 3) (imm.extractLsb' 0 5) rs1 f3 rd opc

/-- A word of the R layout. -/
def mkR (f7 : BitVec 7) (rs2 rs1 : Reg) (f3 : BitVec 3) (rd : Reg) (opc : BitVec 7) : InstrWord :=
  mkV (f7.extractLsb' 3 4) (f7.extractLsb' 0 3) rs2 rs1 f3 rd opc

/-- A word of the U and J layouts from its upper 20 bits. -/
def mkU (u : BitVec 20) (rd : Reg) (opc : BitVec 7) : InstrWord :=
  mkI (u.extractLsb' 8 12) (u.extractLsb' 3 5) (u.extractLsb' 0 3) rd opc

/-- f3 of a branch. -/
def branchF3 : BranchOp → BitVec 3
  | .beq => 0
  | .bne => 1
  | .blt => 4
  | .bge => 5
  | .bltu => 6
  | .bgeu => 7

/-- f7, f3 and major opcode of a register-register operation. -/
def aluCode : AluOp → BitVec 7 × BitVec 3 × BitVec 7
  | .add => (0x00, 0, 0x33)
  | .sub => (0x20, 0, 0x33)
  | .sll => (0x00, 1, 0x33)
  | .slt => (0x00, 2, 0x33)
  | .sltu => (0x00, 3, 0x33)
  | .xor => (0x00, 4, 0x33)
  | .srl => (0x00, 5, 0x33)
  | .sra => (0x20, 5, 0x33)
  | .or => (0x00, 6, 0x33)
  | .and => (0x00, 7, 0x33)
  | .addw => (0x00, 0, 0x3B)
  | .subw => (0x20, 0, 0x3B)
  | .sllw => (0x00, 1, 0x3B)
  | .srlw => (0x00, 5, 0x3B)
  | .sraw => (0x20, 5, 0x3B)
  | .mul => (0x01, 0, 0x33)
  | .mulh => (0x01, 1, 0x33)
  | .mulhsu => (0x01, 2, 0x33)
  | .mulhu => (0x01, 3, 0x33)
  | .div => (0x01, 4, 0x33)
  | .divu => (0x01, 5, 0x33)
  | .rem => (0x01, 6, 0x33)
  | .remu => (0x01, 7, 0x33)
  | .mulw => (0x01, 0, 0x3B)
  | .divw => (0x01, 4, 0x3B)
  | .divuw => (0x01, 5, 0x3B)
  | .remw => (0x01, 6, 0x3B)
  | .remuw => (0x01, 7, 0x3B)
  | .addUw => (0x04, 0, 0x3B)
  | .sh1add => (0x10, 2, 0x33)
  | .sh2add => (0x10, 4, 0x33)
  | .sh3add => (0x10, 6, 0x33)
  | .sh1addUw => (0x10, 2, 0x3B)
  | .sh2addUw => (0x10, 4, 0x3B)
  | .sh3addUw => (0x10, 6, 0x3B)
  | .andn => (0x20, 7, 0x33)
  | .orn => (0x20, 6, 0x33)
  | .xnor => (0x20, 4, 0x33)
  | .min => (0x05, 4, 0x33)
  | .minu => (0x05, 5, 0x33)
  | .max => (0x05, 6, 0x33)
  | .maxu => (0x05, 7, 0x33)
  | .rol => (0x30, 1, 0x33)
  | .ror => (0x30, 5, 0x33)
  | .rolw => (0x30, 1, 0x3B)
  | .rorw => (0x30, 5, 0x3B)

/-- f3 and major opcode of a register-immediate operation. -/
def immCode : ImmOp → BitVec 3 × BitVec 7
  | .addi => (0, 0x13)
  | .slti => (2, 0x13)
  | .sltiu => (3, 0x13)
  | .xori => (4, 0x13)
  | .ori => (6, 0x13)
  | .andi => (7, 0x13)
  | .addiw => (0, 0x1B)

/-- The upper six bits, f3 and major opcode of a shift by a six-bit amount. -/
def shiftCode : ShiftOp → BitVec 6 × BitVec 3 × BitVec 7
  | .slli => (0x00, 1, 0x13)
  | .srli => (0x00, 5, 0x13)
  | .srai => (0x10, 5, 0x13)
  | .rori => (0x18, 5, 0x13)
  | .slliUw => (0x02, 1, 0x1B)

/-- f7 and f3 of a word shift. -/
def shiftWCode : ShiftWOp → BitVec 7 × BitVec 3
  | .slliw => (0x00, 1)
  | .srliw => (0x00, 5)
  | .sraiw => (0x20, 5)
  | .roriw => (0x30, 5)

/-- The immediate, f3 and major opcode of a unary operation of Zbb. -/
def unCode : UnOp → BitVec 12 × BitVec 3 × BitVec 7
  | .clz => (0x600, 1, 0x13)
  | .ctz => (0x601, 1, 0x13)
  | .cpop => (0x602, 1, 0x13)
  | .sextB => (0x604, 1, 0x13)
  | .sextH => (0x605, 1, 0x13)
  | .orcB => (0x287, 5, 0x13)
  | .rev8 => (0x6B8, 5, 0x13)
  | .clzw => (0x600, 1, 0x1B)
  | .ctzw => (0x601, 1, 0x1B)
  | .cpopw => (0x602, 1, 0x1B)
  | .zextH => (0x080, 4, 0x3B)

/-- f3 of a load. -/
def loadF3 : LoadKind → BitVec 3
  | .lb => 0
  | .lh => 1
  | .lw => 2
  | .ld => 3
  | .lbu => 4
  | .lhu => 5
  | .lwu => 6

/-- f3 of a store. -/
def storeF3 : StoreKind → BitVec 3
  | .sb => 0
  | .sh => 1
  | .sw => 2
  | .sd => 3

/-- funct5 of an operation of the A extension. -/
def amoF5 : AmoOp → BitVec 5
  | .lr => 0x02
  | .sc => 0x03
  | .swap => 0x01
  | .add => 0x00
  | .xor => 0x04
  | .and => 0x0C
  | .or => 0x08
  | .min => 0x10
  | .max => 0x14
  | .minu => 0x18
  | .maxu => 0x1C

/-- f3 of a Zicsr operation. -/
def csrF3 : CsrOp → BitVec 3
  | .rw => 1
  | .rs => 2
  | .rc => 3
  | .rwi => 5
  | .rsi => 6
  | .rci => 7

/-- The number of a CSR whose read waits (R44). -/
def waitCsrNum : WaitCsr → BitVec 12
  | .vstat => 0x800
  | .vmcnt => 0xCC3
  | .vtrows => 0xCC4

/-- One bit from a truth value. -/
def bit1 (c : Bool) : BitVec 1 := if c then 1 else 0

/-- A Zicsr word. -/
def mkCsr (csr : BitVec 12) (op : CsrOp) (rd src : Reg) : InstrWord := mkI csr src (csrF3 op) rd 0x73

/-- The word of a scalar operation. -/
def encodeScalar (op : ScalarOp) : InstrWord :=
  match op with
  | .lui rd imm => mkU imm rd 0x37
  | .auipc rd imm => mkU imm rd 0x17
  | .jal rd off =>
    mkU (off.extractLsb' 19 1 ++ off.extractLsb' 0 10 ++ off.extractLsb' 10 1 ++ off.extractLsb' 11 8) rd 0x6F
  | .jalr rd rs1 imm => mkI imm rs1 0 rd 0x67
  | .branch op rs1 rs2 off =>
    mkR (off.extractLsb' 11 1 ++ off.extractLsb' 4 6) rs2 rs1 (branchF3 op)
      (off.extractLsb' 0 4 ++ off.extractLsb' 10 1) 0x63
  | .opImm op rd rs1 imm => mkI imm rs1 (immCode op).1 rd (immCode op).2
  | .shift op rd rs1 amt => mkI ((shiftCode op).1 ++ amt) rs1 (shiftCode op).2.1 rd (shiftCode op).2.2
  | .shiftW op rd rs1 amt => mkR (shiftWCode op).1 amt rs1 (shiftWCode op).2 rd 0x1B
  | .op op rd rs1 rs2 => mkR (aluCode op).1 rs2 rs1 (aluCode op).2.1 rd (aluCode op).2.2
  | .unary op rd rs1 => mkI (unCode op).1 rs1 (unCode op).2.1 rd (unCode op).2.2
  | .ecall => mkI 0x000 0 0 0 0x73
  | .ebreak => mkI 0x001 0 0 0 0x73

/-- The word of an instruction; an event row has none. -/
def encode (i : Instr) : Option InstrWord :=
  match i with
  | .vaAddIvv d a b m => some (mkV 0#4 m b a 0#3 d 11#7)
  | .vaSubIvv d a b m => some (mkV 1#4 m b a 0#3 d 11#7)
  | .vaMulIvv d a b m => some (mkV 2#4 m b a 0#3 d 11#7)
  | .vaMulhIvv d a b m => some (mkV 3#4 m b a 0#3 d 11#7)
  | .vaMinIvv d a b m => some (mkV 4#4 m b a 0#3 d 11#7)
  | .vaMaxIvv d a b m => some (mkV 5#4 m b a 0#3 d 11#7)
  | .vaMinuIvv d a b m => some (mkV 6#4 m b a 0#3 d 11#7)
  | .vaMaxuIvv d a b m => some (mkV 7#4 m b a 0#3 d 11#7)
  | .vaAndIvv d a b m => some (mkV 8#4 m b a 0#3 d 11#7)
  | .vaOrIvv d a b m => some (mkV 9#4 m b a 0#3 d 11#7)
  | .vaXorIvv d a b m => some (mkV 10#4 m b a 0#3 d 11#7)
  | .vaSllIvv d a b m => some (mkV 11#4 m b a 0#3 d 11#7)
  | .vaSrlIvv d a b m => some (mkV 12#4 m b a 0#3 d 11#7)
  | .vaSraIvv d a b m => some (mkV 13#4 m b a 0#3 d 11#7)
  | .vaMergeIvv d a b m => some (mkV 14#4 m b a 0#3 d 11#7)
  | .vaMulhuIvv d a b m => some (mkV 15#4 m b a 0#3 d 11#7)
  | .vaAddIvx d a b m => some (mkV 0#4 m b a 1#3 d 11#7)
  | .vaSubIvx d a b m => some (mkV 1#4 m b a 1#3 d 11#7)
  | .vaMulIvx d a b m => some (mkV 2#4 m b a 1#3 d 11#7)
  | .vaMulhIvx d a b m => some (mkV 3#4 m b a 1#3 d 11#7)
  | .vaMinIvx d a b m => some (mkV 4#4 m b a 1#3 d 11#7)
  | .vaMaxIvx d a b m => some (mkV 5#4 m b a 1#3 d 11#7)
  | .vaMinuIvx d a b m => some (mkV 6#4 m b a 1#3 d 11#7)
  | .vaMaxuIvx d a b m => some (mkV 7#4 m b a 1#3 d 11#7)
  | .vaAndIvx d a b m => some (mkV 8#4 m b a 1#3 d 11#7)
  | .vaOrIvx d a b m => some (mkV 9#4 m b a 1#3 d 11#7)
  | .vaXorIvx d a b m => some (mkV 10#4 m b a 1#3 d 11#7)
  | .vaSllIvx d a b m => some (mkV 11#4 m b a 1#3 d 11#7)
  | .vaSrlIvx d a b m => some (mkV 12#4 m b a 1#3 d 11#7)
  | .vaSraIvx d a b m => some (mkV 13#4 m b a 1#3 d 11#7)
  | .vaMergeIvx d a b m => some (mkV 14#4 m b a 1#3 d 11#7)
  | .vaMulhuIvx d a b m => some (mkV 15#4 m b a 1#3 d 11#7)
  | .vaAddIvi d a b m => some (mkV 0#4 m b a 2#3 d 11#7)
  | .vaSubIvi d a b m => some (mkV 1#4 m b a 2#3 d 11#7)
  | .vaMinIvi d a b m => some (mkV 4#4 m b a 2#3 d 11#7)
  | .vaMaxIvi d a b m => some (mkV 5#4 m b a 2#3 d 11#7)
  | .vaMinuIvi d a b m => some (mkV 6#4 m b a 2#3 d 11#7)
  | .vaMaxuIvi d a b m => some (mkV 7#4 m b a 2#3 d 11#7)
  | .vaAndIvi d a b m => some (mkV 8#4 m b a 2#3 d 11#7)
  | .vaOrIvi d a b m => some (mkV 9#4 m b a 2#3 d 11#7)
  | .vaXorIvi d a b m => some (mkV 10#4 m b a 2#3 d 11#7)
  | .vaSllIvi d a b m => some (mkV 11#4 m b a 2#3 d 11#7)
  | .vaSrlIvi d a b m => some (mkV 12#4 m b a 2#3 d 11#7)
  | .vaSraIvi d a b m => some (mkV 13#4 m b a 2#3 d 11#7)
  | .vaMergeIvi d a b m => some (mkV 14#4 m b a 2#3 d 11#7)
  | .vaFaddFvv d a b m => some (mkV 0#4 m b a 3#3 d 11#7)
  | .vaFsubFvv d a b m => some (mkV 1#4 m b a 3#3 d 11#7)
  | .vaFmulFvv d a b m => some (mkV 2#4 m b a 3#3 d 11#7)
  | .vaFdivFvv d a b m => some (mkV 3#4 m b a 3#3 d 11#7)
  | .vaFminFvv d a b m => some (mkV 4#4 m b a 3#3 d 11#7)
  | .vaFmaxFvv d a b m => some (mkV 5#4 m b a 3#3 d 11#7)
  | .vaFmaccFvv d a b m => some (mkV 6#4 m b a 3#3 d 11#7)
  | .vaFnmaccFvv d a b m => some (mkV 7#4 m b a 3#3 d 11#7)
  | .vaFmsacFvv d a b m => some (mkV 8#4 m b a 3#3 d 11#7)
  | .vaFnmsacFvv d a b m => some (mkV 9#4 m b a 3#3 d 11#7)
  | .vaFsgnjFvv d a b m => some (mkV 10#4 m b a 3#3 d 11#7)
  | .vaFsgnjnFvv d a b m => some (mkV 11#4 m b a 3#3 d 11#7)
  | .vaFsgnjxFvv d a b m => some (mkV 12#4 m b a 3#3 d 11#7)
  | .vaFaddFvx d a b m => some (mkV 0#4 m b a 4#3 d 11#7)
  | .vaFsubFvx d a b m => some (mkV 1#4 m b a 4#3 d 11#7)
  | .vaFmulFvx d a b m => some (mkV 2#4 m b a 4#3 d 11#7)
  | .vaFdivFvx d a b m => some (mkV 3#4 m b a 4#3 d 11#7)
  | .vaFminFvx d a b m => some (mkV 4#4 m b a 4#3 d 11#7)
  | .vaFmaxFvx d a b m => some (mkV 5#4 m b a 4#3 d 11#7)
  | .vaFmaccFvx d a b m => some (mkV 6#4 m b a 4#3 d 11#7)
  | .vaFnmaccFvx d a b m => some (mkV 7#4 m b a 4#3 d 11#7)
  | .vaFmsacFvx d a b m => some (mkV 8#4 m b a 4#3 d 11#7)
  | .vaFnmsacFvx d a b m => some (mkV 9#4 m b a 4#3 d 11#7)
  | .vaFsgnjFvx d a b m => some (mkV 10#4 m b a 4#3 d 11#7)
  | .vaFsgnjnFvx d a b m => some (mkV 11#4 m b a 4#3 d 11#7)
  | .vaFsgnjxFvx d a b m => some (mkV 12#4 m b a 4#3 d 11#7)
  | .vaSeq d a b m => some (mkV 0#4 m b a 5#3 (0#2 ++ d) 11#7)
  | .vaSne d a b m => some (mkV 1#4 m b a 5#3 (0#2 ++ d) 11#7)
  | .vaSlt d a b m => some (mkV 2#4 m b a 5#3 (0#2 ++ d) 11#7)
  | .vaSltu d a b m => some (mkV 3#4 m b a 5#3 (0#2 ++ d) 11#7)
  | .vaSle d a b m => some (mkV 4#4 m b a 5#3 (0#2 ++ d) 11#7)
  | .vaSleu d a b m => some (mkV 5#4 m b a 5#3 (0#2 ++ d) 11#7)
  | .vaFeq d a b m => some (mkV 6#4 m b a 5#3 (0#2 ++ d) 11#7)
  | .vaFlt d a b m => some (mkV 7#4 m b a 5#3 (0#2 ++ d) 11#7)
  | .vaFle d a b m => some (mkV 8#4 m b a 5#3 (0#2 ++ d) 11#7)
  | .vaFne d a b m => some (mkV 9#4 m b a 5#3 (0#2 ++ d) 11#7)
  | .vaKand d a b => some (mkV 10#4 0#3 (0#2 ++ b) (0#2 ++ a) 5#3 (0#2 ++ d) 11#7)
  | .vaKor d a b => some (mkV 11#4 0#3 (0#2 ++ b) (0#2 ++ a) 5#3 (0#2 ++ d) 11#7)
  | .vaKxor d a b => some (mkV 12#4 0#3 (0#2 ++ b) (0#2 ++ a) 5#3 (0#2 ++ d) 11#7)
  | .vaKandn d a b => some (mkV 13#4 0#3 (0#2 ++ b) (0#2 ++ a) 5#3 (0#2 ++ d) 11#7)
  | .vaKnot d b => some (mkV 14#4 0#3 (0#2 ++ b) 0#5 5#3 (0#2 ++ d) 11#7)
  | .vaFsqrt d b m => some (mkV 0#4 m b 0#5 6#3 d 11#7)
  | .vaFrsqrte d b m => some (mkV 0#4 m b 1#5 6#3 d 11#7)
  | .vaFrece d b m => some (mkV 0#4 m b 2#5 6#3 d 11#7)
  | .vaFlog2 d b m => some (mkV 0#4 m b 3#5 6#3 d 11#7)
  | .vaFexp2 d b m => some (mkV 0#4 m b 4#5 6#3 d 11#7)
  | .vaFclass d b m => some (mkV 0#4 m b 5#5 6#3 d 11#7)
  | .vaFcvt d a b m => some (mkV 1#4 m b a 6#3 d 11#7)
  | .vaMv d b m => some (mkV 2#4 m b 0#5 6#3 d 11#7)
  | .vaSplat d b m => some (mkV 2#4 m b 1#5 6#3 d 11#7)
  | .vaIota d m => some (mkV 2#4 m 0#5 2#5 6#3 d 11#7)
  | .vaRng d b m => some (mkV 2#4 m b 3#5 6#3 d 11#7)
  | .vaRedsum d b m => some (mkV 3#4 m b 0#5 6#3 d 11#7)
  | .vaFredsum d b m => some (mkV 3#4 m b 1#5 6#3 d 11#7)
  | .vaRedmax d b m => some (mkV 3#4 m b 2#5 6#3 d 11#7)
  | .vaRedmin d b m => some (mkV 3#4 m b 3#5 6#3 d 11#7)
  | .vaFredmax d b m => some (mkV 3#4 m b 4#5 6#3 d 11#7)
  | .vaFredmin d b m => some (mkV 3#4 m b 5#5 6#3 d 11#7)
  | .vaRedmaxi d b m => some (mkV 3#4 m b 6#5 6#3 d 11#7)
  | .vaFredmaxi d b m => some (mkV 3#4 m b 7#5 6#3 d 11#7)
  | .vaRedand d b m => some (mkV 3#4 m b 8#5 6#3 d 11#7)
  | .vaRedor d b m => some (mkV 3#4 m b 9#5 6#3 d 11#7)
  | .vaRedxor d b m => some (mkV 3#4 m b 10#5 6#3 d 11#7)
  | .vaKpop d b m => some (mkV 5#4 m (0#2 ++ b) 0#5 6#3 d 11#7)
  | .vaKfirst d b m => some (mkV 5#4 m (0#2 ++ b) 1#5 6#3 d 11#7)
  | .vaSetvl d a b => some (mkV 0#4 0#3 b a 7#3 d 11#7)
  | .vaSetvlP d a b => some (mkV 1#4 0#3 b a 7#3 d 11#7)
  | .vaSetcfg d a => some (mkV 2#4 0#3 0#5 a 7#3 d 11#7)
  | .vaSetkey d a => some (mkV 3#4 0#3 0#5 a 7#3 d 11#7)
  | .vmLd d a m => some (mkV 0#4 m 0#5 a 0#3 d 43#7)
  | .vmLds d a b m => some (mkV 1#4 m b a 0#3 d 43#7)
  | .vmLdx d a b m => some (mkV 2#4 m b a 0#3 d 43#7)
  | .vmLdff d a m => some (mkV 3#4 m 0#5 a 0#3 d 43#7)
  | .vmLdnc d a m => some (mkV 4#4 m 0#5 a 0#3 d 43#7)
  | .vmLdsc d a m => some (mkV 5#4 m 0#5 a 0#3 d 43#7)
  | .vmLdmc d a b m => some (mkV 6#4 m b a 0#3 d 43#7)
  | .vmLdraw d a m => some (mkV 7#4 m 0#5 a 0#3 d 43#7)
  | .vmLdgl d a b m => some (mkV 8#4 m b a 0#3 d 43#7)
  | .vmLdffx d a b m => some (mkV 9#4 m b a 0#3 d 43#7)
  | .vmSt d a m => some (mkV 0#4 m 0#5 a 1#3 d 43#7)
  | .vmSts d a b m => some (mkV 1#4 m b a 1#3 d 43#7)
  | .vmStx d a b m => some (mkV 2#4 m b a 1#3 d 43#7)
  | .vmStsc d a m => some (mkV 3#4 m 0#5 a 1#3 d 43#7)
  | .vmStraw d a m => some (mkV 4#4 m 0#5 a 1#3 d 43#7)
  | .vmStcx d a b m => some (mkV 5#4 m b a 1#3 d 43#7)
  | .vmAmoadd d a b m => some (mkV 0#4 m b a 2#3 d 43#7)
  | .vmAmofadd d a b m => some (mkV 1#4 m b a 2#3 d 43#7)
  | .vmAmomin d a b m => some (mkV 2#4 m b a 2#3 d 43#7)
  | .vmAmomax d a b m => some (mkV 3#4 m b a 2#3 d 43#7)
  | .vmAmominu d a b m => some (mkV 4#4 m b a 2#3 d 43#7)
  | .vmAmomaxu d a b m => some (mkV 5#4 m b a 2#3 d 43#7)
  | .vmAmoand d a b m => some (mkV 6#4 m b a 2#3 d 43#7)
  | .vmAmoor d a b m => some (mkV 7#4 m b a 2#3 d 43#7)
  | .vmAmoxor d a b m => some (mkV 8#4 m b a 2#3 d 43#7)
  | .vmAmoswap d a b m => some (mkV 9#4 m b a 2#3 d 43#7)
  | .vmAmocas d a b m => some (mkV 10#4 m b a 2#3 (d ++ 0#1) 43#7)
  | .vmAmoaddR d a b m => some (mkV 0#4 m b a 3#3 d 43#7)
  | .vmAmofaddR d a b m => some (mkV 1#4 m b a 3#3 d 43#7)
  | .vmAmominR d a b m => some (mkV 2#4 m b a 3#3 d 43#7)
  | .vmAmomaxR d a b m => some (mkV 3#4 m b a 3#3 d 43#7)
  | .vmAmominuR d a b m => some (mkV 4#4 m b a 3#3 d 43#7)
  | .vmAmomaxuR d a b m => some (mkV 5#4 m b a 3#3 d 43#7)
  | .vmAmoandR d a b m => some (mkV 6#4 m b a 3#3 d 43#7)
  | .vmAmoorR d a b m => some (mkV 7#4 m b a 3#3 d 43#7)
  | .vmAmoxorR d a b m => some (mkV 8#4 m b a 3#3 d 43#7)
  | .vmAmoswapR d a b m => some (mkV 9#4 m b a 3#3 d 43#7)
  | .vmAmocasR d a b m => some (mkV 10#4 m b a 3#3 (d ++ 0#1) 43#7)
  | .vmUpdadd d a m => some (mkV 0#4 m 0#5 a 4#3 d 43#7)
  | .vmUpdfadd d a m => some (mkV 1#4 m 0#5 a 4#3 d 43#7)
  | .vmUpdmin d a m => some (mkV 2#4 m 0#5 a 4#3 d 43#7)
  | .vmUpdmax d a m => some (mkV 3#4 m 0#5 a 4#3 d 43#7)
  | .vmUpdfmax d a m => some (mkV 4#4 m 0#5 a 4#3 d 43#7)
  | .vmUpdfmin d a m => some (mkV 5#4 m 0#5 a 4#3 d 43#7)
  | .vmFence a m => some (mkV 0#4 m 0#5 a 5#3 0#5 43#7)
  | .vmFenceb a b m => some (mkV 1#4 m b a 5#3 0#5 43#7)
  | .vmBwait a b m => some (mkV 2#4 m b a 5#3 0#5 43#7)
  | .vmGcsleep d a b m => some (mkV 3#4 m (0#4 ++ b) a 5#3 (d ++ 0#1) 43#7)
  | .vmRofence m => some (mkV 4#4 m 0#5 0#5 5#3 0#5 43#7)
  | .vmCp a b m => some (mkV 0#4 m b a 6#3 0#5 43#7)
  | .vmCpwany d a m => some (mkV 1#4 m 0#5 a 6#3 d 43#7)
  | .vmCpwall d a m => some (mkV 2#4 m 0#5 a 6#3 d 43#7)
  | .vmCpffr d a m => some (mkV 3#4 m 0#5 a 6#3 d 43#7)
  | .vmCpclr a m => some (mkV 4#4 m 0#5 a 6#3 0#5 43#7)
  | .vpSort d b => some (mkV 0#4 0#3 b 0#5 0#3 d 91#7)
  | .vpChk d b => some (mkV 1#4 0#3 b 0#5 0#3 d 91#7)
  | .vpMerge d a b => some (mkV 2#4 0#3 b a 0#3 (d ++ 0#1) 91#7)
  | .vpMergec d a b => some (mkV 3#4 0#3 b a 0#3 d 91#7)
  | .vpIsect d a b => some (mkV 4#4 0#3 b a 0#3 d 91#7)
  | .vpDiff d a b => some (mkV 5#4 0#3 b a 0#3 d 91#7)
  | .vpUniq d b => some (mkV 6#4 0#3 b 0#5 0#3 d 91#7)
  | .vpRank d a b => some (mkV 7#4 0#3 b a 0#3 d 91#7)
  | .vpPart d a b => some (mkV 8#4 0#3 b a 0#3 d 91#7)
  | .vpKeys d b => some (mkV 9#4 0#3 b 0#5 0#3 d 91#7)
  | .vpSpk d b => some (mkV 0#4 0#3 b 0#5 1#3 d 91#7)
  | .vpSpx d b => some (mkV 1#4 0#3 b 0#5 1#3 d 91#7)
  | .vpSpadd d a b => some (mkV 2#4 0#3 b a 1#3 d 91#7)
  | .vpSpmul d a b => some (mkV 3#4 0#3 b a 1#3 d 91#7)
  | .vpSpdot d a b => some (mkV 4#4 0#3 b a 1#3 d 91#7)
  | .vpSpbuild d b => some (mkV 5#4 0#3 b 0#5 1#3 d 91#7)
  | .vpSpcoord d b => some (mkV 6#4 0#3 b 0#5 1#3 d 91#7)
  | .vpSpval d b => some (mkV 7#4 0#3 b 0#5 1#3 d 91#7)
  | .vpTopk d a b => some (mkV 0#4 0#3 b a 2#3 d 91#7)
  | .vpHist d a b => some (mkV 1#4 0#3 b a 2#3 d 91#7)
  | .vpScan d b => some (mkV 2#4 0#3 b 0#5 2#3 d 91#7)
  | .vpScani d b => some (mkV 3#4 0#3 b 0#5 2#3 d 91#7)
  | .vpGperm d a b => some (mkV 4#4 0#3 b a 2#3 d 91#7)
  | .vpSlideup d a b => some (mkV 0#4 0#3 b a 3#3 d 91#7)
  | .vpSlidedn d a b => some (mkV 1#4 0#3 b a 3#3 d 91#7)
  | .vpPerm d a b => some (mkV 2#4 0#3 b a 3#3 d 91#7)
  | .vpCompress d a b => some (mkV 3#4 0#3 b (0#2 ++ a) 3#3 d 91#7)
  | .vpExpand d a b => some (mkV 4#4 0#3 b (0#2 ++ a) 3#3 d 91#7)
  | .vpRotg d a b => some (mkV 5#4 0#3 b a 3#3 d 91#7)
  | .vpBcast d a b => some (mkV 6#4 0#3 b a 3#3 d 91#7)
  | .vpExt d a b => some (mkV 7#4 0#3 b a 3#3 d 91#7)
  | .vpIns d a b => some (mkV 8#4 0#3 b a 3#3 d 91#7)
  | .vpGetd d b => some (mkV 0#4 0#3 b 0#5 4#3 d 91#7)
  | .vpSetd d a => some (mkV 1#4 0#3 0#5 a 4#3 d 91#7)
  | .vxMmac d a b => some (mkV 0#4 0#3 b a 0#3 d 123#7)
  | .vxMmacs d a e n => some (mkV 1#4 0#3 (e ++ 0#1 ++ n) a 0#3 d 123#7)
  | .vxMgemm d a => some (mkV 2#4 0#3 0#5 a 0#3 d 123#7)
  | .vxMtld d a b => some (mkV 3#4 0#3 b a 0#3 d 123#7)
  | .vxMcomp d a b => some (mkV 4#4 0#3 b a 0#3 (d ++ 0#3) 123#7)
  | .vxMunf a => some (mkV 5#4 0#3 0#5 a 0#3 0#5 123#7)
  | .vxMzero d => some (mkV 6#4 0#3 0#5 0#5 0#3 d 123#7)
  | .vxPush d a b m => some (mkV 0#4 m b a 1#3 d 123#7)
  | .vxTake d => some (mkV 1#4 0#3 0#5 0#5 1#3 d 123#7)
  | .vxFe d => some (mkV 2#4 0#3 0#5 0#5 1#3 d 123#7)
  | .vxClaim d a b => some (mkV 0#4 0#3 b a 2#3 d 123#7)
  | .vxFulfil a b => some (mkV 0#4 1#3 b a 2#3 0#5 123#7)
  | .vxAbandon a => some (mkV 0#4 2#3 0#5 a 2#3 0#5 123#7)
  | .vxFld d a => some (mkV 0#4 3#3 0#5 a 2#3 d 123#7)
  | .vxFprobe d a => some (mkV 0#4 4#3 0#5 a 2#3 d 123#7)
  | .vxRelease a => some (mkV 0#4 5#3 0#5 a 2#3 0#5 123#7)
  | .vxSpawn d a => some (mkV 0#4 0#3 0#5 a 3#3 d 123#7)
  | .vxEnd => some (mkV 0#4 1#3 0#5 0#5 3#3 0#5 123#7)
  | .vxDep d a b => some (mkV 0#4 2#3 b a 3#3 d 123#7)
  | .vxGlaunch a => some (mkV 0#4 3#3 0#5 a 3#3 0#5 123#7)
  | .vxYield => some (mkV 0#4 4#3 0#5 0#5 3#3 0#5 123#7)
  | .vxLvl d a => some (mkV 0#4 5#3 0#5 a 3#3 d 123#7)
  | .vxSave a => some (mkV 0#4 0#3 0#5 a 4#3 0#5 123#7)
  | .vxRestore => some (mkV 0#4 1#3 0#5 0#5 4#3 0#5 123#7)
  | .vxVdrain => some (mkV 0#4 2#3 0#5 0#5 4#3 0#5 123#7)
  | .vxIcinv a => some (mkV 0#4 3#3 0#5 a 4#3 0#5 123#7)
  | .vxTlbinv a b => some (mkV 0#4 4#3 b a 4#3 0#5 123#7)
  | .vxWdpet => some (mkV 0#4 5#3 0#5 0#5 4#3 0#5 123#7)
  | .fenceI imm rs1 rd => some (mkI imm rs1 1 rd 0x0F)
  | .sfenceVma rs1 rs2 => some (mkR 0x09 rs2 rs1 0 0 0x73)
  | .scalarFence fm pred succ rs1 rd => some (mkI (fm ++ pred ++ succ) rs1 0 rd 0x0F)
  | .wfi => some (mkI 0x105 0 0 0 0x73)
  | .sret => some (mkI 0x102 0 0 0 0x73)
  | .mret => some (mkI 0x302 0 0 0 0x73)
  | .scalarLoad k rd rs1 imm => some (mkI imm rs1 (loadF3 k) rd 0x03)
  | .scalarStore k rs1 rs2 imm => some (mkR (imm.extractLsb' 5 7) rs2 rs1 (storeF3 k) (imm.extractLsb' 0 5) 0x23)
  | .scalarAmo op dword aq rl rd rs1 rs2 =>
    some (mkR (amoF5 op ++ bit1 aq ++ bit1 rl) rs2 rs1 (if dword then 3 else 2) rd 0x2F)
  | .csrReadWait csr op rd => some (mkCsr (waitCsrNum csr) op rd 0)
  | .csrWriteVstat op rd src => some (mkCsr 0x800 op rd src)
  | .csrWriteVrthr op rd src => some (mkCsr 0x801 op rd src)
  | .csrWriteDatp op rd src => some (mkCsr 0x5C1 op rd src)
  | .csrWriteFmtb op rd src => some (mkCsr 0x5C0 op rd src)
  | .csrWrite csr op rd src => some (mkCsr csr op rd src)
  | .scalarInstruction op => some (encodeScalar op)
  | .reservedWord _ => none
  | .ecallFromS => none
  | .elementGroupIssue => none
  | .vectorCommit => none
  | .trapEntry => none
  | .supervisorTimerInterrupt => none
  | .preemptionRequest => none
  | .forcedSave => none
  | .saveEngineTimeout => none
  | .watchdogExpiry => none
  | .taskDispatch => none
  | .taskResumption => none
  | .nodeReady => none
  | .readRequest => none
  | .readReply => none
  | .writeRequest => none
  | .writeAcknowledgement => none
  | .atomicRequest => none
  | .atomicReply => none
  | .lineLockRequest => none
  | .amoLockRetry => none
  | .scalarL1Invalidation => none
  | .invalidationAcknowledgement => none
  | .ownershipRequest => none
  | .ownershipGrant => none
  | .ownershipRecall => none
  | .barrierArrival => none
  | .barrierWaitRequest => none
  | .nackRetry => none
  | .slathClaimRequest => none
  | .slathFldRequest => none
  | .slathFulfilRequest => none
  | .slathAbandonRequest => none
  | .slathReleaseRequest => none
  | .slathProbeRequest => none
  | .scTicket => none
  | .pushRequest => none
  | .pushGrant => none
  | .pushData => none
  | .replicaUpdate => none
  | .epochCloseTimeout => none
  | .restamp => none
  | .forwardedAccess => none
  | .multicastReadRequest => none
  | .mergeWindowClose => none
  | .multicastReadReply => none
  | .routerCycle => none
  | .recordLossTimeout => none
  | .throttleWindowEnd => none
  | .routerPowerDown => none
  | .gcsleepWake => none
  | .gcsleepPoll => none
  | .pageWalk => none
  | .copyStart => none
  | .copyComplete => none
  | .copyFailure => none
  | .mgemmStep => none
  | .glaunchBlockServe => none
  | .glaunchNode => none
  | .glaunchDone => none
  | .queueDoorbell => none
  | .queueStart => none
  | .queueStop => none
  | .packetTake => none
  | .taskAbort => none
  | .tlbctlGo => none
  | .bar0RegisterWrite => none
  | .bar2Read => none
  | .bar2Write => none
  | .setPhysicalMap => none
  | .setWaleWindow => none
  | .setBasketPartition => none
  | .setContextTable => none
  | .setLinkBonding => none
  | .setPowerLimit => none
  | .sensorRead => none
  | .logRead => none
  | .firmwareUpdate => none
  | .attestation => none
  | .sensorSample => none
  | .scrub => none
  | .structureError => none
  | .coldReset => none
  | .packageReset => none
  | .dieReset => none
  | .pcieD3hot => none
  | .coreClockGate => none
  | .waleFlitReceive => none
  | .waleReplayRequest => none
  | .walePortRetrain => none
  | .remoteAccessTimeout => none
  | .remoteAccess => none
  | .replicaDrop => none
  | .d3hotRestart => none

/-- The word that four bytes in memory form, least significant byte first (R35). -/
def wordOfBytes : List Byte → Option InstrWord
  | [b0, b1, b2, b3] => some (b3 ++ b2 ++ b1 ++ b0)
  | _ => none

/-- The bytes of a word as the hardware stores them. -/
def bytesOfWord (w : InstrWord) : List Byte :=
  [w.extractLsb' 0 8, w.extractLsb' 8 8, w.extractLsb' 16 8, w.extractLsb' 24 8]

/-- The instruction four bytes hold. -/
def decodeBytes (bs : List Byte) : Except Reject Instr :=
  match wordOfBytes bs with
  | some w => decode w
  | none => .error .opcode

/-- The instruction read from a word whose bits the opcode table numbers. -/
def decodeTableWord (nbits w : Nat) : Option Instr :=
  match decodeBytes (bytesOfWord (BitVec.ofNat 32 (w % 2 ^ nbits))) with
  | .ok i => some i
  | .error _ => none

end Sys2Proof
end

