-- ==== Sys2Proof/Machine/Bits.lean ====
section
/-! DEFINITION. Bit patterns as natural numbers: elements of a register, two's complement, byte strings. -/

namespace Sys2Proof.Machine

/-- A `w`-bit pattern read as two's complement (R108). -/
def sgn (w n : Nat) : Int :=
  if n % 2 ^ w < 2 ^ (w - 1) then ((n % 2 ^ w : Nat) : Int) else ((n % 2 ^ w : Nat) : Int) - ((2 ^ w : Nat) : Int)

/-- The two's complement pattern of an integer at width `w`. -/
def ofInt (w : Nat) (z : Int) : Nat := (z % ((2 ^ w : Nat) : Int)).toNat

/-- Bits `[lo + w - 1 : lo]` of a number. -/
def bits (n lo w : Nat) : Nat := n / 2 ^ lo % 2 ^ w

/-- Element `i` of width `w` of a register's contents (R41). -/
def elem (w : Nat) (b : VBits) (i : Nat) : Nat := bits b.toNat (i * w) w

/-- The number whose `w`-bit digit `i` is `f i` for `i < n`, and 0 above. -/
def packNat (w : Nat) (f : Nat → Nat) : Nat → Nat
  | 0 => 0
  | n + 1 => packNat w f n + f n % 2 ^ w * 2 ^ (w * n)

/-- The register contents with element `i` equal to `f i` for `i < n` and zeros above (R23). -/
def packV (w : Nat) (f : Nat → Nat) (n : Nat) : VBits := BitVec.ofNat 32768 (packNat w f n)

/-- The mask contents with bit `i` equal to `f i` for `i < n` and zeros above (R41). -/
def packK (f : Nat → Bool) (n : Nat) : KBits :=
  BitVec.ofNat 4096 (packNat 1 (fun i => if f i then 1 else 0) n)

/-- ⌈a / b⌉. -/
def ceilDiv (a b : Nat) : Nat := (a + b - 1) / b

/-- The number of bits of a number: 0 for 0, else ⌊log2 n⌋ + 1. -/
def bitLen (n : Nat) : Nat := if n = 0 then 0 else Nat.log2 n + 1

/-- The integer square root, bit by bit from bit `k - 1` of the root down; `acc` is the root so far. -/
def isqrtAux (n : Nat) : Nat → Nat → Nat
  | 0, acc => acc
  | k + 1, acc =>
    let t := acc + 2 ^ k
    if t * t ≤ n then isqrtAux n k t else isqrtAux n k acc

/-- ⌊√n⌋. -/
def isqrt (n : Nat) : Nat := isqrtAux n (bitLen n / 2 + 1) 0

/-- The `n` bytes of a number, least significant first (R102). -/
def bytesOf : Nat → Nat → List Byte
  | 0, _ => []
  | n + 1, v => BitVec.ofNat 8 v :: bytesOf n (v / 256)

/-- The number that bytes form, least significant first. -/
def ofBytes : List Byte → Nat
  | [] => 0
  | b :: r => b.toNat + 256 * ofBytes r

/-- A 64-bit word from a number. -/
def word (n : Nat) : Word := BitVec.ofNat 64 n

/-- The sum of `f 0 … f (n-1)`. -/
def sumTo (f : Nat → Nat) : Nat → Nat
  | 0 => 0
  | n + 1 => sumTo f n + f n

/-- The number of `i < n` with `p i`. -/
def countTo (p : Nat → Bool) : Nat → Nat
  | 0 => 0
  | n + 1 => countTo p n + (if p n then 1 else 0)

/-- Whether some `i < n` has `p i`. -/
def anyTo (p : Nat → Bool) : Nat → Bool
  | 0 => false
  | n + 1 => anyTo p n || p n

/-- The OR of the flags `f 0 … f (n-1)`. -/
def flagsTo (f : Nat → Flags) : Nat → Flags
  | 0 => 0
  | n + 1 => flagsTo f n ||| f n

/-- The lowest `i < n` with `p i`. -/
def firstTo (p : Nat → Bool) : Nat → Option Nat
  | 0 => none
  | n + 1 =>
    match firstTo p n with
    | some i => some i
    | none => if p n then some n else none

end Sys2Proof.Machine
end

