-- ==== Sys2Proof/Machine/Format.lean ====
section
/-! DEFINITION. Number formats, the exact values operations form, and the one rounding function (R140 to R146). -/

namespace Sys2Proof.Machine

/-- The five rounding modes of `vcfg.RM` (R46). -/
inductive RMode where
  | rne | rtz | rdn | rup | rmm
  deriving DecidableEq, Repr

/-- The fields of a floating-point format (R141). -/
structure FpFmt where
  /-- element width -/
  w : Nat
  /-- exponent bits -/
  eb : Nat
  /-- fraction bits -/
  fb : Nat
  /-- FP8E4: no infinities, and only the all-ones pattern is NaN -/
  fn : Bool
  deriving DecidableEq, Repr

/-- Element width by format code (R96); the codes that `vcfg.FMT` cannot hold answer 8. -/
def fmtWidth (c : Nat) : Nat :=
  if c = 2 ∨ c = 3 ∨ c = 10 ∨ c = 11 then 16 else if c = 4 ∨ c = 5 ∨ c = 12 then 32 else 8

/-- VLMAX by format code (R96). -/
def vlmaxOf (c : Nat) : Nat := 32768 / fmtWidth c

/-- The codes that `vcfg.FMT` may hold (R46). -/
def fmtLegal (c : Nat) : Bool := decide (c ≤ 5 ∨ (8 ≤ c ∧ c ≤ 12) ∨ (16 ≤ c ∧ c ≤ 18))

/-- The floating-point formats by code (R141). -/
def fpFmt (c : Nat) : Option FpFmt :=
  if c = 8 then some ⟨8, 4, 3, true⟩ else if c = 9 then some ⟨8, 5, 2, false⟩
  else if c = 10 then some ⟨16, 5, 10, false⟩ else if c = 11 then some ⟨16, 8, 7, false⟩
  else if c = 12 then some ⟨32, 8, 23, false⟩ else none

/-- Codes 0 to 5: the integer formats (R140). -/
def isIntFmt (c : Nat) : Bool := decide (c ≤ 5)

/-- Signed integer formats have even codes (R140). -/
def intSigned (c : Nat) : Bool := c % 2 == 0

/-- The range of an integer format (R140). -/
def intMin (c : Nat) : Int := if intSigned c then -((2 ^ (fmtWidth c - 1) : Nat) : Int) else 0
/-- The range of an integer format (R140). -/
def intMax (c : Nat) : Int :=
  if intSigned c then ((2 ^ (fmtWidth c - 1) : Nat) : Int) - 1 else ((2 ^ fmtWidth c : Nat) : Int) - 1

/-- The element of an integer format as an integer (R140). -/
def intVal (c n : Nat) : Int := if intSigned c then sgn (fmtWidth c) n else ((n % 2 ^ fmtWidth c : Nat) : Int)

namespace FpFmt

/-- The exponent bias (R141). -/
def bias (F : FpFmt) : Int := ((2 ^ (F.eb - 1) : Nat) : Int) - 1

/-- The least exponent of a normal number (R141). -/
def emin (F : FpFmt) : Int := 1 - F.bias

/-- P of R144: fraction bits and the leading one. -/
def prec (F : FpFmt) : Nat := F.fb + 1

/-- The pattern of +∞; meaningless for FP8E4. -/
def infPat (F : FpFmt) : Nat := (2 ^ F.eb - 1) * 2 ^ F.fb

/-- The largest finite pattern (R141). -/
def maxPat (F : FpFmt) : Nat := if F.fn then 2 ^ (F.eb + F.fb) - 2 else (2 ^ F.eb - 1) * 2 ^ F.fb - 1

/-- The canonical NaN (R141). -/
def nanPat (F : FpFmt) : Nat :=
  if F.fn then 2 ^ (F.eb + F.fb) - 1
  else if F.w = 8 then 0x7E else (2 ^ F.eb - 1) * 2 ^ F.fb + 2 ^ (F.fb - 1)

/-- The sign bit in its place. -/
def signPat (F : FpFmt) (s : Bool) : Nat := if s then 2 ^ (F.w - 1) else 0

end FpFmt

/-- What an element of a floating-point format means (R141, R142), and what an operation forms before it rounds.
A finite value is `(-1)^s · m · 2^e`; with `st` its magnitude lies just above that, by less than any rounding
could tell (R159). -/
inductive FVal where
  | nan (signalling : Bool)
  | inf (s : Bool)
  | zero (s : Bool)
  | fin (s : Bool) (m : Nat) (e : Int) (st : Bool)
  deriving DecidableEq, Repr

/-- The flag NV (R48). -/
def flagNV : Flags := 1
/-- The flag DZ (R48). -/
def flagDZ : Flags := 2
/-- The flag OF (R48). -/
def flagOF : Flags := 4
/-- The flag UF (R48). -/
def flagUF : Flags := 8
/-- The flag NX (R48). -/
def flagNX : Flags := 16

/-- A flag when a condition holds. -/
def flagIf (c : Bool) (f : Flags) : Flags := if c then f else 0

/-- The value of a pattern (R141, R142). Every FP8 NaN is quiet. -/
def fpDecode (F : FpFmt) (n : Nat) : FVal :=
  let s := bits n (F.w - 1) 1 == 1
  let e := bits n F.fb F.eb
  let f := bits n 0 F.fb
  if F.fn then
    if bits n 0 (F.w - 1) = F.nanPat then .nan false
    else if e = 0 then (if f = 0 then .zero s else .fin s f (F.emin - F.fb) false)
    else .fin s (2 ^ F.fb + f) ((e : Int) - F.bias - F.fb) false
  else if e = 2 ^ F.eb - 1 then
    if f = 0 then .inf s else .nan (decide (F.w ≠ 8) && decide (f < 2 ^ (F.fb - 1)))
  else if e = 0 then (if f = 0 then .zero s else .fin s f (F.emin - F.fb) false)
  else .fin s (2 ^ F.fb + f) ((e : Int) - F.bias - F.fb) false

/-- An integer as an exact value; 0 is +0. -/
def FVal.ofInt (z : Int) : FVal := if z = 0 then .zero false else .fin (decide (z < 0)) z.natAbs 0 false

/-- ⌊log2⌋ of the magnitude of a finite value. -/
def floorLog (m : Nat) (e : Int) : Int := e + (bitLen m : Int) - 1

/-- The magnitude `m · 2^e` (just above it when `st`) as a multiple of `2^q` under a mode, with whether it was
inexact. RNE goes to the even multiple on a tie, RMM away from zero (R144). -/
def roundMul (md : RMode) (s : Bool) (m : Nat) (e : Int) (st : Bool) (q : Int) : Nat × Bool :=
  if q ≤ e then
    let t := m * 2 ^ (e - q).toNat
    let up := match md with
      | .rdn => s && st
      | .rup => !s && st
      | _ => false
    (if up then t + 1 else t, st)
  else
    let sh := (q - e).toNat
    let t := m / 2 ^ sh
    let r := m % 2 ^ sh
    let half := 2 ^ (sh - 1)
    let inexact := decide (r ≠ 0) || st
    let above := decide (r > half) || (decide (r = half) && st)
    let tie := decide (r = half) && !st
    let up := match md with
      | .rne => above || (tie && t % 2 == 1)
      | .rtz => false
      | .rdn => s && inexact
      | .rup => !s && inexact
      | .rmm => above || tie
    (if up then t + 1 else t, inexact)

/-- The pattern of the magnitude `t · 2^q`, where `t < 2^P` or `q` is above the subnormal exponent, and `t ≤ 2^P`. -/
def fpEncode (F : FpFmt) (s : Bool) (t : Nat) (q : Int) : Nat :=
  let (t, q) := if t = 2 ^ F.prec then (2 ^ F.fb, q + 1) else (t, q)
  if t < 2 ^ F.fb then F.signPat s + t
  else F.signPat s + (q + F.fb + F.bias).toNat * 2 ^ F.fb + (t - 2 ^ F.fb)

/-- An overflow of R144 (R145): the pattern. -/
def overflowPat (F : FpFmt) (md : RMode) (s sat : Bool) : Nat :=
  let toInf := match md with
    | .rne => true
    | .rmm => true
    | .rtz => false
    | .rdn => s
    | .rup => !s
  if sat || !toInf then F.signPat s + F.maxPat
  else if F.fn then F.nanPat else F.signPat s + F.infPat

/-- Whether `t · 2^q` exceeds the largest finite value. -/
def aboveMax (F : FpFmt) (t : Nat) (q : Int) : Bool :=
  match fpDecode F F.maxPat with
  | .fin _ mm me _ =>
    if q ≤ me then decide (t > mm * 2 ^ (me - q).toNat) else decide (t * 2 ^ (q - me).toNat > mm)
  | _ => false

/-- `round` of R144, for a finite non-zero value. -/
def roundFin (F : FpFmt) (md : RMode) (sat : Bool) (s : Bool) (m : Nat) (e : Int) (st : Bool) : Nat × Flags :=
  let fl := floorLog m e
  let tiny :=
    if F.emin ≤ fl then false
    else
      let (tu, _) := roundMul md s m e st (fl - F.prec + 1)
      !(decide (tu = 2 ^ F.prec) && decide (fl + 1 = F.emin))
  let q := max fl F.emin - F.prec + 1
  let (t, inx) := roundMul md s m e st q
  let fx := flagIf inx flagNX ||| flagIf (tiny && inx) flagUF
  if aboveMax F t q then (overflowPat F md s sat, fx ||| flagOF ||| flagNX)
  else (fpEncode F s t q, fx)

/-- `round(x, F, m, sat)` of R144. `sat` counts only for the FP8 formats; NaN raises nothing here, its NV is the
operation's. -/
def fpRound (F : FpFmt) (md : RMode) (sat : Bool) (x : FVal) : Nat × Flags :=
  let sat := sat && decide (F.w = 8)
  match x with
  | .nan _ => (F.nanPat, 0)
  | .inf s =>
    if !F.fn then (F.signPat s + F.infPat, 0)
    else if sat then (F.signPat s + F.maxPat, 0)
    else (F.nanPat, flagNV)
  | .zero s => (F.signPat s, 0)
  | .fin s m e st => roundFin F md sat s m e st

/-- FP32. -/
def fp32 : FpFmt := ⟨32, 8, 23, false⟩
/-- FP16. -/
def fp16 : FpFmt := ⟨16, 5, 10, false⟩
/-- BF16. -/
def bf16 : FpFmt := ⟨16, 8, 7, false⟩
/-- FP8E4. -/
def fp8e4 : FpFmt := ⟨8, 4, 3, true⟩
/-- FP8E5. -/
def fp8e5 : FpFmt := ⟨8, 5, 2, false⟩

end Sys2Proof.Machine
end

