-- ==== Sys2Proof/Machine/Float.lean ====
section
/-! DEFINITION. Floating-point operations on patterns: exact values formed here, rounded once by R144 (R162 to R171). -/

namespace Sys2Proof.Machine

/-- Whether a value is a NaN. -/
def FVal.isNan : FVal → Bool
  | .nan _ => true
  | _ => false

/-- Whether a value is a signalling NaN. -/
def FVal.isSig : FVal → Bool
  | .nan s => s
  | _ => false

/-- The negation of a value; NaNs stay. -/
def FVal.neg : FVal → FVal
  | .nan q => .nan q
  | .inf s => .inf (!s)
  | .zero s => .zero (!s)
  | .fin s m e st => .fin (!s) m e st

/-- A signed multiple of `2^e` as an exact value, with the sign of an exact zero given. -/
def ofScaled (zs : Bool) (n : Int) (e : Int) : FVal := if n = 0 then .zero zs else .fin (decide (n < 0)) n.natAbs e false

/-- The signed integer `± m · 2^(e - lo)`. -/
def scaled (s : Bool) (m : Nat) (e lo : Int) : Int :=
  let v : Int := ((m * 2 ^ (e - lo).toNat : Nat) : Int)
  if s then -v else v

/-- The exact sum of two values that are not NaN (R163): ∞ − ∞ is NaN with NV, an exactly zero sum of operands of
opposite sign is +0, or −0 under RDN. -/
def fsumExact (md : RMode) (x y : FVal) : FVal × Flags :=
  match x, y with
  | .nan _, _ => (.nan false, 0)
  | _, .nan _ => (.nan false, 0)
  | .inf a, .inf b => if a = b then (.inf a, 0) else (.nan false, flagNV)
  | .inf a, _ => (.inf a, 0)
  | _, .inf b => (.inf b, 0)
  | .zero a, .zero b => (.zero (if a = b then a else decide (md = .rdn)), 0)
  | .zero _, y => (y, 0)
  | x, .zero _ => (x, 0)
  | .fin s1 m1 e1 _, .fin s2 m2 e2 _ =>
    let lo := min e1 e2
    (ofScaled (decide (md = .rdn)) (scaled s1 m1 e1 lo + scaled s2 m2 e2 lo) lo, 0)

/-- The exact product of two values (R163): 0 × ∞ is NaN with NV. -/
def fmulExact (x y : FVal) : FVal × Flags :=
  match x, y with
  | .nan _, _ => (.nan false, 0)
  | _, .nan _ => (.nan false, 0)
  | .inf a, .inf b => (.inf (a != b), 0)
  | .inf _, .zero _ => (.nan false, flagNV)
  | .zero _, .inf _ => (.nan false, flagNV)
  | .inf a, .fin b _ _ _ => (.inf (a != b), 0)
  | .fin a _ _ _, .inf b => (.inf (a != b), 0)
  | .zero a, .zero b => (.zero (a != b), 0)
  | .zero a, .fin b _ _ _ => (.zero (a != b), 0)
  | .fin a _ _ _, .zero b => (.zero (a != b), 0)
  | .fin s1 m1 e1 _, .fin s2 m2 e2 _ => (.fin (s1 != s2) (m1 * m2) (e1 + e2) false, 0)

/-- The exact quotient (R163), finite quotients to 64 bits and a sticky tail, more than any rounding reads. -/
def fdivExact (x y : FVal) : FVal × Flags :=
  match x, y with
  | .nan _, _ => (.nan false, 0)
  | _, .nan _ => (.nan false, 0)
  | .inf _, .inf _ => (.nan false, flagNV)
  | .zero _, .zero _ => (.nan false, flagNV)
  | .inf a, .zero b => (.inf (a != b), 0)
  | .inf a, .fin b _ _ _ => (.inf (a != b), 0)
  | .zero a, .inf b => (.zero (a != b), 0)
  | .fin a _ _ _, .inf b => (.zero (a != b), 0)
  | .zero a, .fin b _ _ _ => (.zero (a != b), 0)
  | .fin a _ _ _, .zero b => (.inf (a != b), flagDZ)
  | .fin s1 m1 e1 _, .fin s2 m2 e2 _ =>
    let k := 64 + bitLen m2
    let n := m1 * 2 ^ k
    (.fin (s1 != s2) (n / m2) (e1 - e2 - (k : Int)) (decide (n % m2 ≠ 0)), 0)

/-- NV when any of the given values is a signalling NaN (R146). -/
def sigFlag (xs : List FVal) : Flags := flagIf (xs.any FVal.isSig) flagNV

/-- The rounded two-operand operations of the FVV group (R162). -/
inductive FOp2 where
  | fadd | fsub | fmul | fdiv
  deriving DecidableEq, Repr

/-- B op A for the rounded two-operand operations (R162, R163). -/
def fop2 (F : FpFmt) (md : RMode) (sat : Bool) (op : FOp2) (b a : Nat) : Nat × Flags :=
  let B := fpDecode F b
  let A := fpDecode F a
  let (x, fl) := match op with
    | .fadd => fsumExact md B A
    | .fsub => fsumExact md B A.neg
    | .fmul => fmulExact B A
    | .fdiv => fdivExact B A
  let (r, fr) := fpRound F md sat x
  (r, sigFlag [A, B] ||| fl ||| fr)

/-- The fused operations (R162): ±(A × B) ± D, product and sum exact, rounded once. -/
def fma (F : FpFmt) (md : RMode) (sat : Bool) (negP negD : Bool) (b a d : Nat) : Nat × Flags :=
  let B := fpDecode F b
  let A := fpDecode F a
  let D := fpDecode F d
  let (p, fp) := fmulExact A B
  let p := if negP then p.neg else p
  let D' := if negD then D.neg else D
  let (x, fs) := fsumExact md p D'
  let (r, fr) := fpRound F md sat x
  (r, sigFlag [A, B, D] ||| fp ||| fs ||| fr)

/-- The three-way comparison of two values that are not NaN; −0 below +0 (R117, R163). -/
def totalCmp (x y : FVal) : Ordering :=
  let key : FVal → Int × Int := fun v =>
    match v with
    | .zero s => (0, if s then 0 else 1)
    | .inf s => (if s then -2 else 2, 0)
    | .fin s _ _ _ => (if s then -1 else 1, 0)
    | .nan _ => (3, 0)
  let (a, a') := key x
  let (b, b') := key y
  if a < b then .lt else if b < a then .gt
  else match x, y with
    | .fin s1 m1 e1 _, .fin s2 m2 e2 _ =>
      let lo := min e1 e2
      compare (scaled s1 m1 e1 lo) (scaled s2 m2 e2 lo)
    | _, _ => compare a' b'

/-- The comparison by value: −0 equals +0 (R110). -/
def valueCmp (x y : FVal) : Ordering :=
  match x, y with
  | .zero _, .zero _ => .eq
  | _, _ => totalCmp x y

/-- `va.fmin` and `va.fmax` (R163): the other operand when exactly one is a NaN, the canonical NaN for two. -/
def fminmax (F : FpFmt) (isMax : Bool) (b a : Nat) : Nat × Flags :=
  let B := fpDecode F b
  let A := fpDecode F a
  let r :=
    if B.isNan && A.isNan then F.nanPat
    else if B.isNan then a % 2 ^ F.w
    else if A.isNan then b % 2 ^ F.w
    else
      let bLess := totalCmp B A == .lt
      if bLess != isMax then b % 2 ^ F.w else a % 2 ^ F.w
  (r, sigFlag [A, B])

/-- Sign injection: B with the sign bit given (R162). -/
def withSign (F : FpFmt) (b : Nat) (s : Bool) : Nat := bits b 0 (F.w - 1) + F.signPat s

/-- The sign bit of a pattern. -/
def signBit (F : FpFmt) (n : Nat) : Bool := bits n (F.w - 1) 1 == 1

/-- The floating-point compares (R110). -/
inductive FCmp where
  | feq | flt | fle | fne
  deriving DecidableEq, Repr

/-- C(B, A) and its flag (R110). -/
def fcmp (F : FpFmt) (op : FCmp) (b a : Nat) : Bool × Flags :=
  let B := fpDecode F b
  let A := fpDecode F a
  let anyNan := B.isNan || A.isNan
  let eq := !anyNan && valueCmp B A == .eq
  match op with
  | .feq => (eq, sigFlag [A, B])
  | .fne => (!eq, sigFlag [A, B])
  | .flt => (!anyNan && valueCmp B A == .lt, flagIf anyNan flagNV)
  | .fle => (!anyNan && valueCmp B A != .gt, flagIf anyNan flagNV)

/-- √ of a finite positive value, to 64 bits and a sticky tail. -/
def sqrtExact (m : Nat) (e : Int) : FVal :=
  let odd : Nat := (e % 2).toNat
  let n := m * 2 ^ (128 + odd)
  let r := isqrt n
  .fin false r ((e - (odd : Int) - 128) / 2) (decide (r * r ≠ n))

/-- 1/√ of a finite positive value, to 64 bits and a sticky tail. -/
def rsqrtExact (m : Nat) (e : Int) : FVal :=
  let odd : Nat := (e % 2).toNat
  let m' := m * 2 ^ odd
  let k := 64 + bitLen m'
  let r := isqrt (2 ^ (2 * k) / m')
  .fin false r (-((e - (odd : Int)) / 2) - (k : Int)) (decide (r * r * m' ≠ 2 ^ (2 * k)))

/-- Fixed-point bits of the working precision of the logarithm and the exponential. -/
def workBits : Nat := 384

/-- `n` further bits of log2 f, where `f / 2^workBits` lies in [1, 2): repeated squaring, most significant first. -/
def logBits : Nat → Nat → Nat → Nat
  | 0, _, acc => acc
  | n + 1, f, acc =>
    let g := f * f / 2 ^ workBits
    if g < 2 ^ (workBits + 1) then logBits n g (2 * acc) else logBits n (g / 2) (2 * acc + 1)

/-- log2 of a finite positive value (R164): exact for a power of two, else 160 fraction bits and a sticky tail. -/
def log2Exact (m : Nat) (e : Int) : FVal :=
  let l := bitLen m - 1
  let k : Int := e + (l : Int)
  if m = 2 ^ l then FVal.ofInt k
  else
    let f := m * 2 ^ (workBits - l)
    let t : Int := k * ((2 ^ 160 : Nat) : Int) + (logBits 160 f 0 : Int)
    if 0 ≤ t then .fin false t.toNat (-160) true else .fin true ((-t).toNat - 1) (-160) true

/-- 2^(0.b1b2…bn) from the bits of `f` below `2^n`, least significant first, by nested square roots. -/
def expFrac (f : Nat) : Nat → Nat → Nat
  | 0, r => r
  | n + 1, r =>
    let bit := bits f (160 - (n + 1)) 1
    expFrac f n (isqrt (r * 2 ^ (workBits + bit)))

/-- 2^X of a finite non-zero value (R164): exact when X is an integer; beyond every format's range any large
exponent rounds alike. -/
def exp2Exact (s : Bool) (m : Nat) (e : Int) : FVal :=
  if 12 ≤ floorLog m e then .fin false 1 (if s then -4096 else 4096) false
  else
    let n : Int := scaled s m e (-160)
    let i := n / ((2 ^ 160 : Nat) : Int)
    let f := (n % ((2 ^ 160 : Nat) : Int)).toNat
    if f = 0 then .fin false 1 i false
    else .fin false (expFrac f 160 (2 ^ workBits)) (i - (workBits : Int)) true

/-- The value rounded to 12 significant bits under RNE with an unbounded exponent (R165). -/
def round12 : FVal → FVal
  | .fin s m e st =>
    let q := floorLog m e - 11
    .fin s (roundMul .rne s m e st q).1 q false
  | x => x

/-- The unary operations of R164 but `va.fclass`. -/
inductive FUn where
  | fsqrt | frsqrte | frece | flog2 | fexp2
  deriving DecidableEq, Repr

/-- The unary operations (R164, R165). -/
def funary (F : FpFmt) (md : RMode) (sat : Bool) (op : FUn) (x : Nat) : Nat × Flags :=
  let X := fpDecode F x
  if X.isNan then (F.nanPat, sigFlag [X])
  else
    let (v, fl, mode) : FVal × Flags × RMode := match op, X with
      | .fsqrt, .zero s => (.zero s, 0, md)
      | .fsqrt, .inf s => if s then (.nan false, flagNV, md) else (.inf false, 0, md)
      | .fsqrt, .fin s m e _ => if s then (.nan false, flagNV, md) else (sqrtExact m e, 0, md)
      | .frsqrte, .zero s => (.inf s, flagDZ, .rne)
      | .frsqrte, .inf s => if s then (.nan false, flagNV, .rne) else (.zero false, 0, .rne)
      | .frsqrte, .fin s m e _ => if s then (.nan false, flagNV, .rne) else (round12 (rsqrtExact m e), 0, .rne)
      | .frece, .zero s => (.inf s, flagDZ, .rne)
      | .frece, .inf s => (.zero s, 0, .rne)
      | .frece, .fin s m e st => (round12 (fdivExact (.fin false 1 0 false) (.fin s m e st)).1, 0, .rne)
      | .flog2, .zero _ => (.inf true, flagDZ, .rne)
      | .flog2, .inf s => if s then (.nan false, flagNV, .rne) else (.inf false, 0, .rne)
      | .flog2, .fin s m e _ => if s then (.nan false, flagNV, .rne) else (log2Exact m e, 0, .rne)
      | .fexp2, .zero _ => (.fin false 1 0 false, 0, .rne)
      | .fexp2, .inf s => (if s then .zero false else .inf false, 0, .rne)
      | .fexp2, .fin s m e _ => (exp2Exact s m e, 0, .rne)
      | _, .nan s => (.nan s, 0, md)
    let (r, fr) := fpRound F mode sat v
    (r, fl ||| fr)

/-- `va.fclass` (R166). -/
def fclass (F : FpFmt) (x : Nat) : Nat :=
  match fpDecode F x with
  | .inf s => if s then 0 else 7
  | .fin s m e _ =>
    let subn := decide (floorLog m e < F.emin)
    if s then (if subn then 2 else 1) else (if subn then 5 else 6)
  | .zero s => if s then 3 else 4
  | .nan sg => if sg then 8 else 9

/-- A finite value rounded to an integer under a mode, with whether it was inexact (R168). -/
def roundInt (md : RMode) (s : Bool) (m : Nat) (e : Int) (st : Bool) : Int × Bool :=
  let (t, inx) := roundMul md s m e st 0
  (if s then -(t : Int) else (t : Int), inx)

/-- An integer saturated to the range of an integer format. -/
def satInt (c : Nat) (z : Int) : Int := max (intMin c) (min (intMax c) z)

/-- `va.fcvt` and the page conversions: the element of format code `S` converted to code `T` (R168). -/
def convert (S T : Nat) (md : RMode) (sat : Bool) (n : Nat) : Nat × Flags :=
  match fpFmt S, fpFmt T with
  | none, none => (ofInt (fmtWidth T) (satInt T (intVal S n)), 0)
  | none, some F => fpRound F md sat (FVal.ofInt (intVal S n))
  | some F, some G =>
    let x := fpDecode F n
    let (r, fl) := fpRound G md sat x
    (r, sigFlag [x] ||| fl)
  | some F, none =>
    match fpDecode F n with
    | .nan _ => (ofInt (fmtWidth T) (intMax T), flagNV)
    | .inf s => (ofInt (fmtWidth T) (if s then intMin T else intMax T), flagNV)
    | .zero _ => (0, 0)
    | .fin s m e st =>
      let (z, inx) := roundInt md s m e st
      if satInt T z = z then (ofInt (fmtWidth T) z, flagIf inx flagNX)
      else (ofInt (fmtWidth T) (satInt T z), flagNV)

/-- ⊕ of R157: addition of two patterns rounded in the format, with its flags. -/
def fplus (F : FpFmt) (md : RMode) (sat : Bool) (x y : Nat) : Nat × Flags := fop2 F md sat .fadd x y

/-- ⊕ with EMPTY as `none` (R157). -/
def optPlus (F : FpFmt) (md : RMode) (sat : Bool) : Option Nat → Option Nat → Option Nat × Flags
  | none, y => (y, 0)
  | x, none => (x, 0)
  | some x, some y => let (r, f) := fplus F md sat x y; (some r, f)

/-- One level of the tree of R157: neighbours added in pairs. -/
def pairLevel (F : FpFmt) (md : RMode) (sat : Bool) : List (Option Nat) → List (Option Nat) × Flags
  | x :: y :: r =>
    let (z, f) := optPlus F md sat x y
    let (zs, fs) := pairLevel F md sat r
    (z :: zs, f ||| fs)
  | xs => (xs, 0)

/-- `l` levels of the tree. -/
def treeLevels (F : FpFmt) (md : RMode) (sat : Bool) : Nat → List (Option Nat) → List (Option Nat) × Flags
  | 0, xs => (xs, 0)
  | l + 1, xs =>
    let (ys, f) := pairLevel F md sat xs
    let (zs, g) := treeLevels F md sat l ys
    (zs, f ||| g)

/-- The block sums of the first `n` blocks added in ascending order (R157). -/
def blockSums (F : FpFmt) (md : RMode) (sat : Bool) (el : Nat → Option Nat) : Nat → Option Nat × Flags
  | 0 => (none, 0)
  | b + 1 =>
    let (acc, f) := blockSums F md sat el b
    let (lv, g) := treeLevels F md sat 5 ((List.range 32).map fun j => el (32 * b + j))
    let (r, h) := optPlus F md sat acc (lv.headD none)
    (r, f ||| g ||| h)

/-- One step of an arbitrary tree (R158): the two sub-sums that a free number picks are replaced by their sum. -/
def freeMerge (F : FpFmt) (md : RMode) (sat : Bool) (pick : Nat) (xs : List Nat) : List Nat × Flags :=
  let i := pick % xs.length
  let x := xs.getD i 0
  let rest := xs.eraseIdx i
  let j := pick / xs.length % rest.length
  let y := rest.getD j 0
  let (z, f) := fplus F md sat x y
  (z :: rest.eraseIdx j, f)

/-- The sum over an arbitrary binary tree, each node chosen by a free number (R158). -/
def freeTree (F : FpFmt) (md : RMode) (sat : Bool) (pick : Nat → Nat) : Nat → List Nat → Option Nat × Flags
  | 0, xs => (xs.head?, 0)
  | n + 1, xs =>
    if xs.length ≤ 1 then (xs.head?, 0)
    else
      let (ys, f) := freeMerge F md sat (pick n) xs
      let (r, g) := freeTree F md sat pick n ys
      (r, f ||| g)

end Sys2Proof.Machine
end

