-- ==== Sys2Proof/Machine/Types.lean ====
section
/-! DEFINITION. The plain data of one strand's vector side: registers with descriptors, and the fields of
`vcfg`, `vkey` and `vstat` (R41 to R49). -/

namespace Sys2Proof.Machine

/-- KIND of a descriptor; the code 3 never occurs (R42). -/
inductive Kind where
  | dense | run | sparse
  deriving DecidableEq, Repr

/-- One vector register with its descriptor (R41, R42). -/
structure VReg where
  /-- KIND [1:0] -/
  kind : Kind
  /-- FE [2]: FULL -/
  fe : Bool
  /-- LEN [15:4], in 32-bit words -/
  len : BitVec 12
  /-- VPI [26:16] -/
  vpi : BitVec 11
  /-- KEY [37:32] -/
  key : BitVec 6
  /-- the 4 KiB of contents -/
  bits : VBits
  deriving DecidableEq, Repr

/-- The register at reset and after a pre-emption: all zero, DENSE, EMPTY (R32, R42). -/
def VReg.zero : VReg := ⟨.dense, false, 0, 0, 0, 0⟩

/-- KIND as the descriptor codes it (R42). -/
def kindCode : Kind → Nat
  | .dense => 0
  | .run => 1
  | .sparse => 2

/-- The 64-bit descriptor word (R42). -/
def descWord (r : VReg) : Word :=
  word (kindCode r.kind + (if r.fe then 4 else 0) + r.len.toNat * 2 ^ 4 + r.vpi.toNat * 2 ^ 16
    + r.key.toNat * 2 ^ 32)

/-- A DENSE result of `n` words: KIND DENSE, KEY 0, LEN and VPI the words given (R24, R43). -/
def denseWords (n : Nat) (b : VBits) : VReg := ⟨.dense, false, BitVec.ofNat 12 n, BitVec.ofNat 11 n, 0, b⟩

/-- A DENSE result of `vl` elements of width `w` (R24, R43). -/
def denseReg (w vl : Nat) (b : VBits) : VReg := denseWords (ceilDiv (vl * w) 32) b

/-- The twelve assigned bits of `vcfg` (R46). -/
abbrev Cfg := BitVec 12

/-- FMT of `vcfg` (R46). -/
def cfgFmt (c : Cfg) : Nat := bits c.toNat 0 5
/-- The grouping factor that G codes (R46). -/
def cfgG (c : Cfg) : Nat := 2 ^ bits c.toNat 5 2
/-- RM of `vcfg` (R46). -/
def cfgRM (c : Cfg) : RMode :=
  match bits c.toNat 7 3 with
  | 1 => .rtz
  | 2 => .rdn
  | 3 => .rup
  | 4 => .rmm
  | _ => .rne
/-- LAM of `vcfg` (R46). -/
def cfgLam (c : Cfg) : Bool := bits c.toNat 10 1 == 1
/-- SAT of `vcfg` (R46). -/
def cfgSat (c : Cfg) : Bool := bits c.toNat 11 1 == 1
/-- Element width of `vcfg` (R96). -/
def cfgW (c : Cfg) : Nat := fmtWidth (cfgFmt c)
/-- VLMAX of `vcfg` (R96). -/
def cfgVlmax (c : Cfg) : Nat := vlmaxOf (cfgFmt c)

/-- Whether `va.setcfg` accepts a value (R46, R100). -/
def cfgLegal (x : Word) : Bool :=
  fmtLegal (bits x.toNat 0 5) && decide (bits x.toNat 7 3 ≤ 4) && decide (x.toNat < 2 ^ 12)

/-- The six assigned bits of `vkey` (R47). -/
abbrev Key := BitVec 6

/-- KFMT (R47). -/
def keyFmt (k : Key) : Nat := bits k.toNat 0 3
/-- KOFF (R47). -/
def keyOff (k : Key) : Nat := bits k.toNat 3 1
/-- KW = 1: a 32-bit key (R47). -/
def keyWide (k : Key) : Bool := bits k.toNat 4 1 == 1
/-- DIR = 1: descending (R47). -/
def keyDesc (k : Key) : Bool := bits k.toNat 5 1 == 1

/-- Whether `va.setkey` accepts a value (R47, R101). -/
def keyLegal (x : Word) : Bool :=
  let f := bits x.toNat 0 3
  let wide := bits x.toNat 4 1 == 1
  decide (x.toNat < 64) && decide (f ≠ 7) && (if wide then decide (4 ≤ f) && decide (bits x.toNat 3 1 = 0) else decide (f ≤ 3))

end Sys2Proof.Machine
end

