-- ==== Sys2Proof/Machine/Elementwise.lean ====
section
/-! DEFINITION. Element-wise results: integer operations, masks, generators, conversions, reductions and
permutations, as functions of the operands alone (R96 to R114, R161 to R174). -/

namespace Sys2Proof.Machine

/-- The mask km as a predicate on indices: k0 makes every element active (R37, R97). -/
def maskOf (km : KReg) (k : KReg → KBits) (i : Nat) : Bool := decide (km = 0) || (k km).getLsbD i

/-- Destination contents: active elements computed, inactive ones kept, zeros at and above VL (R97.2, R23). -/
def mergeElems (w vl : Nat) (act : Nat → Bool) (old : VBits) (f : Nat → Nat) : VBits :=
  packV w (fun i => if act i then f i else elem w old i) vl

/-- The flags of the active elements below VL (R97, R146). -/
def activeFlags (vl : Nat) (act : Nat → Bool) (f : Nat → Flags) : Flags :=
  flagsTo (fun i => if act i then f i else 0) vl

/-- The integer operations of R108 but merge. -/
inductive IOp where
  | add | sub | mul | mulh | min | max | minu | maxu | and | or | xor | sll | srl | sra | mulhu
  deriving DecidableEq, Repr

/-- OP(B, A) at width w (R108). -/
def iop (w : Nat) (op : IOp) (b a : Nat) : Nat :=
  let b := b % 2 ^ w
  let a := a % 2 ^ w
  match op with
  | .add => (b + a) % 2 ^ w
  | .sub => (b + 2 ^ w - a) % 2 ^ w
  | .mul => b * a % 2 ^ w
  | .mulh => ofInt w (sgn w b * sgn w a / ((2 ^ w : Nat) : Int))
  | .min => if sgn w b ≤ sgn w a then b else a
  | .max => if sgn w a ≤ sgn w b then b else a
  | .minu => Nat.min b a
  | .maxu => Nat.max b a
  | .and => b &&& a
  | .or => b ||| a
  | .xor => b ^^^ a
  | .sll => b * 2 ^ (a % w) % 2 ^ w
  | .srl => b / 2 ^ (a % w)
  | .sra => ofInt w (sgn w b / ((2 ^ (a % w) : Nat) : Int))
  | .mulhu => b * a / 2 ^ w

/-- The integer compares of R110. -/
inductive ICmp where
  | seq | sne | slt | sltu | sle | sleu
  deriving DecidableEq, Repr

/-- C(B, A) at width w (R110). -/
def icmp (w : Nat) (op : ICmp) (b a : Nat) : Bool :=
  let b := b % 2 ^ w
  let a := a % 2 ^ w
  match op with
  | .seq => b == a
  | .sne => b != a
  | .slt => decide (sgn w b < sgn w a)
  | .sltu => decide (b < a)
  | .sle => decide (sgn w b ≤ sgn w a)
  | .sleu => decide (b ≤ a)

/-- The mask-logic operations of R111. -/
inductive KOp where
  | kand | kor | kxor | kandn | knot
  deriving DecidableEq, Repr

/-- One bit of mask logic (R111). -/
def kop : KOp → Bool → Bool → Bool
  | .kand, a, b => a && b
  | .kor, a, b => a || b
  | .kxor, a, b => a != b
  | .kandn, a, b => b && !a
  | .knot, _, b => !b

/-- simm5 or the unsigned shift amount as the scalar operand of IVI (R37, R108). -/
def immOperand (w : Nat) (op : IOp) (imm : Reg) : Nat :=
  match op with
  | .sll => imm.toNat
  | .srl => imm.toNat
  | .sra => imm.toNat
  | _ => ofInt w imm.toInt

/-- One round of `va.rng` (R172). -/
def rngRound (z m : Nat) : Nat := (z ^^^ (z / 2 ^ 31)) * m % 2 ^ 64

/-- `va.rng` element i under key K at width w (R172). -/
def rngElem (w K i : Nat) : Nat :=
  let z := (K + (i + 1) * 0x8F3A6C15B2D4E971) % 2 ^ 64
  let z := rngRound z 0xA7C395E13D6B2F4D
  let z := rngRound z 0xE54B1A29D87F63C1
  let z := rngRound z 0x9D2FC4B76A1358E5
  let z := rngRound z 0xB16E08D3F47AC92B
  let z := z ^^^ (z / 2 ^ 29)
  z / 2 ^ (64 - w)

/-- The active elements of a source below VL, in index order, each with its index (R169). -/
def activeList (w vl : Nat) (act : Nat → Bool) (b : VBits) : List (Nat × Nat) :=
  ((List.range vl).filter act).map fun i => (i, elem w b i)

/-- The integer reductions without an index (R169). -/
inductive IRed where
  | redsum | redmax | redmin | redand | redor | redxor
  deriving DecidableEq, Repr

/-- The value for no active element (R169). -/
def iredEmpty (w : Nat) : IRed → Nat
  | .redsum => 0
  | .redmax => ofInt w (-((2 ^ (w - 1) : Nat) : Int))
  | .redmin => 2 ^ (w - 1) - 1
  | .redand => 2 ^ w - 1
  | .redor => 0
  | .redxor => 0

/-- The operation a reduction folds with. -/
def iredOp : IRed → IOp
  | .redsum => .add
  | .redmax => .max
  | .redmin => .min
  | .redand => .and
  | .redor => .or
  | .redxor => .xor

/-- An integer reduction (R169). -/
def ired (w : Nat) (r : IRed) (xs : List Nat) : Nat := xs.foldl (fun a x => iop w (iredOp r) a x) (iredEmpty w r)

/-- The largest element and its lowest index (R170), by a strict order `gt`. -/
def argBest (gt : Nat → Nat → Bool) : List (Nat × Nat) → Option (Nat × Nat)
  | [] => none
  | p :: r =>
    match argBest gt r with
    | none => some p
    | some q => if gt q.2 p.2 then some q else some p

/-- The contents a reduction writes: element 0, and the index in word 1 where there is one and VL·w ≥ 64 (R169, R170). -/
def redResult (w vl : Nat) (val : Nat) (idx : Option Nat) : VBits :=
  if vl = 0 then 0
  else
    let hi := match idx with
      | some i => if 64 ≤ vl * w then i % 2 ^ 32 * 2 ^ 32 else 0
      | none => 0
    BitVec.ofNat 32768 (val % 2 ^ w + hi)

/-- `va.fredmax` and `va.fredmin`: NaNs ignored, the chosen pattern unchanged (R169). -/
def fredBest (F : FpFmt) (isMax : Bool) (xs : List Nat) : Nat :=
  let ys := xs.filter fun x => !(fpDecode F x).isNan
  match argBest (fun q p => if isMax then totalCmp (fpDecode F q) (fpDecode F p) == .gt
      else totalCmp (fpDecode F q) (fpDecode F p) == .lt) (ys.map fun y => (0, y)) with
  | some p => p.2
  | none => F.nanPat

/-- The source element i of a permutation: zero at and above VL (R173). -/
def permSrc (w vl : Nat) (b : VBits) (i : Nat) : Nat := if i < vl then elem w b i else 0

/-- The indices below VL whose mask bit is 1, ascending (R174). -/
def setBits (vl : Nat) (k : Nat → Bool) : List Nat := (List.range vl).filter k

/-- The source index of element i of `vp.rotg` (R174). -/
def rotgFrom (w vl r i : Nat) : Nat :=
  let n := 1024 / w
  let eg := ceilDiv (vl * w) 1024
  (i / n + eg - r % eg) % eg * n + i % n

/-- `vp.rotg` (R174): element i of the result. -/
def rotgElem (w vl r : Nat) (b : VBits) (i : Nat) : Nat := permSrc w vl b (rotgFrom w vl r i)

end Sys2Proof.Machine
end

