-- ==== Sys2Proof/Machine/Plait.lean ====
section
/-! DEFINITION. Keys, runs and the SORT group as functions of the operands alone (R116 to R130). -/

namespace Sys2Proof.Machine

/-- The key bits of a 32-bit element (R116). -/
def keyBits (vk : Key) (e : Nat) : Nat :=
  if keyWide vk then e % 2 ^ 32 else bits e (16 * keyOff vk) 16

/-- The floating-point format of a key, where KFMT names one (R47). -/
def keyFp (vk : Key) : Option FpFmt :=
  if keyFmt vk = 2 then some fp16 else if keyFmt vk = 3 then some bf16 else if keyFmt vk = 6 then some fp32 else none

/-- A key of an integer format as an integer (R47, R117). -/
def keyInt (vk : Key) (k : Nat) : Int :=
  let w := if keyWide vk then 32 else 16
  if keyFmt vk = 0 ∨ keyFmt vk = 4 then sgn w k else ((k % 2 ^ w : Nat) : Int)

/-- Whether a key is a NaN (R117). -/
def keyNan (vk : Key) (k : Nat) : Bool :=
  match keyFp vk with
  | some F => (fpDecode F k).isNan
  | none => false

/-- `compare` of R117. -/
def keyCmp (vk : Key) (x y : Nat) : Ordering :=
  match keyFp vk with
  | some F => totalCmp (fpDecode F x) (fpDecode F y)
  | none => compare (keyInt vk x) (keyInt vk y)

/-- `before(x, y)` on keys (R117). -/
def keyBefore (vk : Key) (x y : Nat) : Bool :=
  if keyNan vk x || keyNan vk y then !keyNan vk x && keyNan vk y
  else if keyDesc vk then keyCmp vk x y == .gt else keyCmp vk x y == .lt

/-- `before` on the keys of two elements. -/
def before (vk : Key) (x y : Nat) : Bool := keyBefore vk (keyBits vk x) (keyBits vk y)

/-- `equal` on the keys of two elements (R117). -/
def keyEqual (vk : Key) (x y : Nat) : Bool := !before vk x y && !before vk y x

/-- Whether a sequence is sorted (R118): no element precedes the one before it. -/
def sortedUnder (vk : Key) : List Nat → Bool
  | x :: y :: r => !before vk y x && sortedUnder vk (y :: r)
  | _ => true

/-- Insertion before the first element that the new one precedes or equals: the new one stands first in the input. -/
def insertKey (vk : Key) (x : Nat) : List Nat → List Nat
  | [] => [x]
  | y :: r => if before vk y x then y :: insertKey vk x r else x :: y :: r

/-- The stable order of R118, R123. -/
def sortRun (vk : Key) : List Nat → List Nat
  | [] => []
  | x :: r => insertKey vk x (sortRun vk r)

/-- `out` of R125, each element with whether it came from vs1; fuel is the total length. -/
def mergeRuns (vk : Key) : Nat → List Nat → List Nat → List (Nat × Bool)
  | 0, _, _ => []
  | _ + 1, [], ys => ys.map fun y => (y, false)
  | _ + 1, xs, [] => xs.map fun x => (x, true)
  | n + 1, x :: xs, y :: ys =>
    if before vk y x then (y, false) :: mergeRuns vk n (x :: xs) ys
    else (x, true) :: mergeRuns vk n xs (y :: ys)

/-- `vp.isect` and `vp.diff` (R127). -/
def keepRun (vk : Key) (wanted : Bool) (xs ys : List Nat) : List Nat :=
  xs.filter fun x => (ys.any fun y => keyEqual vk y x) == wanted

/-- `vp.uniq` after the element `p` (R128). -/
def uniqAfter (vk : Key) (p : Nat) : List Nat → List Nat
  | [] => []
  | x :: r => if keyEqual vk x p then uniqAfter vk x r else x :: uniqAfter vk x r

/-- `vp.uniq` (R128): an element is compared with the source element before it. -/
def uniqRun (vk : Key) : List Nat → List Nat
  | [] => []
  | x :: r => x :: uniqAfter vk x r

/-- `vp.rank` (R129). -/
def rankOf (vk : Key) (run : List Nat) (x : Nat) : Nat := (run.filter fun y => before vk y x).length

/-- `vp.part` (R129). -/
def partOf (vk : Key) (run : List Nat) (x : Nat) : Nat := (run.filter fun y => !before vk x y).length

/-- `vp.keys` (R130): the key in its place, INT16 keys sign-extended to 32 bits. -/
def keyOut (vk : Key) (e : Nat) : Nat :=
  let k := keyBits vk e
  if keyWide vk then k else if keyFmt vk = 0 then ofInt 32 (sgn 16 k) else k

/-- The extent e(v) of R119. -/
def extent (r : VReg) (vl : Nat) : Nat := Nat.min r.len.toNat vl

/-- The elements of a Plait source, 32 bits wide (R119). -/
def runOf (r : VReg) (vl : Nat) : List Nat := (List.range (extent r vl)).map (elem 32 r.bits)

/-- Whether a source passes the check of R120. -/
def isRun (vk : Key) (r : VReg) : Bool := decide (r.kind ≠ .dense) && decide (r.key = vk)

/-- The contents holding a list of 32-bit elements, zeros above (R121.2). -/
def listV (xs : List Nat) : VBits := packV 32 (fun i => xs.getD i 0) xs.length

/-- A RUN result (R121, R122). -/
def runReg (vk : Key) (vl : Nat) (xs : List Nat) : VReg :=
  ⟨.run, false, BitVec.ofNat 12 xs.length, BitVec.ofNat 11 vl, vk, listV xs⟩

/-- A DENSE result of a SORT-group instruction: LEN the list's, VPI becomes VL (R121, R122). -/
def plaitDense (vl : Nat) (xs : List Nat) : VReg :=
  ⟨.dense, false, BitVec.ofNat 12 xs.length, BitVec.ofNat 11 vl, 0, listV xs⟩

end Sys2Proof.Machine
end

