-- ==== Sys2Proof/Machine/State.lean ====
section
/-! DEFINITION. The state of the package: the strand in focus and the others, memory, the slices, the Slath, the
engines, the dispatcher, the host interface, the Handle, the Wale ports and the Weave; faults, refusals, reset. -/

namespace Sys2Proof.Machine

/-- Privilege modes (R35). -/
inductive Mode where
  | user | supervisor | machine
  deriving DecidableEq, Repr

/-- A clock of four counters, D0's first (R244). -/
structure Clock4 where
  c0 : BitVec 48
  c1 : BitVec 48
  c2 : BitVec 48
  c3 : BitVec 48
  deriving DecidableEq, Repr

/-- The translation an access uses: `datp`, `fmtb`, the mode, SUM and MXR (R285, R334, R386). -/
structure Xlate where
  datp : Word
  fmtb : Word
  mode : Mode
  sum : Bool
  mxr : Bool
  deriving DecidableEq, Repr

/-- A TLB entry (R365); `core` is the core for an L1 TLB and the cluster for an L2 TLB. -/
structure TlbEntry where
  l2 : Bool
  core : Nat
  asid : Nat
  global : Bool
  /-- level of the leaf, and the virtual page at that size -/
  level : Nat
  vpage : Nat
  ppn : Nat
  /-- the PTE's low eight bits -/
  perms : Nat
  fai : Nat
  /-- the Format Table entry's 16 bytes as held with the translation, where they were read, and the table (R148) -/
  fmtEntry : Option (List Byte)
  fmtb : Word
  /-- held by an entry of the vector queue: an invalidation has removed it since (R384) -/
  stale : Bool
  deriving DecidableEq, Repr

/-- One entry of the vector queue, or of a frame (R17, R351, R386): the instruction and what was captured when it was
pushed, how far it has come, and the generation of its pushing (R258). -/
structure QEntry where
  instr : Instr
  /-- the word as fetched, for `stval` -/
  word : InstrWord
  pc : Word
  /-- x[a] as captured -/
  xa : Word
  /-- x[b] as captured -/
  xb : Word
  vl : BitVec 13
  vcfg : Cfg
  vkey : Key
  mode : Mode
  sum : Bool
  mxr : Bool
  /-- the strand's generation at the push (R258) -/
  gen : BitVec 16
  /-- progress index in elements, steps or registers (R24, R28.3, R277) -/
  progress : Nat
  /-- element groups already issued (R339) -/
  issued : BitVec 32
  /-- the arithmetic clocks from which its element groups, or a unit's next step of it, have been issuable (R339) -/
  since : List (Nat × Nat)
  /-- the instruction writes an x register: the scalar stream waits at it until it has completed (R17, R19) -/
  xw : Bool
  /-- it has passed its fault point (R27) -/
  passed : Bool
  /-- the translations under which it has passed it, and is performed (R367) -/
  held : List TlbEntry
  /-- the history buffer (R27): what the destinations mapped to before an entry that completed ahead of an older one -/
  vhist : List (Nat × VReg)
  khist : List (Nat × KBits)
  /-- the x register that it wrote, with what that held before, while no scalar instruction has written it since (R28.4) -/
  xhist : Option (Reg × Word)
  /-- flags of an entry that completed ahead of an older one, ORed into `vstat` when it commits -/
  late : Flags
  /-- the context that granted the first register of a push, for an entry in a frame (R357) -/
  bound : Option Nat
  /-- every element has completed; the entry awaits its commit (R18) -/
  done : Bool
  /-- source registers as a frame holds them, for a reloaded entry (R351, R352); none for a pushed entry -/
  vsrc : List (Nat × VReg)
  ksrc : List (Nat × KBits)
  deriving DecidableEq, Repr

/-- The unfolding unit's descriptor of a strand (R281): the fields of its 64 bytes. -/
structure Unfold where
  xbase : Word
  h : Nat
  w : Nat
  c : Nat
  oh : Nat
  ow : Nat
  kh : Nat
  kw : Nat
  sh : Nat
  sw : Nat
  dh : Nat
  dw : Nat
  ph : Nat
  pw : Nat
  fmt : Nat
  pad : Nat
  rpitch : Nat
  ppitch : Nat
  deriving DecidableEq, Repr

/-- What a slot of the claim list holds (R313). -/
inductive ClaimSlot where
  | free
  | maker (handle : Word)
  | future (handle : Word)
  /-- SLICE, ENTRY, GEN and the value handle -/
  | ref (slice : Nat) (entry : Nat) (gen : BitVec 24) (value : Word)
  deriving DecidableEq, Repr

/-- A pre-emption request (R353): the moment its deadline expires, in arithmetic clocks. -/
structure PreemptReq where
  deadline : Nat
  /-- a pre-emption point has found its queue empty and no push: PREEMPT follows, whatever the deadline -/
  sure : Bool
  deriving DecidableEq, Repr

/-- The trap of a refused scalar store, pending until an instruction boundary (R343.3, R360). -/
structure StoreTrap where
  cause : Nat
  tval : Word
  deriving DecidableEq, Repr

/-- The task on a strand (R329, R331, R337, R348). -/
structure Task where
  /-- task id (R331) -/
  id : BitVec 32
  /-- launch the task belongs to -/
  launch : Nat
  /-- index i within the launch (R329) -/
  index : Nat
  /-- number of tasks T of the launch -/
  total : Nat
  /-- LEVEL bytes of the record (R327) -/
  levels : List Byte
  /-- COMPL of the record; 0: no completion word -/
  compl : BitVec 32
  prio : Nat
  /-- context-table entry: die · 8192 + entry (R394) -/
  ctx : Nat
  /-- dispatch order, for R332's choice of a victim -/
  order : Nat
  deriving DecidableEq, Repr

/-- A frame of cause 25 or 48 that is being written: since when, the trap, and the entries it will hold (R351, R355). -/
structure Framing where
  since : Nat
  cause : Nat
  tval : Word
  epc : Word
  entries : List QEntry
  deriving DecidableEq, Repr

/-- STATE of a context descriptor (R348). -/
inductive CtxState where
  | idle | active | preempted | forced | ended | lost
  deriving DecidableEq, Repr

/-- Bytes of a line that a strand's scalar stores have replaced since its last `vm.fence`, and the line's stamp after them: while that stands
no other write has come to the line, and a copy of the strand may read the bytes as they were (R248). -/
structure Unfenced where
  line : Nat
  stamp : BitVec 32
  old : List (Nat × Byte)
  deriving DecidableEq, Repr

/-- One strand: the architectural registers and everything else the spec keeps for a strand. -/
structure Strand where
  /-- x0 to x31; x0 is read as zero by the one accessor (R41) -/
  x : Vector Word 32
  pc : Word
  v : Vector VReg 32
  /-- k0 to k7; k0 is read as all true by the one accessor (R41) -/
  k : Vector KBits 8
  /-- FE and the pending registers: `some P` is FULL (R42, R264) -/
  pending : Vector (Option VReg) 32
  /-- registers granted to a push that is not yet complete: the register and the pusher (R264, R266) -/
  granted : List (Nat × Nat)
  vl : BitVec 13
  vcfg : Cfg
  vkey : Key
  vstat : Flags
  vmcnt : BitVec 13
  vtrows : BitVec 4
  vrthr : BitVec 48
  ctags : Word
  /-- copy-fault record (R232) -/
  cfault : Word
  /-- the PC of `vcp` while the queue is empty (R20) -/
  vcpPc : Word
  share : BitVec 4
  nextShare : BitVec 4
  weight : BitVec 8
  fmtb : Word
  datp : Word
  sbase : Word
  sdesc : Word
  mode : Mode
  /-- the bits of `mstatus` that the device has: SIE, MIE, SPIE, MPIE, SPP, MPP, MPRV, SUM, MXR, TVM, TW, TSR -/
  mstatus : Word
  medeleg : Word
  mideleg : Word
  mie : Word
  /-- `sip.SSIP` (R344) -/
  ssip : Bool
  mtvec : Word
  mscratch : Word
  mepc : Word
  mcause : Word
  mtval : Word
  mcounteren : BitVec 3
  mcountinhibit : BitVec 3
  menvcfg : Word
  /-- `mcycle`: its value less the arithmetic clocks since reset; while inhibited, its value (R36) -/
  mcycle : Word
  minstret : Word
  stvec : Word
  sscratch : Word
  sepc : Word
  scause : Word
  stval : Word
  scounteren : BitVec 3
  senvcfg : Word
  stimecmp : Word
  /-- LR/SC reservation: the 128-byte line (R36) -/
  reservation : Option Nat
  /-- the strand's link generation (R257) -/
  gen : BitVec 16
  /-- vector queue, oldest first (R17) -/
  queue : List QEntry
  /-- the entry being performed from the queue; none between steps -/
  replay : Option QEntry
  claims : List ClaimSlot
  unfold : Option Unfold
  /-- Q_t of R244; and the clock that scalar acquires have reached, which orders scalar accesses alone (R242) -/
  qclock : Clock4
  sclock : Clock4
  /-- line clocks of the values returned to scalar reads since the last acquire, and to vector reads (R242, R244) -/
  seen : Clock4
  seenV : Clock4
  /-- what its scalar stores have replaced with no `vm.fence` since (R248) -/
  unfenced : List Unfenced
  preempt : Option PreemptReq
  /-- the watchdog (R358): 0 is off; while STATE is ACTIVE the arithmetic clock at which it expires, else the clocks left -/
  watchdog : Nat
  /-- traps of refused scalar stores that are still to be taken, oldest first (R343.3, R360) -/
  storeTraps : List StoreTrap
  /-- a trap to machine mode awaits the firmware (R350) -/
  firmware : Bool
  /-- `wfi` stops the scalar stream (R36) -/
  waiting : Bool
  /-- a failing task waits for its copies: whether the context is LOST, and the ERR code (R359) -/
  failing : Option (Bool × Nat)
  /-- the vector stream takes the next step, where its queue holds an entry (the model's own turn between the two
  streams) -/
  vectorTurn : Bool
  /-- the place in the queue of the entry that the vector stream tries next (the model's own turn among the entries) -/
  place : Nat
  /-- the entry now performed is only tested for its fault point (the model's own) -/
  peek : Bool
  /-- the entry now performed performs only its elements below this one (the model's own) -/
  upto : Option Nat
  /-- the arithmetic clock until which the lanes issue nothing of this strand, so that its pushed instructions wait in the
  queue (R34; the model's own) -/
  heldUntil : Nat
  /-- a frame that waits for owed flits before it is written (R351, R355) -/
  framing : Option Framing
  /-- `sbase` and `sdesc` as the save engine works with them: a write takes effect at the next save or restore (R348) -/
  sbaseNow : Word
  sdescNow : Word
  /-- x, vector and mask registers that hold bad parity (R360): the register, and for a vector or mask register the lowest
  element index as a 32-bit word or a bit -/
  xbad : List Nat
  vbad : List (Nat × Nat)
  kbad : List (Nat × Nat)
  /-- an invalidation has ended the sleep of the `vm.gcsleep` that waits at the head (R259) -/
  wake : Bool
  /-- the context, by its dispatch order, that granted the first register of the push at the head (R357) -/
  bound : Option Nat
  /-- lines locked by this strand's vector atomic (R253) -/
  locks : List Nat
  /-- STATE and PEND of the context descriptor (R348) -/
  ctxState : CtxState
  pend : Bool
  task : Option Task
  deriving DecidableEq, Repr

/-- A reassembly record of a core port (R203, R211), or a multicast one. -/
structure Record where
  gid : Nat
  plane : Nat
  recNo : Nat
  multicast : Bool
  line : Nat
  /-- flits received, as a bit mask -/
  got : BitVec 3
  nf : Nat
  bytes : List Byte
  /-- the Weave clock at which LOSS rose while it was outstanding (R403) -/
  marked : Option Nat
  delivered : Bool
  /-- its strand's context became LOST: flits that arrive are discarded and logged (R355) -/
  dead : Bool
  failed : Bool
  /-- the line clock of the value that its flits bring (R244) -/
  clock : Clock4
  /-- the virtual address of the access that asked, and whether it is a scalar one (R403) -/
  va : Word
  scalar : Bool
  deriving DecidableEq, Repr

/-- A frame pending in the vector frame region (R351): the entries, the registers they write, and the cause. -/
structure Frame where
  cause : Nat
  /-- which image of the frame region it is -/
  seed : Nat
  entries : List QEntry
  /-- registers the entries write, with the mapping the frame holds (R352) -/
  vregs : List (Nat × VReg)
  kregs : List (Nat × KBits)
  /-- the strand's reassembly records, each whole (R219) -/
  records : List Record
  /-- bytes of the frame by the formula of R351 -/
  bytes : Nat
  deriving DecidableEq, Repr

/-- A scalar frame written at PREEMPT (R347, R353). -/
structure ScalarFrame where
  ctx : Nat
  seed : Nat
  saved : Strand
  deriving DecidableEq, Repr

/-- The bytes of a frame in memory (R347): they are opaque, and number `seed` names them. -/
structure Image where
  /-- location of its first byte, and its length -/
  base : Nat
  len : Nat
  seed : Nat
  /-- locations in it that something has written since -/
  gone : List Nat
  deriving DecidableEq, Repr

/-- A context that has left its strand (R356). -/
structure Suspended where
  ctx : Nat
  /-- the images of its scalar frame and, where it was forced out, its forced frame: offset in the save area, and number -/
  seeds : List (Nat × Nat)
  /-- STATE = FORCED, else PREEMPTED -/
  forced : Bool
  /-- the strand to which the context is bound, where R356 binds it -/
  bound : Option Nat
  /-- the strand on which it last ran -/
  last : Nat
  /-- the arithmetic clock at which it left (R332) -/
  since : Nat
  /-- the reassembly records in its forced frame, each whole (R219, R354) -/
  records : List Record
  saved : Strand
  deriving DecidableEq, Repr

/-- A replica of a line in a guest slice (R244). -/
structure Replica where
  die : Nat
  line : Nat
  /-- stamp and clock of the latest write applied -/
  stamp : BitVec 32
  clock : Clock4
  bytes : List Byte
  /-- bytes that the guest's own die wrote later than that stamp: the place in the line and the stamp (R244) -/
  own : List (Nat × BitVec 32)
  deriving DecidableEq, Repr

/-- A TYPE 12 update on its way to a guest (R210, R244). -/
structure Update where
  /-- guest die -/
  die : Nat
  line : Nat
  stamp : BitVec 32
  /-- the die the write was issued on -/
  origin : Nat
  clock : Clock4
  bytes : List Byte
  deriving DecidableEq, Repr

/-- What a home keeps with a line (R210, R244): stamp, clock and guest mask. -/
structure LineInfo where
  stamp : BitVec 32
  clock : Clock4
  guests : BitVec 4
  /-- the largest of the clocks of the writes it has accepted, so that a reader of an older byte of the line acquires that byte's write
  too (R245; the model's own) -/
  past : Clock4
  deriving DecidableEq, Repr

/-- A link-table entry (R257); the list stands in the order the entries were set. -/
structure Link where
  line : Nat
  gid : Nat
  gen : BitVec 16
  deriving DecidableEq, Repr

/-- A request held in a deferral buffer (R263, R316); the list stands in the order of holding. -/
inductive Deferred where
  /-- a `vm.bwait`: strand, barrier location, the phase it waits to leave -/
  | bwait (gid loc : Nat) (phase : BitVec 32)
  /-- a `vx.fld`: strand and the future's entry, with its handle -/
  | fld (gid entry : Nat) (handle : Word)
  deriving DecidableEq, Repr

/-- A merge window slot (R212): its key, who joined, and whether it is still open. -/
structure Window where
  line : Nat
  cluster : Nat
  mask : BitVec 16
  joined : BitVec 16
  isOpen : Bool
  /-- the moment it opened or closed, in Weave cycles -/
  since : Nat
  deriving DecidableEq, Repr

/-- A write request that a home has taken and accepts once every invalidation of its line is acknowledged (R183): the strand, the line,
the bytes with their locations, the clock that its tail flit brought (R202), whether it is a scalar store, and its virtual address. -/
structure WaitWrite where
  gid : Nat
  line : Nat
  ws : List (Nat × Byte)
  clock : Option Clock4
  isScalar : Bool
  va : Word
  deriving DecidableEq, Repr

/-- STATE of a Slath entry (R312). -/
inductive SlathState where
  | free | making | done
  deriving DecidableEq, Repr

/-- A Slath entry (R312). -/
structure SlathEntry where
  hi : Word
  lo : Word
  value : Word
  state : SlathState
  vac : Bool
  maker : BitVec 11
  wait : BitVec 12
  refs : BitVec 16
  lease : BitVec 8
  gen : BitVec 24
  clock : Clock4
  age : BitVec 3
  deriving DecidableEq, Repr

/-- A message in a slice's request queue (R204): its first flit's source, sequence number and class, the flits that have
come, and how many there are. -/
structure SliceReq where
  src : Nat
  seq : Nat
  typ : Nat
  /-- line address, strand and record of the requester -/
  line : Nat
  strand : Nat
  recNo : Nat
  got : BitVec 3
  nf : Nat
  /-- a write's data by place in the line: the bytes that its flits have brought and the byte-enable mask and clock of its tail
  flit (R202) -/
  payload : List Byte
  mask : BitVec 128
  clock : Clock4
  deriving DecidableEq, Repr

/-- One L2 slice (R184, R204, R210, R212, R257, R310). -/
structure Slice where
  /-- lines in its cache ways, home lines and replicas, latest used first (R184, R185) -/
  cache : List Nat
  /-- the request queue, and the requests that wait for a recall (R204) -/
  requests : List SliceReq
  recalls : List SliceReq
  /-- Slath entries lost to an uncorrectable error, with the generation that became stale (R325, R404) -/
  lost : List (Nat × BitVec 24)
  /-- the write counter (R210) -/
  counter : BitVec 32
  links : List Link
  deferred : List Deferred
  nacks : Nat
  windows : List Window
  /-- lines locked by vector atomics, with the strand (R255) -/
  locks : List (Nat × Nat)
  /-- lines owned by an engine, and the agents that wait for them in order (R194) -/
  owned : List (Nat × Nat)
  ownerQueue : List (Nat × Nat)
  /-- Slath entries, sparse by set · 8 + way -/
  slath : List (Nat × SlathEntry)
  deriving DecidableEq, Repr

/-- A page that a copy has translated (R367): for a write or a read, its address, log2 of its size, where it lies, and whether its
mapping is global. -/
structure CopyPage where
  write : Bool
  va : Nat
  size : Nat
  pa : Nat
  global : Bool
  /-- an invalidation has removed the translation since (R384) -/
  stale : Bool
  deriving DecidableEq, Repr

/-- A copy on a strand's tag (R191, R192, R233). -/
structure CopyJob where
  gid : Nat
  tag : Nat
  src : Word
  dst : Word
  rowlen : Nat
  rows : Nat
  sstride : Word
  dstride : Word
  fill : Bool
  alloc : Bool
  /-- the descriptor was one that R192 rejects -/
  bad : Bool
  xl : Xlate
  /-- the engine performs it -/
  started : Bool
  /-- bytes performed, in the order of R193 -/
  pos : Nat
  /-- bytes of the next piece that are read already, by their place in that order (R193) -/
  got : List (Nat × Byte)
  /-- what its strand's scalar stores had replaced, with no `vm.fence` before it: it reads either (R248) -/
  missed : List Unfenced
  /-- lines that the engine owns and has not written yet, oldest first, each with the bytes read for it (R193, R194) -/
  held : List (Nat × List (Nat × Byte))
  /-- the pages it has translated, each once (R367) -/
  pages : List CopyPage
  /-- how it ended: `some true` every byte accepted, `some false` it failed -/
  outcome : Option Bool
  deriving DecidableEq, Repr

/-- A grouped-launch request queued at a block (R285). -/
structure GRequest where
  desc : Word
  xl : Xlate
  prio : Nat
  weight : Nat
  gid : Nat
  deriving DecidableEq, Repr

/-- A node of a grouped launch (R269, R285). -/
structure GNode where
  serial : Nat
  num : Nat
  group : Nat
  row : Nat
  m : Nat
  /-- 0 inserted, 1 running, 2 ended, 3 failed -/
  status : Nat
  /-- the strand it runs on, while it runs -/
  on : Nat
  /-- order and moment of becoming ready (R332) -/
  order : Nat
  since : Nat
  deriving DecidableEq, Repr

/-- A request a block has served: its descriptor's fields, and what DONE will be (R268, R269, R285). -/
structure GServed where
  serial : Nat
  req : GRequest
  abase : Word
  bbase : Word
  cbase : Word
  doneVa : Word
  apitch : Nat
  cpitch : Nat
  bstride : Nat
  k : Nat
  n : Nat
  fmt : Nat
  /-- row counts of the groups whose nodes are not all inserted, from the current group on -/
  counts : List Nat
  /-- the current group, and the first row and number of its next node -/
  group : Nat
  row : Nat
  num : Nat
  /-- nodes are still being inserted: the block takes no other request -/
  serving : Bool
  /-- the descriptor or the counts could not be read -/
  failed : Bool
  deriving DecidableEq, Repr

/-- A grouped-launch block (R285). -/
structure GBlock where
  queue : List GRequest
  serial : Nat
  served : List GServed
  nodes : List GNode
  deriving DecidableEq, Repr

/-- A launch in the ready pools (R327 to R335). -/
structure Launch where
  key : Nat
  /-- the 256 bytes of the record (R327) -/
  image : List Byte
  /-- host queue and its completion base; none for a spawned node -/
  queue : Option (Nat × Nat)
  /-- the translation a spawned node records (R334) -/
  xl : Option Xlate
  /-- dispatch order and id of the spawning task (R335) -/
  spawner : Option (Nat × BitVec 32)
  hold : Bool
  /-- launches that must complete first (R332, R335) -/
  edges : List Nat
  /-- nodes: die and index (R332) -/
  nodes : List (Nat × Nat)
  /-- dies whose node is ready, each with the order and the moment of its becoming ready (R332) -/
  ready : List (Nat × (Nat × Nat))
  /-- placement: instance X and base b, once chosen (R329) -/
  place : Option (Nat × Nat)
  started : List Nat
  ended : List Nat
  /-- the clock of its ended tasks' completion words, and that of the completions and the spawn before it (R333) -/
  doneClock : Clock4
  clock : Clock4
  deriving DecidableEq, Repr

/-- STATE of a launch queue (R390). -/
inductive QueueState where
  | stopped | run | overrun
  deriving DecidableEq, Repr

/-- A launch queue (R390). -/
structure HostQueue where
  rbase : Nat
  rsize : BitVec 4
  seq0 : BitVec 32
  cbase : Nat
  tail : BitVec 32
  head : BitVec 32
  expseq : BitVec 32
  state : QueueState
  inte : Bool
  /-- cause 49 recorded (R391) -/
  cause : Nat
  /-- ID and launch key of each packet taken since the start, latest first (R332) -/
  ids : List (Nat × Nat)
  /-- a packet that waits for room in a pool, with the launches that its DEP fields named when it was taken, and its launch key (R391) -/
  stuck : Option (List Byte × (List Nat × Nat))
  /-- the clocks of the completion words of its launches that have completed, by launch key (R333) -/
  doneClocks : List (Nat × Clock4)
  deriving DecidableEq, Repr

/-- A Wale window (R394). -/
structure WaleWindow where
  base : Nat
  size : Nat
  target : Nat
  tbase : Nat
  deriving DecidableEq, Repr

/-- The physical map of R361, and the bus ranges of the device's own BARs (R388). -/
structure PhysMap where
  hbmb : Option Nat
  bskb : Option Nat
  hostb : Option Nat
  hostsz : Nat
  /-- base and size of BAR0 and BAR2 of each function, on the bus -/
  bars : List (Nat × Nat)
  wale : List (Nat × WaleWindow)
  deriving DecidableEq, Repr

/-- A message on its way through the Weave, or waiting to be resent (R201, R263). -/
inductive Msg where
  | readReply (gid line recNo : Nat) (bytes : List Byte) (failed : Bool) (dest : FillDest)
  | writeAck (gid line : Nat) (stamp : BitVec 32) (va : Word) (isScalar : Bool) (failed : Bool)
  | atomicReply (gid loc : Nat) (old : Word) (failed : Bool)
  | lockReply (gid line : Nat) (granted : Bool)
  | ownerGrant (agent line : Nat)
  | phase (gid loc : Nat) (phase : BitVec 32) (clock : Clock4)
  | slath (gid : Nat) (future answer : Word) (clock : Clock4) (claimTrap : Bool)
  | nackBwait (gid loc : Nat) (phase : BitVec 32) (backoff : Nat)
  | nackFld (gid : Nat) (handle : Word) (backoff : Nat)
  | ticket (gid : Nat) (ticket : Word)
  | pushAsk (gid peer reg : Nat) (bits : VBits) (words : Nat)
  | pushGrant (gid peer reg : Nat) (bits : VBits) (words : Nat) (ctx : Nat)
  | pushPeer (gid peer : Nat)
  | forwardReply (gid line : Nat) (failed : Bool)
  | mcReply (die cluster : Nat) (mask : BitVec 16) (line : Nat) (bytes : List Byte) (mc failed : Bool) (clock : Clock4)
  | remoteReply (bytes : List Byte) (failed : Bool)
  deriving DecidableEq, Repr

/-- The header of a flit (R200); the payload as bytes. -/
structure Flit where
  typ : BitVec 4
  mc : Bool
  nf : BitVec 2
  fi : BitVec 2
  ddie : BitVec 2
  dnode : BitVec 8
  sdie : BitVec 2
  snode : BitVec 8
  strand : BitVec 2
  recNo : BitVec 5
  age : BitVec 8
  seq : BitVec 16
  arg : BitVec 49
  crc : BitVec 16
  payload : List Byte
  deriving DecidableEq, Repr

/-- A router of one plane (R199, R207, R213, R215); cycles are those of its plane. -/
structure Router where
  /-- flits arriving in this cycle -/
  arriving : List Flit
  /-- flits its node wants to inject, next first -/
  inject : List Flit
  /-- flits ejected to the local node that its ports leave to the events of their class -/
  ejected : List Flit
  /-- the node's next sequence number (R200) -/
  seq : BitVec 16
  /-- the cycle at which its window began, and unproductive placements in it (R213) -/
  since : Nat
  d : Nat
  /-- injection interval k (R213) -/
  k : Nat
  /-- the cycle after the one in which it last injected; 0: none (R213) -/
  injected : Nat
  /-- the cycle from which on it has placed no flit and its node has requested no injection (R215) -/
  idleFrom : Nat
  down : Bool
  /-- the node raised LOSS in this window (R403) -/
  loss : Bool
  deriving DecidableEq, Repr

/-- A Wale port (R395, R396). -/
structure WalePort where
  nextSeq : BitVec 12
  expSeq : BitVec 12
  acked : BitVec 12
  /-- flits kept for replay, oldest first: sequence and payload -/
  replay : List (BitVec 12 × List Byte)
  /-- flits sent, oldest first: 256 bytes each (R395) -/
  sending : List (List Byte)
  /-- payloads accepted in order -/
  received : List (List Byte)
  replays : Nat
  up : Bool
  deriving DecidableEq, Repr

/-- An entry of the Handle's event log (R399); DATA has 12 bytes. -/
structure LogEntry where
  time : Word
  cls : BitVec 8
  unit : BitVec 24
  addr : Nat
  data : List Byte
  deriving DecidableEq, Repr

/-- A firmware slot (R400). -/
structure FwSlot where
  version : Nat
  valid : Bool
  deriving DecidableEq, Repr

/-- An element group on its way round a core's Rim (R218): where it is, where it goes, which way, and what it is. -/
structure RimMove where
  /-- the stations it came from, stands at, and goes to -/
  src : Nat
  here : Nat
  dest : Nat
  /-- toward increasing station numbers -/
  up : Bool
  /-- the strand it belongs to, and its number in the order of sending -/
  gid : Nat
  serial : Nat
  deriving DecidableEq, Repr

/-- A core's Rim: moves on their way, oldest first, the number of the next, and what has arrived, latest first (R218). -/
structure Rim where
  moves : List RimMove
  next : Nat
  arrived : List RimMove
  deriving DecidableEq, Repr

/-- An empty Rim. -/
def Rim.reset : Rim := ⟨[], 0, []⟩

/-- One of the Handle's two RV64 cores (R398). -/
structure HandleCore where
  x : Vector Word 32
  pc : Word
  deriving DecidableEq, Repr

/-- The Handle (R398 to R400, R394). -/
structure Handle where
  /-- its two cores, and its 4 MiB of SRAM, sparse by offset (R398) -/
  core0 : HandleCore
  core1 : HandleCore
  sram : List (Nat × Byte)
  log : List LogEntry
  temps : List Nat
  rails : List Nat
  slotA : FwSlot
  slotB : FwSlot
  bootedA : Bool
  /-- an image has booted: the Handle's firmware runs (R400, R407) -/
  running : Bool
  fuse : Nat
  powerLimit : Nat
  /-- arithmetic clock in MHz (R408) -/
  clockMhz : Nat
  /-- replies to MCTP requesters, oldest first -/
  replies : List (List Nat)
  deriving DecidableEq, Repr

/-- What the environment supplies with an event: which strand, die, unit, line, address, value (the event rows have
no operand fields). -/
structure Input where
  gid : Nat
  peer : Nat
  die : Nat
  unit : Nat
  plane : Nat
  idx : Nat
  slot : Nat
  key : Nat
  x : Nat
  b : Nat
  line : Nat
  loc : Nat
  addr : Nat
  va : Word
  hi : Word
  lo : Word
  data : List Byte
  nums : List Nat
  regBits : VBits
  f0 : Bool
  f1 : Bool
  dest : FillDest
  acc : ExtAccess
  scrub : ScrubResult
  bad : StructErr
  reg : Bar0Reg
  amo : AmoOp
  deriving DecidableEq, Repr

/-- A turn that another agent of the package, the host or the environment takes between the focus strand's steps. -/
inductive Turn where
  /-- an event row, with its particulars -/
  | event (i : Instr) (inp : Input)
  /-- the strand whose turn comes next -/
  | focus (gid : Nat)
  /-- the entry of the focus strand's queue that the vector stream tries now -/
  | vector (place : Nat)
  /-- as `vector`, but only the elements below `upto` are performed (R27, R240) -/
  | part (place upto : Nat)
  /-- the lanes issue nothing of the focus strand for 64 arithmetic clocks (R34) -/
  | hold
  deriving DecidableEq, Repr

/-- An access from another package that has come in on a Wale port and is not yet performed (R397). -/
structure RemoteReq where
  port : Nat
  addr : Nat
  acc : ExtAccess
  deriving DecidableEq, Repr

/-- The package and what the host sees of it. -/
structure State where
  /-- the strand in focus: the one that takes the next instruction step -/
  t : Strand
  /-- its global id (R11) -/
  gid : Nat
  /-- the other strands that are not as at reset, sparse by global id -/
  peers : List (Nat × Strand)
  /-- memory, sparse by location: HBM offset, Basket offset, host bus address, Wale target (R361, R394) -/
  mem : List (Nat × Byte)
  /-- what HBM may hold of lines written since reset: the values that the line has had before, latest first (R406) -/
  hbm : List (Nat × List (List Byte))
  /-- lines whose check fails (R402) -/
  errs : List Nat
  map : PhysMap
  /-- Basket partition of each die in KiB (R186) -/
  basket : List (Nat × Nat)
  /-- context table base of each die (R394) -/
  ctxTable : List (Nat × Nat)
  bonded : Bool
  /-- ARENAB and ARENASZ of each die (R389) -/
  arena : List (Nat × (Nat × Nat))
  tlbva : Word
  /-- TLBCTL ASID, ALLVA, ALLASID (R389) -/
  tlbctl : BitVec 18
  /-- the address and ASID of the last invalidation that GO began, none where it takes all (R393) -/
  tlbGo : Option (Option Nat × Option Nat)
  slices : List (Nat × Slice)
  lines : List (Nat × LineInfo)
  replicas : List Replica
  updates : List Update
  /-- die clocks C_d (R244) -/
  clocks : List (Nat × Clock4)
  /-- dies whose open epoch has a write (R244) -/
  openEpochs : List Nat
  /-- lines in scalar L1s, latest used first: core and line (R182, R183) -/
  l1 : List (Nat × Nat)
  /-- invalidations not yet acknowledged: cluster over the package and line (R183, R211) -/
  invals : List (Nat × Nat)
  /-- writes that wait for them, in the order of arrival (R183) -/
  waits : List WaitWrite
  /-- instruction cache lines: core, line, bytes (R182) -/
  icache : List (Nat × (Nat × List Byte))
  /-- read-only buffer lines: core, line, bytes, and the line clock of their value (R228, R244) -/
  robuf : List (Nat × (Nat × (List Byte × Clock4)))
  tlbs : List TlbEntry
  /-- the SC sequence counter of D0.s0, and whether a ticket is out (R229) -/
  scTicket : Word
  scOut : Option Nat
  wire : List Msg
  records : List Record
  copies : List CopyJob
  blocks : List (Nat × GBlock)
  /-- pending vector frames, by context (R351) -/
  frames : List (Nat × Frame)
  /-- scalar frames written at PREEMPT (R353) -/
  scalarFrames : List ScalarFrame
  /-- frames in memory, latest first (R347) -/
  images : List Image
  suspended : List Suspended
  launches : List Launch
  /-- generations of pool nodes: die · 4096 + index (R334) -/
  nodeGen : List (Nat × BitVec 24)
  nextKey : Nat
  nextOrder : Nat
  /-- result space in use: context, die, base, bytes (R332) -/
  results : List (Nat × (Nat × Nat × Nat))
  /-- context-table entries in use: die · 8192 + entry (R394) -/
  ctxUsed : List Nat
  queues : List (Nat × HostQueue)
  /-- MSI-X vectors raised, latest first (R388) -/
  msix : List Nat
  /-- replies to host reads, latest first: bytes and whether poisoned (R388) -/
  hostReplies : List (List Byte × Bool)
  /-- posted writes of the bonded function not yet performed, by their order of issue, with offset and data; and the next to be
  performed (R388) -/
  posted : List (Nat × (Nat × List Byte))
  postNext : Nat
  /-- windows in which a strand's access was not delivered in time: strand and BASE (R396) -/
  timedOut : List (Nat × Nat)
  /-- accesses from other packages that wait (R397) -/
  incoming : List RemoteReq
  /-- errors reported through AER, latest first: the offset in BAR2 (R388) -/
  aer : List Nat
  handle : Handle
  ports : List (Nat × WalePort)
  routers : List (Nat × Router)
  /-- flits on a bridge: the plane's cycle in which each arrives, and the router (R216) -/
  transit : List (Nat × (Nat × Flit))
  /-- Weave cycles that each plane's routers have gone through (R207) -/
  planes : List (Nat × Nat)
  /-- Rims by core (R218) -/
  rims : List (Nat × Rim)
  /-- cores whose clock is gated (R408) -/
  gated : List Nat
  /-- last element group issued by a lane group: core · 8 + g, with the strand and the group (R339) -/
  issues : List (Nat × (Nat × Nat))
  /-- the first lane group of each core that the current clock has not decided (R339) -/
  decided : List (Nat × Nat)
  /-- element groups each strand issued in the current clock (R339) -/
  issuedNow : List (Nat × Nat)
  /-- device in D3hot (R408) -/
  d3hot : Bool
  /-- `time` (R36) -/
  time : Word
  /-- arithmetic clocks since reset, for deadlines and the watchdog -/
  clock : Nat
  /-- Weave clocks since reset (R2) -/
  weave : Nat
  /-- `time` counts one step takes: the model's own pace -/
  timePace : Nat
  /-- counter of free values drawn (the model's own) -/
  free : Nat
  /-- the focus strand's last turn ended in a wait: the package's own agents may take the next step -/
  stalled : Bool
  /-- what the event now performed was given -/
  inp : Input
  agenda : List Turn
  deriving DecidableEq, Repr

/-- Why the machine stops with a fault. -/
inductive Fault where
  /-- Raised by the step when an event names a strand, die, queue or unit the package does not have; safe. -/
  | noSuchUnit
  deriving DecidableEq, Repr

/-- Why the model gives no meaning. -/
inductive Refusal where
  /-- Raised by a dispatch arm with no meaning yet; safe. -/
  | notModelled (mnemonic : String)
  deriving DecidableEq, Repr

/-- The zero clock. -/
def Clock4.zero : Clock4 := ⟨0, 0, 0, 0⟩

/-- `mstatus` at reset: every field the device has reads 0 (R36, R350). -/
def mstatusReset : Word := 0

/-- A strand with no task, as after a cold or package reset. -/
def Strand.reset : Strand where
  x := Vector.replicate 32 0
  pc := 0
  v := Vector.replicate 32 VReg.zero
  k := Vector.replicate 8 0
  pending := Vector.replicate 32 none
  granted := []
  vl := 0
  vcfg := 4
  vkey := 0
  vstat := 0
  vmcnt := 0
  vtrows := 0
  vrthr := 0x40000
  ctags := 0
  cfault := 0
  vcpPc := 0
  share := 0
  nextShare := 0
  weight := 0
  fmtb := 0
  datp := 0
  sbase := 0
  sdesc := 0
  mode := .machine
  mstatus := mstatusReset
  medeleg := 0
  mideleg := 0
  mie := 0
  ssip := false
  mtvec := 0
  mscratch := 0
  mepc := 0
  mcause := 0
  mtval := 0
  mcounteren := 7
  mcountinhibit := 0
  menvcfg := 0
  mcycle := 0
  minstret := 0
  stvec := 0
  sscratch := 0
  sepc := 0
  scause := 0
  stval := 0
  scounteren := 0
  senvcfg := 0
  stimecmp := 0xFFFFFFFFFFFFFFFF
  reservation := none
  gen := 0
  queue := []
  replay := none
  claims := List.replicate 32 .free
  unfold := none
  qclock := Clock4.zero
  sclock := Clock4.zero
  seen := Clock4.zero
  seenV := Clock4.zero
  unfenced := []
  preempt := none
  watchdog := 0
  storeTraps := []
  firmware := false
  waiting := false
  failing := none
  vectorTurn := true
  place := 0
  peek := false
  upto := none
  heldUntil := 0
  framing := none
  sbaseNow := 0
  sdescNow := 0
  xbad := []
  vbad := []
  kbad := []
  wake := false
  bound := none
  locks := []
  ctxState := .idle
  pend := false
  task := none

/-- An empty slice (R210, R312). -/
def Slice.reset : Slice := ⟨[], [], [], [], 0, [], [], 0, [], [], [], [], []⟩

/-- A FREE Slath entry with GEN 0 (R312). -/
def SlathEntry.reset : SlathEntry := ⟨0, 0, 0, .free, false, 0, 0, 0, 0, 0, Clock4.zero, 0⟩

/-- A grouped-launch block with nothing queued. -/
def GBlock.reset : GBlock := ⟨[], 0, [], []⟩

/-- A launch queue at reset (R390). -/
def HostQueue.reset : HostQueue := ⟨0, 4, 0, 0, 0, 0, 0, .stopped, false, 0, [], none, []⟩

/-- A Wale port after training. -/
def WalePort.reset : WalePort := ⟨0, 0, 0, [], [], [], 0, true⟩

/-- A router in which nothing has happened (R213). -/
def Router.reset : Router := ⟨[], [], [], 0, 0, 0, 1, 0, 0, false, false⟩

/-- The Handle as manufactured: an empty log and the power limit at its largest. -/
def Handle.reset : Handle :=
  ⟨⟨Vector.replicate 32 0, 0⟩, ⟨Vector.replicate 32 0, 0⟩, [], [], List.replicate 64 0, [], ⟨1, true⟩, ⟨0, false⟩, true, true, 0, 3600, 3000, []⟩

/-- Every range disabled (R361). -/
def PhysMap.reset : PhysMap := ⟨none, none, none, 0, [], []⟩

/-- No particulars. -/
def Input.none : Input :=
  ⟨0, 0, 0, 0, 0, 0, 0, 0, 0, 0, 0, 0, 0, 0, 0, 0, [], [], 0, false, false, .record, .read 0, .clean, .slath 0 0, .tlbVa, .swap⟩

/-- The package right after a cold reset and bring-up (R405 to R407): every physical range disabled, no task anywhere,
every queue stopped, memory cleared, every Slath entry FREE. -/
def State.reset : State where
  t := Strand.reset
  gid := 0
  peers := []
  mem := []
  hbm := []
  errs := []
  map := PhysMap.reset
  basket := []
  ctxTable := []
  bonded := false
  arena := []
  tlbva := 0
  tlbctl := 0
  tlbGo := none
  slices := []
  lines := []
  replicas := []
  updates := []
  clocks := []
  openEpochs := []
  l1 := []
  invals := []
  waits := []
  icache := []
  robuf := []
  tlbs := []
  scTicket := 0
  scOut := none
  wire := []
  records := []
  copies := []
  blocks := []
  frames := []
  scalarFrames := []
  images := []
  suspended := []
  launches := []
  nodeGen := []
  nextKey := 0
  nextOrder := 0
  results := []
  ctxUsed := []
  queues := []
  msix := []
  hostReplies := []
  posted := []
  postNext := 0
  timedOut := []
  incoming := []
  aer := []
  handle := Handle.reset
  ports := []
  routers := []
  transit := []
  planes := []
  rims := []
  gated := []
  issues := []
  decided := []
  issuedNow := []
  d3hot := false
  time := 0
  clock := 0
  weave := 0
  timePace := 1
  free := 0
  stalled := false
  inp := Input.none
  agenda := []

end Sys2Proof.Machine
end

