-- ==== Sys2Proof/Machine/Sparse.lean ====
section
/-! DEFINITION. Sparse maps by a number: keys rise strictly, and no entry holds the value an unlisted key reads as. -/

namespace Sys2Proof.Machine

/-- The value at a key; an unlisted key reads as `d`. -/
def sget {α : Type} (d : α) : List (Nat × α) → Nat → α
  | [], _ => d
  | (j, v) :: r, k => if k < j then d else if k = j then v else sget d r k

/-- The map with the value at a key replaced; writing `d` removes the entry. -/
def sput {α : Type} [DecidableEq α] (d : α) : List (Nat × α) → Nat → α → List (Nat × α)
  | [], k, v => if v = d then [] else [(k, v)]
  | (j, w) :: r, k, v =>
    if k < j then (if v = d then (j, w) :: r else (k, v) :: (j, w) :: r)
    else if k = j then (if v = d then r else (k, v) :: r)
    else (j, w) :: sput d r k v

/-- Whether keys rise strictly from `lo` on and no entry holds `d`. -/
def swfFrom {α : Type} [DecidableEq α] (d : α) : Nat → List (Nat × α) → Bool
  | _, [] => true
  | lo, (k, v) :: r => decide (lo ≤ k) && decide (v ≠ d) && swfFrom d (k + 1) r

/-- The canonical form of a sparse map. -/
def swf {α : Type} [DecidableEq α] (d : α) (m : List (Nat × α)) : Bool := swfFrom d 0 m

/-- The canonical form of memory: addresses rise strictly and no entry holds 0, which an unlisted byte reads as
(bring-up clears the memory, R407). -/
def Memory.wf (m : List (Nat × Byte)) : Bool := swf 0 m

/-- The first `p` among the members of a list, with its place. -/
def findIdxOf {α : Type} (p : α → Bool) : List α → Nat → Option (Nat × α)
  | [], _ => none
  | a :: r, i => if p a then some (i, a) else findIdxOf p r (i + 1)

/-- Insertion of a number into a list without repeats, at the front. -/
def addOnce (k : Nat) (xs : List Nat) : List Nat := if xs.contains k then xs else k :: xs

end Sys2Proof.Machine
end

