-- ==== Sys2Proof/Machine/Access.lean ====
section
/-! DEFINITION. Reading and writing registers, strands, slices and the other parts of the state, in one place each. -/

namespace Sys2Proof.Machine

/-- The focus strand after a change. -/
def State.onT (s : State) (f : Strand → Strand) : State := { s with t := f s.t }

/-- x[r]; x0 reads zero (R41). -/
def getX (s : State) (r : Reg) : Word := if r = 0 then 0 else s.t.x[r.toNat]

/-- A write to x[r]; x0 discards it (R41). -/
def setX (s : State) (r : Reg) (v : Word) : State :=
  if r = 0 then s else { s with t := { s.t with x := s.t.x.set r.toNat v } }

/-- v[n], n below 32; a larger number wraps, which no caller asks for. -/
def getV (s : State) (n : Nat) : VReg := s.t.v[n % 32]'(Nat.mod_lt n (by decide))

/-- A write to v[n]: a fresh mapping (R26). -/
def setV (s : State) (n : Nat) (r : VReg) : State :=
  { s with t := { s.t with v := s.t.v.set (n % 32) r (Nat.mod_lt n (by decide)) } }

/-- k[n]; k0 reads all true (R41). -/
def getK (s : State) (n : KReg) : KBits := if n = 0 then BitVec.allOnes 4096 else s.t.k[n.toNat]

/-- A write to k[n]; k0 cannot be written (R41). -/
def setK (s : State) (n : KReg) (b : KBits) : State :=
  if n = 0 then s else { s with t := { s.t with k := s.t.k.set n.toNat b } }

/-- Flags ORed into `vstat` (R48, R146). -/
def orFlags (s : State) (f : Flags) : State := { s with t := { s.t with vstat := s.t.vstat ||| f } }

/-- Die of a strand (R11). -/
def dieOf (gid : Nat) : Nat := gid / 512
/-- Core of a strand, counted over the package: die · 128 + core (R11). -/
def coreOf (gid : Nat) : Nat := gid / 4
/-- Cluster of a strand, counted over the package (R11). -/
def clusterOf (gid : Nat) : Nat := gid / 64
/-- Cluster of a package-wide core number. -/
def clusterOfCore (core : Nat) : Nat := core / 16

/-- A strand by its global id. -/
def strandAt (s : State) (gid : Nat) : Strand := if gid = s.gid then s.t else sget Strand.reset s.peers gid

/-- The state with a strand replaced. -/
def putStrand (s : State) (gid : Nat) (t : Strand) : State :=
  if gid = s.gid then { s with t := t } else { s with peers := sput Strand.reset s.peers gid t }

/-- The state with another strand in focus. -/
def focusOn (s : State) (gid : Nat) : State :=
  if gid = s.gid then s
  else
    { s with
      t := sget Strand.reset s.peers gid
      gid := gid
      peers := sput Strand.reset (sput Strand.reset s.peers gid Strand.reset) s.gid s.t }

/-- An action performed on another strand as if it had the focus, which then returns. -/
def asStrand (gid : Nat) (f : State → State) (s : State) : State := focusOn (f (focusOn s gid)) s.gid

/-- A slice by its global index die · 512 + slice. -/
def sliceAt (s : State) (n : Nat) : Slice := sget Slice.reset s.slices n

/-- The state with a slice changed. -/
def onSlice (s : State) (n : Nat) (f : Slice → Slice) : State :=
  { s with slices := sput Slice.reset s.slices n (f (sliceAt s n)) }

/-- Every slice changed. -/
def mapSlices (s : State) (f : Slice → Slice) : State :=
  { s with slices := s.slices.filterMap fun p => if f p.2 = Slice.reset then none else some (p.1, f p.2) }

/-- The agent number under which a copy owns lines (R194). -/
def copyAgent (gid tag : Nat) : Nat := gid * 64 + tag

/-- A Slath entry of a slice. -/
def slathAt (s : State) (slice e : Nat) : SlathEntry := sget SlathEntry.reset (sliceAt s slice).slath e

/-- The state with a Slath entry replaced. -/
def putSlath (s : State) (slice e : Nat) (v : SlathEntry) : State :=
  onSlice s slice fun c => { c with slath := sput SlathEntry.reset c.slath e v }

/-- What a home keeps with a line that nothing has written. -/
def LineInfo.reset : LineInfo := ⟨0, Clock4.zero, 0, Clock4.zero⟩

/-- What the home keeps with a line. -/
def lineAt (s : State) (line : Nat) : LineInfo := sget LineInfo.reset s.lines line

/-- The state with a line's information replaced. -/
def putLine (s : State) (line : Nat) (i : LineInfo) : State :=
  { s with lines := sput LineInfo.reset s.lines line i }

/-- The clock of a die. -/
def clockAt (s : State) (die : Nat) : Clock4 := sget Clock4.zero s.clocks die

/-- A counter of a clock. -/
def Clock4.get (c : Clock4) (e : Nat) : BitVec 48 :=
  match e with
  | 0 => c.c0
  | 1 => c.c1
  | 2 => c.c2
  | _ => c.c3

/-- A clock with one counter replaced. -/
def Clock4.put (c : Clock4) (e : Nat) (v : BitVec 48) : Clock4 :=
  match e with
  | 0 => { c with c0 := v }
  | 1 => { c with c1 := v }
  | 2 => { c with c2 := v }
  | _ => { c with c3 := v }

/-- The larger of two counters. -/
def maxBv (a b : BitVec 48) : BitVec 48 := if a.toNat ≤ b.toNat then b else a

/-- The larger of each counter (R244). -/
def Clock4.max (a b : Clock4) : Clock4 :=
  ⟨maxBv a.c0 b.c0, maxBv a.c1 b.c1, maxBv a.c2 b.c2, maxBv a.c3 b.c3⟩

/-- A launch queue. -/
def queueAt (s : State) (q : Nat) : HostQueue := sget HostQueue.reset s.queues q

/-- The state with a launch queue replaced. -/
def putQueue (s : State) (q : Nat) (v : HostQueue) : State := { s with queues := sput HostQueue.reset s.queues q v }

/-- A grouped-launch block: die · 4 + block. -/
def blockAt (s : State) (b : Nat) : GBlock := sget GBlock.reset s.blocks b

/-- The state with a grouped-launch block replaced. -/
def putBlock (s : State) (b : Nat) (v : GBlock) : State := { s with blocks := sput GBlock.reset s.blocks b v }

/-- A Wale port. -/
def portAt (s : State) (p : Nat) : WalePort := sget WalePort.reset s.ports p

/-- The state with a Wale port replaced. -/
def putPort (s : State) (p : Nat) (v : WalePort) : State := { s with ports := sput WalePort.reset s.ports p v }

/-- The number of a router: (die · 8 + plane) · 192 + node. -/
def routerNo (die plane node : Nat) : Nat := (die * 8 + plane) * 192 + node

/-- A router. -/
def routerAt (s : State) (r : Nat) : Router := sget Router.reset s.routers r

/-- The state with a router replaced. -/
def putRouter (s : State) (r : Nat) (v : Router) : State := { s with routers := sput Router.reset s.routers r v }

/-- A core's Rim (R218). -/
def rimAt (s : State) (core : Nat) : Rim := sget Rim.reset s.rims core

/-- The state with a core's Rim replaced. -/
def putRim (s : State) (core : Nat) (r : Rim) : State := { s with rims := sput Rim.reset s.rims core r }

/-- No window counts as silent for a strand any more (R396). -/
def noTimeouts (s : State) (gid : Nat) : State := { s with timedOut := s.timedOut.filter fun p => p.1 != gid }

/-- The kinds of units that a log entry names (R399). -/
inductive UnitKind where
  | strand | slice | router | port | pool | die | handle | link
  deriving DecidableEq, Repr

/-- The number under which `Config.unitKind` gives a kind's code. -/
def UnitKind.number : UnitKind → Nat
  | .strand => 0
  | .slice => 1
  | .router => 2
  | .port => 3
  | .pool => 4
  | .die => 5
  | .handle => 6
  | .link => 7

/-- A unit as a log entry names it (R399): its die in [1:0], its kind in [7:2], and its index within its die in [23:8], for units of a number
given a die. -/
def unitOn (k : UnitKind) (die index : Nat) : BitVec 24 :=
  BitVec.ofNat 24 (die % 4 + 4 * (Config.unitKind k.number).toNat + 256 * (index % 2 ^ 16))

/-- A strand or a slice in the log: 512 of each stand on a die. -/
def strandUnit (gid : Nat) : BitVec 24 := unitOn .strand (gid / 512) (gid % 512)
def sliceUnit (sl : Nat) : BitVec 24 := unitOn .slice (sl / 512) (sl % 512)

/-- A line of the Handle's event log (R399): the time, the class, where, and three class-specific numbers of 4 bytes. The ring holds 1 MiB of
32-byte entries; when it is full the oldest is overwritten. -/
def logEvent (s : State) (cls : Nat) (unit : BitVec 24) (addr : Nat) (data : List Nat) : State :=
  let log := if 32768 ≤ s.handle.log.length then s.handle.log.drop 1 else s.handle.log
  let bs := bytesOf 4 (data.getD 0 0) ++ bytesOf 4 (data.getD 1 0) ++ bytesOf 4 (data.getD 2 0)
  { s with handle := { s.handle with log := log ++ [⟨s.time, BitVec.ofNat 8 cls, unit, addr, bs⟩] } }

/-- A free number for one use, with the state that has drawn it. -/
def draw (s : State) : Nat × State := (Config.freeNat (2 ^ s.free), { s with free := s.free + 1 })

/-- A family of free numbers for one use, with the state that has drawn it: number `n` of draw `c` is number
`2^c · (2n + 1)` of the supply, so no two draws share one. -/
def drawFam (s : State) : (Nat → Nat) × State :=
  (fun n => Config.freeNat (2 ^ s.free * (2 * n + 1)), { s with free := s.free + 1 })

/-- The mode and translation state under which the focus strand acts now (R386). -/
def xlateNow (s : State) : Xlate :=
  ⟨s.t.datp, s.t.fmtb, s.t.mode, s.t.mstatus.getLsbD 18, s.t.mstatus.getLsbD 19⟩

/-- What a vector instruction works with: its queue entry's captured values (R17, R386), or the strand's own now. -/
structure Ctx where
  pc : Word
  word : InstrWord
  xa : Word
  xb : Word
  vl : Nat
  cfg : Cfg
  key : Key
  gen : BitVec 16
  xl : Xlate
  /-- progress index: elements, steps or registers below it are done -/
  progress : Nat

/-- The word of an instruction; a word without fields of its own encodes as itself (R57). -/
def wordOf (i : Instr) : InstrWord :=
  match i with
  | .reservedWord w => w
  | i => (encode i).getD 0

/-- The entry that pushing an instruction makes (R17, R258, R386). -/
def pushEntry (s : State) (i : Instr) : QEntry where
  instr := i
  word := wordOf i
  pc := s.t.pc
  xa := getX s ((wordOf i).extractLsb' 15 5)
  xb := getX s ((wordOf i).extractLsb' 20 5)
  vl := s.t.vl
  vcfg := s.t.vcfg
  vkey := s.t.vkey
  mode := s.t.mode
  sum := s.t.mstatus.getLsbD 18
  mxr := s.t.mstatus.getLsbD 19
  gen := s.t.gen
  progress := 0
  issued := 0
  since := []
  xw := false
  passed := false
  held := []
  vhist := []
  khist := []
  xhist := none
  late := 0
  bound := none
  done := false
  vsrc := []
  ksrc := []

/-- The context an entry gives its instruction. -/
def ctxOfEntry (s : State) (e : QEntry) : Ctx :=
  ⟨e.pc, e.word, e.xa, e.xb, e.vl.toNat, e.vcfg, e.vkey, e.gen, ⟨s.t.datp, s.t.fmtb, e.mode, e.sum, e.mxr⟩, e.progress⟩

/-- A source vector register: as the frame holds it for a reloaded entry (R351), else the current mapping. -/
def srcV (s : State) (n : Nat) : VReg :=
  match s.t.replay with
  | some e =>
    match e.vsrc.find? (fun p => p.1 == n % 32) with
    | some p => p.2
    | none => getV s n
  | none => getV s n

/-- A source mask register, likewise; k0 reads all true. -/
def srcK (s : State) (n : KReg) : KBits :=
  match s.t.replay with
  | some e =>
    match e.ksrc.find? (fun p => p.1 == n.toNat) with
    | some p => p.2
    | none => getK s n
  | none => getK s n

/-- The active elements under km (R97), from the entry's progress on. -/
def actOf (s : State) (km : KReg) : Nat → Bool := maskOf km (srcK s)

end Sys2Proof.Machine
end

