-- ==== Sys2Proof/Machine/SparseGate.lean ====
section
/-! DEFINITION. The SPARSE and GATE groups as functions of the operands alone (R300 to R304, R371 to R377). -/

namespace Sys2Proof.Machine

/-- KEY of a SPARSE register: KFMT UINT16, KOFF 1, KW 0, DIR 0 (R371). -/
def sparseKey : Key := 0x09

/-- Whether a source passes the sparse source check (R371). -/
def isSparseSrc (r : VReg) : Bool :=
  decide (r.kind = .sparse) || (decide (r.kind = .run) && decide (r.key = sparseKey))

/-- c(x) (R371). -/
def coordOf (x : Nat) : Nat := bits x 16 16
/-- val16(x) (R371). -/
def val16 (x : Nat) : Nat := bits x 0 16

/-- val(v, c): the sum over the elements with that coordinate, modulo 2^16 (R371). -/
def valAt (xs : List Nat) (c : Nat) : Nat := ((xs.filter fun x => coordOf x == c).map val16).sum % 2 ^ 16

/-- wide(): a 16-bit value sign-extended under FMT 4 and 12, zero-extended under FMT 5 (R371). -/
def wide16 (fmt v : Nat) : Int := if fmt = 5 then ((v % 2 ^ 16 : Nat) : Int) else sgn 16 v

/-- Insertion into an ascending list without repeats. -/
def insertSet (x : Nat) : List Nat → List Nat
  | [] => [x]
  | y :: r => if x < y then x :: y :: r else if x = y then y :: r else y :: insertSet x r

/-- The members of a list, ascending and each once. -/
def toSet (xs : List Nat) : List Nat := xs.foldl (fun s x => insertSet x s) []

/-- The sparse elements of `vp.spadd` and `vp.spmul` (R374), the `vl` lowest coordinates. -/
def spCombine (mul : Bool) (vl : Nat) (xs ys : List Nat) : List Nat :=
  let cx := xs.map coordOf
  let cy := ys.map coordOf
  let cs := if mul then (toSet cx).filter fun c => cy.contains c else toSet (cx ++ cy)
  (cs.take vl).map fun c =>
    let v := if mul then valAt xs c * valAt ys c else valAt xs c + valAt ys c
    c * 2 ^ 16 + v % 2 ^ 16

/-- `vp.spdot` (R375). -/
def spDot (fmt : Nat) (xs ys : List Nat) : Int :=
  let cs := (toSet (xs.map coordOf)).filter fun c => (ys.map coordOf).contains c
  (cs.map fun c => wide16 fmt (valAt xs c) * wide16 fmt (valAt ys c)).sum

/-- Whether coordinates rise strictly (R373). -/
def coordsRise : List Nat → Bool
  | x :: y :: r => decide (coordOf x < coordOf y) && coordsRise (y :: r)
  | _ => true

/-- `vp.spbuild` (R376), from element index `i` on. -/
def spBuild : Nat → List Nat → List Nat
  | _, [] => []
  | i, x :: r => if val16 x = 0 then spBuild (i + 1) r else (i * 2 ^ 16 + val16 x) :: spBuild (i + 1) r

/-- A SPARSE result (R121, R374, R376). -/
def sparseReg (vl : Nat) (xs : List Nat) : VReg :=
  ⟨.sparse, false, BitVec.ofNat 12 xs.length, BitVec.ofNat 11 vl, sparseKey, listV xs⟩

/-- A GATE source element: zero at and above the extent (R300). -/
def gateElem (r : VReg) (vl i : Nat) : Nat := if i < extent r vl then elem 32 r.bits i else 0

/-- The VL elements of a GATE source (R300). -/
def gateList (r : VReg) (vl : Nat) : List Nat := (List.range vl).map (gateElem r vl)

/-- `vp.topk` (R301): groups of `E`, the first `k` of each in stable order; `fuel` bounds the number of groups. -/
def topkGroups (vk : Key) (E k : Nat) : Nat → List Nat → List Nat
  | 0, _ => []
  | n + 1, xs =>
    if xs.isEmpty then [] else (sortRun vk (xs.take E)).take k ++ topkGroups vk E k n (xs.drop E)

/-- `vp.hist` (R302): the count of bin `b` over the extent. -/
def histBin (xs : List Nat) (b : Nat) : Nat := (xs.filter fun x => x == b).length

/-- `vp.scan` and `vp.scani` (R303), modulo 2^32. -/
def scanElem (incl : Bool) (src : Nat → Nat) (i : Nat) : Nat := sumTo src (if incl then i + 1 else i) % 2 ^ 32

/-- `vp.gperm` (R304). -/
def gpermElem (vs1 vs2 : VReg) (vl i : Nat) : Nat :=
  let id := gateElem vs2 vl i
  (gateElem vs1 vl id + countTo (fun j => gateElem vs2 vl j == id) i) % 2 ^ 32

end Sys2Proof.Machine
end

