-- ==== Sys2Proof/Machine/Memory.lean ====
section
/-! DEFINITION. The physical map, homes of lines, reading and writing memory with everything a write brings: stamps,
links, replicas, scalar L1s, checks (R179 to R188, R210, R237 to R244, R257, R361, R402). -/

namespace Sys2Proof.Machine

/-- Bytes of device HBM: 768 GiB (R179). -/
def hbmSize : Nat := 768 * 2 ^ 30
/-- Where Basket offsets begin among locations. -/
def bskLoc : Nat := 2 ^ 44
/-- Where host bus addresses begin among locations. -/
def hostLoc : Nat := 2 ^ 60
/-- Where the addresses of a Wale target begin among locations. -/
def waleLoc (target : Nat) : Nat := (target + 1) * 2 ^ 64

/-- What serves a location (R361). -/
inductive Place where
  | hbm | basket | host | wale
  deriving DecidableEq, Repr

/-- What serves a location. -/
def placeOf (loc : Nat) : Place :=
  if loc < bskLoc then .hbm else if loc < hostLoc then .basket else if loc < 2 ^ 64 then .host else .wale

/-- Whether a location is device memory: HBM or the Basket. -/
def isDevice (loc : Nat) : Bool := decide (loc < hostLoc)

/-- Basket partition of a die in bytes (R186). -/
def basketBytes (s : State) (die : Nat) : Nat := sget 0 s.basket die * 1024

/-- The location of a Basket offset, where its slice's partition holds the byte (R187). -/
def basketAt (s : State) (o : Nat) : Option Nat :=
  if o % 2 ^ 19 < basketBytes s (o / 2 ^ 19 / 512) then some (bskLoc + o) else none

/-- Whether an address lies in a range given by its base and size. -/
def inRange (base size a : Nat) : Bool := decide (base ≤ a) && decide (a < base + size)

/-- The Wale window that holds a physical address, with its record. -/
def waleOf (m : PhysMap) (pa : Nat) : Option WaleWindow :=
  (m.wale.find? fun w => inRange w.2.base w.2.size pa).map fun w => w.2

/-- Whether a bus address falls in a BAR of the device itself (R361, R388). -/
def inOwnBar (m : PhysMap) (bus : Nat) : Bool := m.bars.any fun r => inRange r.1 r.2 bus

/-- The location a physical address names; `none` is outside every mapped physical range (R361, R187), or in a Wale window that has not
answered the focus strand in time (R396). -/
def locOf (s : State) (pa : Nat) : Option Nat :=
  if 2 ^ 56 ≤ pa then none
  else
    let inHbm := match s.map.hbmb with
      | some b => inRange b hbmSize pa
      | none => false
    let inBsk := match s.map.bskb with
      | some b => inRange b (2 ^ 30) pa
      | none => false
    let inHost := match s.map.hostb with
      | some b => inRange b s.map.hostsz pa
      | none => false
    if inHbm then some (pa - s.map.hbmb.getD 0)
    else if inBsk then basketAt s (pa - s.map.bskb.getD 0)
    else if inHost then
      (if inOwnBar s.map (pa - s.map.hostb.getD 0) then none else some (hostLoc + (pa - s.map.hostb.getD 0)))
    else
      match waleOf s.map pa with
      | some w => if s.timedOut.contains (s.gid, w.base) then none else some (waleLoc w.target + (w.tbase + (pa - w.base)))
      | none => none

/-- The physical address of a location of the device, for the log. -/
def paOf (s : State) (loc : Nat) : Nat :=
  if loc < bskLoc then (s.map.hbmb.getD 0) + loc else if loc < hostLoc then (s.map.bskb.getD 0) + (loc - bskLoc) else loc

/-- The 128-byte line of a location (R179). -/
def lineOf (loc : Nat) : Nat := loc / 128

/-- The home die of a line of HBM, or of the Basket (R179, R187). -/
def homeDie (line : Nat) : Nat :=
  let loc := line * 128
  if loc < bskLoc then loc / 0x3000000000 else (loc - bskLoc) / 2 ^ 19 / 512

/-- Column g of an HBM offset (R179). -/
def columnOf (h : Nat) : Nat := bits h 7 3

/-- Row q of an HBM offset (R179). -/
def rowOf (h : Nat) : Nat := bits h 10 6 ^^^ bits h 16 6 ^^^ bits h 22 6 ^^^ bits h 28 6 ^^^ bits h 34 6

/-- The slice of a die that R179's column and row give for an address. -/
def sliceOn (die h : Nat) : Nat := die * 512 + (64 * columnOf h + rowOf h)

/-- The home slice of a line of HBM or the Basket, as die · 512 + slice (R179, R187). -/
def homeSlice (line : Nat) : Nat :=
  let loc := line * 128
  if loc < bskLoc then sliceOn (homeDie line) loc else (loc - bskLoc) / 2 ^ 19

/-- The slice that serves a die's reads of a line: its home, or the guest slice of a die that keeps a replica (R244). -/
def servingSlice (s : State) (die line : Nat) : Nat :=
  if s.replicas.any fun r => r.die == die && r.line == line then die * 512 + homeSlice line % 512 else homeSlice line

/-- The distinct lines of locations `loc` to `loc + n - 1`, ascending. -/
def linesOf (loc n : Nat) : List Nat :=
  if n = 0 then [] else (List.range ((loc + n - 1) / 128 - loc / 128 + 1)).map fun i => loc / 128 + i

/-- Whether a frame image still holds a location (R347). -/
def Image.holds (m : Image) (loc : Nat) : Bool := inRange m.base m.len loc && !m.gone.contains loc

/-- The latest frame image that holds a location, where one does (R347): save areas lie in device HBM (R349). -/
def imageAt (s : State) (loc : Nat) : Option Image := if loc < bskLoc then s.images.find? fun m => m.holds loc else none

/-- A byte as its home, or the host or the Wale peer, holds it; a byte of a frame is the implementation's own (R347). -/
def homeByte (s : State) (loc : Nat) : Byte :=
  match imageAt s loc with
  | some m => Config.frameByte m.seed (loc - m.base)
  | none => sget 0 s.mem loc

/-- The replica of a line in a die, where the die keeps one (R244). -/
def replicaAt (s : State) (die line : Nat) : Option Replica :=
  s.replicas.find? fun r => r.die == die && r.line == line

/-- Whether a vector atomic holds the lock of a line (R255). -/
def lineLocked (s : State) (line : Nat) : Bool := (sliceAt s (homeSlice line)).locks.any fun p => p.1 == line

/-- Whether a line among those given is locked: every other access waits (R255). -/
def blocked (s : State) (lines : List Nat) : Bool := lines.any (lineLocked s)

/-- Ways of a cache set of a slice (R184). -/
def cacheWays (s : State) (slice : Nat) : Nat := 16 - sget 0 s.basket (slice / 512) / 32

/-- The set of a slice's cache that a line falls into (R184). -/
def setOf (line : Nat) : Nat := Config.cacheSet line % 256

/-- The line that leaves a slice's cache for another (R185, R402): where its set has no way left, the least recently used line of the
set whose check does not fail and that is not locked. -/
def victimLine (s : State) (sl line : Nat) : Option Nat :=
  let c := (sliceAt s sl).cache
  if c.length < cacheWays s sl then none
  else
    let set := c.filter fun l => setOf l == setOf line
    if set.length < cacheWays s sl then none else set.reverse.find? fun l => !s.errs.contains l && !lineLocked s l

/-- Whether a set of a slice's cache has no room left for a line, nor a line that may leave it. -/
def setFull (s : State) (sl line : Nat) : Bool :=
  let c := (sliceAt s sl).cache
  decide (cacheWays s sl ≤ c.length) && decide (cacheWays s sl ≤ (c.filter fun l => setOf l == setOf line).length) &&
    (victimLine s sl line).isNone

/-- A replica dropped by its guest, and its bit cleared at the home (R244); the die's scalar L1s no longer hold the line
(R183). -/
def dropReplica (s : State) (die line : Nat) : State :=
  let i := lineAt s line
  { s with
    lines := sput LineInfo.reset s.lines line { i with guests := i.guests &&& ~~~BitVec.ofNat 4 (2 ^ die) }
    replicas := s.replicas.filter fun r => !(r.die == die && r.line == line)
    updates := s.updates.filter fun u => !(u.die == die && u.line == line)
    l1 := s.l1.filter fun p => !(p.1 / 128 == die && p.2 == line) }

/-- A line that leaves a slice's cache: it leaves the die's scalar L1s first (R183), and a replica is dropped (R244). -/
def evictLine (s : State) (sl line : Nat) : State :=
  let s := onSlice s sl fun k => { k with cache := k.cache.filter fun l => l != line }
  if homeSlice line = sl then { s with l1 := s.l1.filter fun p => !(p.1 / 128 == sl / 512 && p.2 == line) }
  else dropReplica s (sl / 512) line

/-- A line of HBM used in a slice: refreshed where the slice holds it; else inserted, at the most recent position or at the least
recent, where the access inserts it (R185). -/
def cacheLine (s : State) (sl line : Nat) (insert high : Bool) : State :=
  if bskLoc ≤ line * 128 then s
  else if (sliceAt s sl).cache.contains line then onSlice s sl fun k => { k with cache := line :: k.cache.erase line }
  else if !insert || setFull s sl line then s
  else
    let s := match victimLine s sl line with
      | some v => evictLine s sl v
      | none => s
    onSlice s sl fun k => { k with cache := if high then line :: k.cache else k.cache ++ [line] }

/-- A line put into a core's scalar L1 of 64 sets of 8 ways, least recently used out (R182): where the die's slice holds the line,
as home or as replica (R183), and a Basket line only on its own die (R188). -/
def fillL1 (s : State) (core line : Nat) : State :=
  let die := core / 128
  let sl := servingSlice s die line
  if hostLoc ≤ line * 128 || !(decide (homeDie line = die) || s.replicas.any fun r => r.die == die && r.line == line) ||
    (decide (line * 128 < bskLoc) && !(sliceAt s sl).cache.contains line) then s
  else
    let rest := s.l1.filter fun p => p != (core, line)
    let mine := rest.filter fun p => p.1 == core
    let set := if mine.length < 8 then [] else mine.filter fun p => Config.cacheSet p.2 % 64 == Config.cacheSet line % 64
    { s with l1 := (core, line) :: match (if set.length < 8 then none else set.getLast?) with
      | some v => rest.filter fun p => p != v
      | none => rest }

/-- A byte as a read by a strand of a die finds it: in the die's replica, or at the home (R237). -/
def readByte (s : State) (die loc : Nat) : Byte :=
  match replicaAt s die (lineOf loc) with
  | some r => r.bytes.getD (loc % 128) 0
  | none => homeByte s loc

/-- `n` bytes at a location as a strand of a die reads them. -/
def readBytes (s : State) (die loc n : Nat) : List Byte := (List.range n).map fun i => readByte s die (loc + i)

/-- `n` bytes at a location as its home holds them. -/
def homeBytes (s : State) (loc n : Nat) : List Byte := (List.range n).map fun i => homeByte s (loc + i)

/-- The number that `n` bytes at a location form at the home. -/
def homeNat (s : State) (loc n : Nat) : Nat := ofBytes (homeBytes s loc n)

/-- The byte that the owner of a line holds for a location and has not written yet, where there is one (R194). -/
def ownedByte (s : State) (loc : Nat) : Option Byte :=
  if hostLoc ≤ loc then none
  else
    ((sliceAt s (homeSlice (lineOf loc))).owned.find? fun p => p.1 == lineOf loc).bind fun p =>
      (s.copies.find? fun j => copyAgent j.gid j.tag == p.2).bind fun j =>
        (j.held.find? fun q => q.1 == lineOf loc).bind fun q => (q.2.reverse.find? fun w => w.1 == loc).map Prod.snd

/-- A byte as a walker, a block or the front end reads it: an owner completes its write of the line first (R194). -/
def seenByte (s : State) (loc : Nat) : Byte := (ownedByte s loc).getD (homeByte s loc)

/-- `n` bytes at a location as a walker reads them. -/
def seenBytes (s : State) (loc n : Nat) : List Byte := (List.range n).map fun i => seenByte s (loc + i)

/-- A byte as the front end or a block of a die reads it: in the die's replica, or at the home. -/
def seenOn (s : State) (die loc : Nat) : Byte :=
  match replicaAt s die (lineOf loc) with
  | some r => r.bytes.getD (loc % 128) 0
  | none => seenByte s loc

/-- Whether a read of `n` bytes at a location meets an uncorrectable error (R402). -/
def readFails (s : State) (loc n : Nat) : Bool := (linesOf loc n).any fun l => s.errs.contains l

/-- A frame image after a write to a location. -/
def Image.drop (m : Image) (loc : Nat) : Image := if m.holds loc then { m with gone := loc :: m.gone } else m

/-- Memory with one byte written (R238); nothing else of the state changes but the frame images that held the byte. -/
def pokeByte (s : State) (loc : Nat) (b : Byte) : State :=
  { s with mem := sput 0 s.mem loc b, images := s.images.map fun m => m.drop loc }

/-- Memory with consecutive bytes written. -/
def pokeBytes : State → Nat → List Byte → State
  | s, _, [] => s
  | s, loc, b :: r => pokeBytes (pokeByte s loc b) (loc + 1) r

/-- Memory with a list of bytes written, a later one over an earlier one (R104). -/
def pokeList : State → List (Nat × Byte) → State
  | s, [] => s
  | s, (loc, b) :: r => pokeList (pokeByte s loc b) r

/-- The vector clock a write issued on a die carries (R244). -/
def writeClock (s : State) (die : Nat) : Clock4 :=
  (clockAt s die).put die ((clockAt s die).get die + 1)

/-- The bytes of a line at its home. -/
def lineBytes (s : State) (line : Nat) : List Byte := homeBytes s (line * 128) 128

/-- Serial order of stamps (R210): stamp `t` is later than stamp `u` when `(t − u) mod 2^32` lies in 1 to 2^31 − 1 (R210). -/
def laterStamp (t u : BitVec 32) : Bool := decide (1 ≤ (t - u).toNat) && decide ((t - u).toNat < 2 ^ 31)

/-- A replica after an update (R210, R238): bytes that its own die wrote later keep their value. R244 gives the home's line the clock of its
latest write and does not say what a replica's is: here the latest applied write's by stamp, and beside it the maximum over all of them, which a
reader acquires (DESIGN CHOICE; log entry 103). -/
def Replica.take (r : Replica) (u : Update) : Replica :=
  if laterStamp u.stamp r.stamp then
    { r with
      stamp := u.stamp
      clock := r.clock.max u.clock
      bytes := (List.range 128).map fun i =>
        if r.own.any fun p => p.1 == i && laterStamp p.2 u.stamp then r.bytes.getD i 0 else u.bytes.getD i 0
      own := r.own.filter fun p => laterStamp p.2 u.stamp }
  else r

/-- An update applied to the replica of its guest, where the guest still holds one (R244); the die's scalar L1s lose the line
(R183). -/
def applyUpdate (s : State) (u : Update) : State :=
  { s with
    replicas := s.replicas.map fun r => if r.die == u.die && r.line == u.line then r.take u else r
    l1 := s.l1.filter fun p => !(p.1 / 128 == u.die && p.2 == u.line) }

/-- A write of a strand of a die that keeps a replica of the line, applied at once (R244): the bytes written, and no others; a scalar
writer's own L1 copy (`keep`) is updated, the others on the die are gone (R182, R183). -/
def applyOwn (die line : Nat) (keep : Option Nat) (stamp : BitVec 32) (v : Clock4) (ws : List (Nat × Byte)) (s : State) : State :=
  { s with
    replicas := s.replicas.map fun r =>
      if r.die == die && r.line == line then
        { r with
          clock := r.clock.max v
          bytes := ws.foldl (fun bs w => bs.set (w.1 % 128) w.2) r.bytes
          own := (ws.map fun w => (w.1 % 128, stamp)) ++ r.own.filter fun p => !(ws.any fun w => w.1 % 128 == p.1) }
      else r
    l1 := s.l1.filter fun p => !(p.1 / 128 == die && p.2 == line && keep != some p.1) }

/-- The dies a guest mask names. -/
def guestsOf (m : BitVec 4) : List Nat := (List.range 4).filter fun d => m.getLsbD d

/-- The updates of one write sent to its guests (R244). -/
def sendUpdates (die line : Nat) (stamp : BitVec 32) (v : Clock4) (bs : List Byte) (gs : List Nat) (s : State) : State :=
  { s with updates := s.updates ++ gs.map fun g => ⟨g, line, stamp, die, v, bs⟩ }

/-- RESTAMP (R210): the next count for a line with guests, its value and clock unchanged, sent to every guest. -/
def restamp (s : State) (line : Nat) : State :=
  let i := lineAt s line
  if i.guests = 0 then s
  else
    let sl := homeSlice line
    let stamp := (sliceAt s sl).counter + 1
    let s := onSlice s sl fun k => { k with counter := stamp }
    let s := putLine s line { i with stamp := stamp }
    sendUpdates (homeDie line) line stamp i.clock (lineBytes s line) (guestsOf i.guests) s

/-- A line with guests whose stamp the slice's counter leaves 2^30 behind at its next count (R210). -/
def dueLine (s : State) (sl : Nat) : Option Nat :=
  (s.lines.find? fun p => p.2.guests != 0 && homeSlice p.1 == sl &&
    decide (2 ^ 30 ≤ ((sliceAt s sl).counter + 1 - p.2.stamp).toNat)).map Prod.fst

/-- Such lines restamped one after another, each with its own count, until there is none (R210). -/
def restampLines (sl : Nat) : Nat → State → State
  | 0, s => s
  | n + 1, s =>
    match dueLine s sl with
    | some l => restampLines sl n (restamp s l)
    | none => s

/-- Every line with guests whose stamp the slice's counter is about to leave 2^30 behind is restamped (R210): each at most once, since
a count just drawn is not left behind. -/
def restampDue (s : State) (sl : Nat) : State := restampLines sl s.lines.length s

/-- Deferred barrier waits on a line, split into those whose phase the line now leaves and the rest (R263). -/
def answered (s : State) (line : Nat) (d : Deferred) : Bool :=
  match d with
  | .bwait _ loc ph => lineOf loc == line && decide (BitVec.ofNat 32 (homeNat s (loc + 8) 4) ≠ ph)
  | .fld _ _ _ => false

/-- The answers that a list of deferred barrier waits gets, with the clock of the write that ends them (R251, R263). -/
def phaseMsgs (s : State) (clock : Clock4) (ds : List Deferred) : List Msg :=
  ds.filterMap fun d =>
    match d with
    | .bwait gid loc _ => some (.phase gid loc (BitVec.ofNat 32 (homeNat s (loc + 8) 4)) clock)
    | .fld _ _ _ => none

/-- What the acceptance of one write to a device line brings (R183, R210, R244, R257, R263): the next stamp and the
writer's clock, every link on the line broken, scalar L1 copies on the home die invalidated except a scalar
writer's own, guests updated, the writer's own replica at once, deferred barrier waits tested again, the line inserted at
high priority (R185); a line with guests is restamped before the counter is 2^30 past its stamp (R210). `keep` is the core of a
scalar writer, `clock` the clock that the write carries where its flits brought one (R202), `ws` what is written. -/
def acceptLine (s : State) (die line : Nat) (keep : Option Nat) (clock : Option Clock4) (ws : List (Nat × Byte)) : State :=
  let sl := homeSlice line
  let stamp := (sliceAt s sl).counter + 1
  let v := clock.getD (writeClock s die)
  let past := (lineAt s line).past.max v
  let hit := (sliceAt s sl).deferred.filter (answered s line)
  let s := onSlice s sl fun c =>
    { c with
      counter := stamp
      links := c.links.filter fun l => l.line != line
      deferred := c.deferred.filter fun d => !answered s line d }
  let s := { s with
    wire := s.wire ++ phaseMsgs s past hit
    l1 := s.l1.filter fun p => !(p.2 == line && p.1 / 128 == homeDie line && keep != some p.1)
    openEpochs := addOnce die s.openEpochs }
  let g := (lineAt s line).guests
  let s := putLine s line ⟨stamp, v, g, past⟩
  let s := sendUpdates die line stamp v (lineBytes s line) (guestsOf g) s
  let s := if g.getLsbD die then applyOwn die line keep stamp v (ws.filter fun w => lineOf w.1 == line) s else s
  cacheLine (restampDue s sl) sl line true true

/-- LR reservations on a line ended by a write to it (R36). -/
def breakReservations (s : State) (line : Nat) : State :=
  (s.gid :: s.peers.map Prod.fst).foldl (fun s g =>
    let t := strandAt s g
    if t.reservation = some line then putStrand s g { t with reservation := none } else s) s

/-- The acceptance of writes to several distinct lines, each stamped once, in the order given (R210, R222). -/
def acceptLines (die : Nat) (keep : Option Nat) (ws : List (Nat × Byte)) : List Nat → State → State
  | [], s => s
  | l :: r, s =>
    let s := breakReservations s l
    acceptLines die keep ws r (if l * 128 < hostLoc then acceptLine s die l keep none ws else s)

/-- A check cleared on each line whose every byte is written (R402). -/
def clearErrs (s : State) (lines : List Nat) : State := { s with errs := s.errs.filter fun l => !lines.contains l }

/-- Whether a set of written locations covers every byte of a line. -/
def coversLine (locs : List Nat) (line : Nat) : Bool := (List.range 128).all fun i => locs.contains (line * 128 + i)

/-- The lines a write may not be performed on: their check fails and the write does not cover them (R402). -/
def refusedLines (s : State) (locs lines : List Nat) : List Nat :=
  lines.filter fun l => s.errs.contains l && !coversLine locs l

/-- The values that lines of HBM have before a write to them: HBM itself may still hold any of them (R406). -/
def noteHbm (s : State) (lines : List Nat) : State :=
  let note := fun (h : List (Nat × List (List Byte))) (l : Nat) => sput [] h l (lineBytes s l :: sget [] h l)
  { s with hbm := List.foldl note s.hbm (lines.filter fun l => decide (l * 128 < bskLoc)) }

/-- One write of consecutive bytes at its home, with all it brings; the caller has checked R402. -/
def homeWrite (s : State) (die loc : Nat) (bs : List Byte) (keep : Option Nat) : State :=
  let ls := linesOf loc bs.length
  let locs := (List.range bs.length).map fun i => loc + i
  let s := pokeBytes (clearErrs (noteHbm s ls) (ls.filter (coversLine locs))) loc bs
  acceptLines die keep (locs.zip bs) ls s

/-- One write of some bytes of a device line, with the clock that its flits brought; the caller has checked R402. -/
def lineWrite (s : State) (die line : Nat) (clock : Option Clock4) (keep : Option Nat) (ws : List (Nat × Byte)) : State :=
  let s := pokeList (clearErrs (noteHbm s [line]) ([line].filter (coversLine (ws.map Prod.fst)))) ws
  acceptLine (breakReservations s line) die line keep clock ws

/-- The distinct lines of a list of locations, ascending. -/
def linesOfLocs (locs : List Nat) : List Nat := toSet (locs.map lineOf)

/-- The writes of one vector store or scatter, in element order: every byte set, each line accepted once (R104, R222). -/
def homeScatter (s : State) (die : Nat) (ws : List (Nat × Byte)) : State :=
  let locs := ws.map Prod.fst
  let ls := linesOfLocs locs
  let s := pokeList (clearErrs (noteHbm s ls) (ls.filter (coversLine locs))) ws
  acceptLines die none ws ls s

/-- The clock that a read of a line at its home acquires: no write of a byte of the line has a larger one (R244, R245). -/
def homeClock (s : State) (line : Nat) : Clock4 := (lineAt s line).past

/-- The clock of a line's value as a die reads it: of the replica, or of the line at its home (R244). -/
def nearClock (s : State) (die line : Nat) : Clock4 :=
  match replicaAt s die line with
  | some r => r.clock
  | none => homeClock s line

/-- The largest of the clocks of some lines' values. -/
def clocksOf (clock : Nat → Clock4) (lines : List Nat) (c : Clock4) : Clock4 := lines.foldl (fun c l => c.max (clock l)) c

/-- The clocks of values returned to a scalar read, remembered until the next acquire (R242, R244). -/
def noteScalar (s : State) (clock : Nat → Clock4) (lines : List Nat) : State :=
  { s with t := { s.t with seen := clocksOf clock lines s.t.seen } }

/-- The clocks of values returned to a vector read, likewise. -/
def noteRead (s : State) (clock : Nat → Clock4) (lines : List Nat) : State :=
  { s with t := { s.t with seenV := clocksOf clock lines s.t.seenV } }

/-- The open epoch of a die closed (R244). -/
def closeEpoch (s : State) (die : Nat) : State :=
  let c := clockAt s die
  { s with
    clocks := sput Clock4.zero s.clocks die (c.put die (c.get die + 1))
    openEpochs := s.openEpochs.filter fun d => d != die }

/-- A release by a strand of the focus strand's die: the open epoch closes (R244). -/
def release (s : State) : State := closeEpoch s (dieOf s.gid)

/-- The epoch an update's write belongs to (R244). -/
def epochOf (u : Update) : Nat := (u.clock.get u.origin).toNat - 1

/-- The frontier P_f[e] (R244): the epochs of die e below it have been applied on f. -/
def frontier (s : State) (f e : Nat) : Nat :=
  ((s.updates.filter fun u => u.die == f && u.origin == e).map epochOf).foldl Nat.min ((clockAt s e).get e).toNat

/-- All updates on their way to a guest applied, in order. -/
def drainUpdates (s : State) (f : Nat) : State :=
  let mine := s.updates.filter fun u => u.die == f
  mine.foldl applyUpdate { s with updates := s.updates.filter fun u => u.die != f }

/-- The wait of an acquire for die e's frontier on f: e's epoch closes, as it does within 256 Weave cycles, and the
updates are applied (R244). -/
def awaitFrontier (q : Clock4) (f : Nat) : List Nat → State → State
  | [], s => s
  | e :: r, s =>
    let s :=
      if e ≠ f ∧ frontier s f e < (q.get e).toNat then
        drainUpdates (if ((clockAt s e).get e).toNat < (q.get e).toNat then closeEpoch s e else s) f
      else s
    awaitFrontier q f r s

/-- A die's clock after an acquire of the focus strand that has reached a clock (R244). -/
def mergeClock (s : State) (q : Clock4) : State :=
  let f := dieOf s.gid
  let c := clockAt s f
  { s with clocks := sput Clock4.zero s.clocks f ((c.max q).put f (c.get f)) }

/-- An acquire by the focus strand of its scalar and vector accesses, with a further clock (R244, R251): Q_t takes what its reads
returned; the die's clock follows, and the frontier has reached it before a younger read. -/
def acquireWith (s : State) (extra : Clock4) : State :=
  let q := (s.t.qclock.max (s.t.seen.max s.t.seenV)).max extra
  let s := mergeClock { s with t := { s.t with qclock := q, sclock := s.t.sclock.max q, seen := Clock4.zero, seenV := Clock4.zero } } q
  awaitFrontier q (dieOf s.gid) [0, 1, 2, 3] s

/-- A scalar acquire (R242): it orders the strand's scalar accesses alone, whose reads from a replica wait for its clock. -/
def acquireScalar (s : State) : State :=
  let q := s.t.sclock.max s.t.seen
  mergeClock { s with t := { s.t with sclock := q } } q

/-- The wait of a scalar read of a line of which the die keeps a replica, until the frontier has reached what the strand's scalar acquires
have (R242, R244). -/
def awaitScalar (s : State) (line : Nat) : State :=
  if (replicaAt s (dieOf s.gid) line).isSome then awaitFrontier s.t.sclock (dieOf s.gid) [0, 1, 2, 3] s else s

/-- An acquire with no further clock. -/
def acquire (s : State) : State := acquireWith s Clock4.zero

/-- Every update of a die's writes applied at every guest that still awaits one (R241, R246): the guest applies what is on its way
to it. -/
def spread (s : State) (die : Nat) : State :=
  [0, 1, 2, 3].foldl (fun s f => if s.updates.any fun u => u.die == f && u.origin == die then drainUpdates s f else s) s

/-- A read at the home by a strand of a die whose replica of the line lags: the replica takes what is on its way to it, so that
no later read of the strand returns an earlier write (R238). -/
def catchUp (s : State) (die : Nat) (lines : List Nat) : State :=
  if lines.any fun l => (replicaAt s die l).isSome && s.updates.any fun u => u.die == die && u.line == l then drainUpdates s die
  else s

/-- `vm.fence` at a scope (R241): the waits are over, since the strand's accesses are performed in order; DIE and wider
release and acquire; PACKAGE and wider have every write of the strand applied at every guest. -/
def fenceAt (s : State) (scope : Nat) : State :=
  let s := if 3 ≤ scope then acquire (release s) else s
  if 4 ≤ scope then spread s (dieOf s.gid) else s

/-- A `vm.fence` performed, by itself or as the first act of another instruction: a copy after it reads what the strand's scalar stores
before it wrote (R241, R248). -/
def performFence (s : State) (scope : Nat) : State := fenceAt { s with t := { s.t with unfenced := [] } } scope

end Sys2Proof.Machine
end

