-- ==== Sys2Proof/Machine/Translate.lean ====
section
/-! DEFINITION. Translation: Bare and Sv57 walks, permissions, TLBs, the Format Table (R147 to R150, R361 to R368). -/

namespace Sys2Proof.Machine

/-- What an access asks of a page (R364). -/
inductive Acc where
  | read | write | fetch
  deriving DecidableEq, Repr

/-- How a translation fails (R364): a page fault, a walk or an access outside the map, an uncorrectable error in a PTE. -/
inductive XFault where
  | page | access | dataErr
  deriving DecidableEq, Repr

/-- A translated address: the physical address, the page's size and base, its FAI, and the Format Table entry held with a
TLB entry (R148, R365). -/
structure Page where
  pa : Nat
  /-- log2 of the page size -/
  size : Nat
  fai : Nat
  held : Option (List Byte)

/-- Whether an address is canonical under Sv57: bits [63:57] equal bit 56 (R362). -/
def canonical (va : Nat) : Bool := if bits va 56 1 = 1 then bits va 57 7 == 127 else bits va 57 7 == 0

/-- VPN field of a level (R362). -/
def vpnOf (va level : Nat) : Nat := bits va (12 + 9 * level) 9

/-- Bit of a PTE (R363). -/
def pteBit (pte i : Nat) : Bool := bits pte i 1 == 1

/-- PPN of a PTE (R363). -/
def ptePpn (pte : Nat) : Nat := bits pte 10 44

/-- FAI of a PTE (R147, R363). -/
def pteFai (pte : Nat) : Nat := bits pte 54 7

/-- The permission checks of a leaf, from its low eight bits (R363, R364). -/
def permOk (xl : Xlate) (acc : Acc) (perms : Nat) : Bool :=
  let r := pteBit perms 1
  let w := pteBit perms 2
  let x := pteBit perms 3
  let u := pteBit perms 4
  let a := pteBit perms 6
  let d := pteBit perms 7
  let who := match xl.mode with
    | .user => u
    | .supervisor => !u || (xl.sum && decide (acc ≠ .fetch))
    | .machine => true
  let what := match acc with
    | .read => r || (xl.mxr && x)
    | .write => w && d
    | .fetch => x
  who && what && a

/-- The physical address of a leaf at a level. -/
def leafPa (ppn level va : Nat) : Nat := ppn * 4096 + va % 2 ^ (12 + 9 * level)

/-- A leaf found by a walk; a pointer with G makes every mapping below it global. -/
structure Leaf where
  pte : Nat
  level : Nat
  global : Bool

/-- Whether a pointer PTE may be followed: FAI 0 (R363), and U, A and D, which the Privileged specification reserves in a pointer,
are 0. -/
def pointerOk (pte : Nat) : Bool := decide (pteFai pte = 0) && !pteBit pte 4 && !pteBit pte 6 && !pteBit pte 7

/-- The Sv57 walk from a table at a PPN down through the given number of levels (R362, R363, R366): each PTE is read at its
home slice. -/
def walkFrom (s : State) (va : Nat) : Nat → Nat → Except XFault Leaf
  | 0, _ => .error .page
  | n + 1, ppn =>
    match locOf s (ppn * 4096 + 8 * vpnOf va n) with
    | none => .error .access
    | some loc =>
      if readFails s loc 8 then .error .dataErr
      else
        let pte := ofBytes (seenBytes s loc 8)
        if !pteBit pte 0 || (pteBit pte 2 && !pteBit pte 1) then .error .page
        else if !pteBit pte 1 && !pteBit pte 3 then
          (if pointerOk pte then (walkFrom s va n (ptePpn pte)).map fun l => { l with global := l.global || pteBit pte 5 }
           else .error .page)
        else if ptePpn pte % 2 ^ (9 * n) ≠ 0 then .error .page
        else .ok ⟨pte, n, pteBit pte 5⟩

/-- ASID of `datp` (R49). -/
def datpAsid (datp : Word) : Nat := bits datp.toNat 44 16
/-- MODE of `datp` is Sv57 (R49, R362). -/
def datpSv57 (datp : Word) : Bool := bits datp.toNat 60 4 == 10

/-- Whether a TLB entry translates an address under an ASID (R365). -/
def tlbHits (asid va : Nat) (e : TlbEntry) : Bool :=
  e.vpage == va / 2 ^ (12 + 9 * e.level) && (e.global || e.asid == asid)

/-- The translation of an address that the entry now performed holds since its fault point (R367). -/
def heldLookup (s : State) (core asid va : Nat) : Option TlbEntry :=
  match s.t.replay with
  | some e => e.held.find? fun h => h.core == core && tlbHits asid va h
  | none => none

/-- What translates an address for a core: what the entry now performed holds, else an entry of the core's L1 TLB, else of its
cluster's L2 TLB (R365, R367). -/
def tlbLookup (s : State) (core asid va : Nat) : Option TlbEntry :=
  heldLookup s core asid va <|> match s.tlbs.find? fun e => !e.l2 && e.core == core && tlbHits asid va e with
  | some e => some e
  | none => s.tlbs.find? fun e => e.l2 && e.core == clusterOfCore core && tlbHits asid va e

/-- Whether an agent's accesses are translated: Sv57 in `datp`, below machine mode (R362). -/
def isTranslated (xl : Xlate) : Bool := datpSv57 xl.datp && decide (xl.mode ≠ .machine)

/-- The lines of the PTEs that a walk reads. -/
def walkLines (s : State) (va : Nat) : Nat → Nat → List Nat
  | 0, _ => []
  | n + 1, ppn =>
    match locOf s (ppn * 4096 + 8 * vpnOf va n) with
    | none => []
    | some loc =>
      let pte := ofBytes (seenBytes s loc 8)
      lineOf loc :: if pteBit pte 0 && !pteBit pte 1 && !pteBit pte 2 && !pteBit pte 3 then walkLines s va n (ptePpn pte) else []

/-- Whether the walk for an address of a core waits for a line that a vector atomic has locked (R255). -/
def walkWaits (s : State) (core : Nat) (xl : Xlate) (va : Nat) : Bool :=
  isTranslated xl && (tlbLookup s core (datpAsid xl.datp) va).isNone &&
    (walkLines s va 5 (bits xl.datp.toNat 0 44)).any (lineLocked s)

/-- Translation of a virtual address for an access made by a core (R362 to R368). -/
def translate (s : State) (core : Nat) (xl : Xlate) (acc : Acc) (va : Nat) : Except XFault Page :=
  if !isTranslated xl then .ok ⟨va, 64, 0, none⟩
  else if !canonical va then .error .page
  else
    match tlbLookup s core (datpAsid xl.datp) va with
    | some e =>
      if permOk xl acc e.perms then
        .ok ⟨leafPa e.ppn e.level va, 12 + 9 * e.level, e.fai, if e.fmtb = xl.fmtb then e.fmtEntry else none⟩
      else .error .page
    | none =>
      match walkFrom s va 5 (bits xl.datp.toNat 0 44) with
      | .error f => .error f
      | .ok l =>
        if permOk xl acc (bits l.pte 0 8) then .ok ⟨leafPa (ptePpn l.pte) l.level va, 12 + 9 * l.level, pteFai l.pte, none⟩
        else .error .page

/-- Translation to a location, with the range check of R361. -/
def locate (s : State) (core : Nat) (xl : Xlate) (acc : Acc) (va : Nat) : Except XFault (Nat × Page) :=
  match translate s core xl acc va with
  | .error f => .error f
  | .ok p =>
    match locOf s p.pa with
    | some loc => .ok (loc, p)
    | none => .error .access

/-- The locations of `n` bytes from a virtual address on, each byte translated (an access may span pages, R106). -/
def locateBytes (s : State) (core : Nat) (xl : Xlate) (acc : Acc) (va : Nat) : Nat → Except XFault (List Nat)
  | 0 => .ok []
  | n + 1 =>
    match locateBytes s core xl acc va n with
    | .error f => .error f
    | .ok ls =>
      match locate s core xl acc ((va + n) % 2 ^ 64) with
      | .error f => .error f
      | .ok (l, _) => .ok (ls ++ [l])

/-- The page at which an address is translated: log2 of its size, and whether it is global (R259, R365); none in Bare mode or
where the walk fails. -/
def pageOf (s : State) (core : Nat) (xl : Xlate) (va : Nat) : Option (Nat × Bool) :=
  if !isTranslated xl then none
  else
    match tlbLookup s core (datpAsid xl.datp) va with
    | some e => some (12 + 9 * e.level, e.global)
    | none =>
      match walkFrom s va 5 (bits xl.datp.toNat 0 44) with
      | .ok l => some (12 + 9 * l.level, l.global)
      | .error _ => none

/-- The fields of a Format Table entry (R149). -/
structure FmtEntry where
  fmt : Nat
  /-- group size in positions, for INT4Q and INT8Q -/
  gs : Nat
  /-- kept values per group, for S8SP -/
  n : Nat
  mstride : Nat
  moff : Int
  deriving DecidableEq, Repr

/-- A Format Table entry from its 16 bytes; `none` where R150 calls it invalid. -/
def parseFmt (bs : List Byte) : Option FmtEntry :=
  let w0 := ofBytes (bs.take 4)
  let ms := ofBytes ((bs.drop 4).take 4)
  let mo := ofBytes ((bs.drop 8).take 8)
  let fmt := bits w0 1 5
  let gs := bits w0 6 2
  let n := bits w0 8 2
  let quant := fmt == 16 || fmt == 17
  if bits w0 0 1 = 0 || !fmtLegal fmt || bits w0 10 22 ≠ 0 || gs = 3 || n = 3 then none
  else if quant && (ms = 0 || ms % 4 ≠ 0 || mo % 4 ≠ 0) then none
  else if !quant && (gs ≠ 0 || ms ≠ 0 || mo ≠ 0) then none
  else if fmt ≠ 18 && n ≠ 0 then none
  else some ⟨fmt, 32 * 2 ^ gs, 2 ^ n, ms, sgn 64 mo⟩

/-- How a page's format is found out (R148, R106). -/
inductive FmtFound where
  /-- FAI 0: plain bytes -/
  | plain
  | format (e : FmtEntry)
  /-- `fmtb.V` = 0, or an invalid entry: FORMAT -/
  | invalid
  /-- the table's entry lies outside the map -/
  | access
  | dataErr

/-- The 16 bytes of a Format Table entry, read as a walker reads a PTE (R148). -/
def readFmtEntry (s : State) (fmtb : Word) (fai : Nat) : Except XFault (List Byte) :=
  match locOf s (bits fmtb.toNat 11 45 * 2 ^ 11 + 16 * fai) with
  | none => .error .access
  | some loc => if readFails s loc 16 then .error .dataErr else .ok (seenBytes s loc 16)

/-- The format of a page for a vector or matrix access (R147 to R150). -/
def pageFormat (s : State) (fmtb : Word) (p : Page) : FmtFound :=
  if p.fai = 0 then .plain
  else if bits fmtb.toNat 0 1 = 0 then .invalid
  else
    let raw : Except XFault (List Byte) := match p.held with
      | some bs => .ok bs
      | none => readFmtEntry s fmtb p.fai
    match raw with
    | .error .access => .access
    | .error _ => .dataErr
    | .ok bs =>
      match parseFmt bs with
      | some e => .format e
      | none => .invalid

end Sys2Proof.Machine
end

