-- ==== Sys2Proof/Machine/Copy.lean ====
section
/-! DEFINITION. The copy engines and the ownership of lines (R191 to R195, R233, R248). -/

namespace Sys2Proof.Machine

/-- An address modulo 2^64. -/
def wrapVa (x : Int) : Nat := (x % ((2 ^ 64 : Nat) : Int)).toNat

/-- Byte t of a copy, in the order of R193: the address it goes to. -/
def copyDst (j : CopyJob) (t : Nat) : Nat := wrapVa (j.dst.toNat + (t / j.rowlen : Nat) * j.dstride.toInt + (t % j.rowlen : Nat))

/-- The source address of byte t. -/
def copySrc (j : CopyJob) (t : Nat) : Nat := wrapVa (j.src.toNat + (t / j.rowlen : Nat) * j.sstride.toInt + (t % j.rowlen : Nat))

/-- The page of an address that a copy has translated for writes or for reads (R367). -/
def heldPage (j : CopyJob) (write : Bool) (va : Nat) : Option CopyPage :=
  j.pages.find? fun p => p.write == write && p.va == va / 2 ^ p.size

/-- The location of an address for a copy: under the translation it holds, else a fresh one (R367). -/
def copyLocate (s : State) (j : CopyJob) (write : Bool) (va : Nat) : Except XFault Nat :=
  match heldPage j write va with
  | some p =>
    match locOf s (p.pa + va % 2 ^ p.size) with
    | some loc => .ok loc
    | none => .error .access
  | none => (locate s (coreOf j.gid) j.xl (if write then .write else .read) va).map Prod.fst

/-- A copy that holds the translation of an address's page from now on (R367), where there is one. -/
def holdPage (s : State) (write : Bool) (j : CopyJob) (va : Nat) : CopyJob :=
  match heldPage j write va, translate s (coreOf j.gid) j.xl (if write then .write else .read) va, pageOf s (coreOf j.gid) j.xl va with
  | none, .ok p, some (size, global) => { j with pages := j.pages ++ [⟨write, va / 2 ^ size, size, p.pa - va % 2 ^ size, global, false⟩] }
  | _, _, _ => j

/-- The location of a byte that a copy reads, where it can be read. -/
def copyFrom (s : State) (j : CopyJob) (t : Nat) : Option Nat :=
  match copyLocate s j false (copySrc j t) with
  | .ok loc => if s.errs.contains (lineOf loc) then none else some loc
  | .error _ => none

/-- The location of a byte that a copy writes, where it translates. -/
def copyTo (s : State) (j : CopyJob) (t : Nat) : Option Nat := (copyLocate s j true (copyDst j t)).toOption

/-- Bytes from byte t of a copy on to the end of its row, or of its destination line (R193). -/
def pieceLen (j : CopyJob) (t : Nat) : Nat := Nat.min (j.rowlen - t % j.rowlen) (128 - copyDst j t % 128)

/-- The bytes of row r of a copy that go to a line of virtual addresses: the first, in the order of R193, and how many. -/
def rowInLine (j : CopyJob) (line r : Nat) : Nat × Nat :=
  let a := copyDst j (r * j.rowlen)
  let k := if a / 128 = line then 0 else wrapVa ((128 * line : Nat) - (a : Int))
  if k < j.rowlen then (r * j.rowlen + k, Nat.min (j.rowlen - k) (128 - (a + k) % 128)) else (0, 0)

/-- Whether an older row of a copy goes to the line of byte t: the line is written already. -/
def lineDone (j : CopyJob) (t : Nat) : Bool :=
  (List.range (t / j.rowlen)).any fun r => decide (0 < (rowInLine j (copyDst j t / 128) r).2)

/-- The piece of a copy that begins at byte t (R193, R195): every byte of the copy that goes to the same destination line, of its row
and the later ones, so that the line is written whole. -/
def pieceOf (j : CopyJob) (t : Nat) : List Nat :=
  let row := t / j.rowlen
  ((List.range (pieceLen j t)).map fun k => t + k) ++
    ((List.range j.rows).filter fun r => decide (row < r)).flatMap fun r =>
      let p := rowInLine j (copyDst j t / 128) r
      (List.range p.2).map fun k => p.1 + k

/-- Whether the source or the destination of byte t of a copy cannot be reached (R233): its translation or access, or its source's check. -/
def copyByteFails (s : State) (j : CopyJob) (t : Nat) : Bool :=
  (copyTo s j t).isNone || (!j.fill && !(j.got.any fun g => g.1 == t) && (copyFrom s j t).isNone)

/-- The byte at which a piece of a copy fails (R233): the first, in the order of R193, up to the piece's last, that cannot be reached; else
the piece's first where the line refuses it (R402). -/
def pieceFails (s : State) (j : CopyJob) (ts : List Nat) : Option Nat :=
  let first := ts.headD 0
  let locs := ts.filterMap (copyTo s j)
  match firstTo (fun k => copyByteFails s j (first + k)) (ts.foldl Nat.max first + 1 - first) with
  | some k => some (first + k)
  | none => if (refusedLines s locs (linesOfLocs locs)).isEmpty then none else some first

/-- What a copy may read at a location in place of its byte (R248): what an older scalar store of its strand has replaced there with no
`vm.fence` between, where nothing else has written the line since. -/
def missedByte (s : State) (j : CopyJob) (loc : Nat) : Option Byte :=
  let line := lineOf loc
  if (replicaAt s (dieOf j.gid) line).isSome then none
  else
    (j.missed.find? fun u => u.line == line && u.stamp == (lineAt s line).stamp).bind fun u =>
      (u.old.find? fun p => p.1 == loc).map Prod.snd

/-- The byte that a copy reads at a location: the present one, or for each eight bytes by a free choice the missed ones (R248). -/
def sourceByte (s : State) (j : CopyJob) (loc : Nat) : Byte :=
  match missedByte s j loc with
  | some b => if (drawFam s).1 (loc / 8) % 2 = 1 then b else readByte s (dieOf j.gid) loc
  | none => readByte s (dieOf j.gid) loc

/-- The value of byte t: of the pattern, as the engine has read it, or of its source byte now (R192, R193). -/
def copyByte (s : State) (j : CopyJob) (t : Nat) : Byte :=
  if j.fill then BitVec.ofNat 8 (bits j.src.toNat (8 * (t % j.rowlen % 8)) 8)
  else
    match j.got.find? fun g => g.1 == t, copyFrom s j t with
    | some g, _ => g.2
    | none, some loc => sourceByte s j loc
    | none, none => 0

/-- Whether the byte at which a copy fails meets an uncorrectable error, in the data or in a page-table entry (R360, R402). -/
def copyDataError (s : State) (j : CopyJob) (t : Nat) : Bool :=
  let bad : Except XFault Nat → Bool := fun r => match r with
    | .error .dataErr => true
    | .ok loc => s.errs.contains (lineOf loc)
    | .error _ => false
  bad (copyLocate s j true (copyDst j t)) || (!j.fill && bad (copyLocate s j false (copySrc j t)))

/-- F of a copy's reads for residency (R185). -/
def copyFootprint (j : CopyJob) : Nat := j.rows * j.rowlen

/-- The copy of a strand on a tag. -/
def copyAt (s : State) (gid tag : Nat) : Option CopyJob := s.copies.find? fun c => c.gid == gid && c.tag == tag

/-- The state with a copy replaced. -/
def putCopy (s : State) (j : CopyJob) : State :=
  { s with copies := s.copies.map fun c => if c.gid == j.gid && c.tag == j.tag then j else c }

/-- A line no longer owned by an agent. -/
def disown (s : State) (agent line : Nat) : State :=
  onSlice s (homeSlice line) fun k => { k with owned := k.owned.filter fun p => !(p.1 == line && p.2 == agent) }

/-- A piece of a copy written as one write, which carries its die's clock (R193, R248); its line is inserted at the least recent
position, unless ALLOC is 1; one that the slice holds becomes the most recent, where the table of R185 speaks of insertion alone (DESIGN
CHOICE; log entry 98). -/
def writePiece (s : State) (j : CopyJob) (line : Nat) (ws : List (Nat × Byte)) : State :=
  let sl := homeSlice line
  let low := !j.alloc && !(sliceAt s sl).cache.contains line
  let s := homeScatter s (dieOf j.gid) ws
  if low && (sliceAt s sl).cache.contains line then onSlice s sl fun k => { k with cache := k.cache.erase line ++ [line] } else s

/-- A line's owner completes its write of the line, and the line is free (R194): what a copy holds for it is written now. -/
def recallLine (s : State) (line : Nat) : State :=
  match (sliceAt s (homeSlice line)).owned.find? fun p => p.1 == line with
  | none => s
  | some p =>
    let s := disown s p.2 line
    match s.copies.find? fun j => copyAgent j.gid j.tag == p.2 with
    | none => s
    | some j =>
      let s := putCopy s { j with held := j.held.filter fun q => q.1 != line }
      (j.held.filter fun q => q.1 == line).foldl (fun s q => writePiece s j line q.2) s

/-- Every line of some recalled from its owner (R194). -/
def recallLines (s : State) (lines : List Nat) : State := (lines.filter fun l => decide (l * 128 < hostLoc)).foldl recallLine s

/-- Lines that the engine of a core owns (R194). -/
def ownedBy (s : State) (core : Nat) : Nat :=
  ((s.slices.map fun p => (p.2.owned.filter fun q => q.2 / 256 == core).length)).sum

/-- The running copy that an agent number names. -/
def copyRunning (s : State) (agent : Nat) : Option CopyJob :=
  s.copies.find? fun j => copyAgent j.gid j.tag == agent && j.started && j.outcome.isNone && !j.bad

/-- The device line that a running copy writes next, where there is one. -/
def nextLine (s : State) (j : CopyJob) : Option Nat :=
  if j.rowlen * j.rows ≤ j.pos || lineDone j j.pos then none
  else ((copyTo s j j.pos).map lineOf).filter fun l => decide (l * 128 < hostLoc)

/-- OWNERSHIP_REQUEST (R194): the agent of a running copy queues for the line that it writes next; another's ownership is recalled. -/
def requestOwner (s : State) (agent line : Nat) : State :=
  let k := sliceAt s (homeSlice line)
  if (copyRunning s agent).bind (nextLine s) ≠ some line || k.owned.contains (line, agent) || k.ownerQueue.contains (line, agent) then s
  else recallLine (onSlice s (homeSlice line) fun k => { k with ownerQueue := k.ownerQueue ++ [(line, agent)] }) line

/-- The requests for ownership of an agent withdrawn: its copy is over. -/
def unqueue (s : State) (agent : Nat) : State :=
  mapSlices s fun k => { k with ownerQueue := k.ownerQueue.filter fun p => p.2 != agent }

/-- Whether a copy may start (R191): every older copy of its core has started, and fewer than 16 run. -/
def copyMayStart (s : State) (j : CopyJob) : Bool :=
  let mine := s.copies.filter fun c => coreOf c.gid == coreOf j.gid
  let older := mine.takeWhile fun c => !(c.gid == j.gid && c.tag == j.tag)
  !j.started && (older.all fun c => c.started) && decide ((mine.filter fun c => c.started).length < 16)

/-- A copy's writes that its engine still holds, performed in their order; their lines are free. -/
def flushCopy (s : State) (j : CopyJob) : State :=
  unqueue (j.held.foldl (fun s q => writePiece (disown s (copyAgent j.gid j.tag) q.1) j q.1 q.2) (putCopy s { j with held := [] }))
    (copyAgent j.gid j.tag)

/-- A copy fails (R233): each piece read and not yet written is written or not; an uncorrectable error is logged (R360). -/
def failCopy (s : State) (j : CopyJob) (logged : Bool) : State :=
  let p := drawFam s
  let kept := j.held.filter fun q => p.1 q.1 % 2 == 1
  let s := unqueue (j.held.foldl (fun s q => disown s (copyAgent j.gid j.tag) q.1) (if j.held.isEmpty then s else p.2))
    (copyAgent j.gid j.tag)
  let s := if logged then logEvent s 2 (strandUnit j.gid) 0 [j.gid] else s
  kept.foldl (fun s q => writePiece s j q.1 q.2) (putCopy s { j with held := [], got := [], outcome := some false })

/-- The bytes of a piece of a copy, with where they go; or the byte at which it fails. -/
def readPiece (s : State) (j : CopyJob) (ts : List Nat) : Except Nat (List (Nat × Byte)) :=
  match pieceFails s j ts with
  | some t => .error t
  | none => .ok (ts.filterMap fun t => (copyTo s j t).map fun loc => (loc, copyByte s j t))

/-- The line from which byte t of a copy is still to be read. -/
def sourceLine (s : State) (j : CopyJob) (t : Nat) : Option Nat :=
  if j.fill || j.got.any fun g => g.1 == t then none else (copyFrom s j t).map lineOf

/-- The distinct elements of a list, in the order of their first places. -/
def eachOnce (xs : List Nat) : List Nat := xs.foldl (fun acc x => if acc.contains x then acc else acc ++ [x]) []

/-- The lines that a piece of a copy is still to read, in the order of R193. -/
def sourceLines (s : State) (j : CopyJob) (ts : List Nat) : List Nat := eachOnce (ts.filterMap (sourceLine s j))

/-- A copy with the pages of some of its bytes translated: their sources' and their destinations' (R367). -/
def holdPages (s : State) (j : CopyJob) (ts : List Nat) : CopyJob :=
  ts.foldl (fun j t => holdPage s true (if j.fill then j else holdPage s false j (copySrc j t)) (copyDst j t)) j

/-- Whether a walk for some of a copy's bytes waits for a locked line (R255). -/
def copyWalkWaits (s : State) (j : CopyJob) (ts : List Nat) : Bool :=
  let waits := fun write va => (heldPage j write va).isNone && walkWaits s (coreOf j.gid) j.xl va
  ts.any fun t => waits true (copyDst j t) || (!j.fill && waits false (copySrc j t))

/-- Whether an invalidation removes a translation that a copy holds (R384): `va` none stands for every address, `asid` none for every
ASID. -/
def pageUnder (j : CopyJob) (p : CopyPage) (va asid : Option Nat) : Bool :=
  (va.all fun a => a / 2 ^ p.size == p.va) && asid.all fun n => !p.global && n == datpAsid j.xl.datp

/-- Whether a running copy works under a translation that such an invalidation has removed (R384). -/
def copyUnder (s : State) (va asid : Option Nat) : Bool :=
  s.copies.any fun j => j.outcome.isNone && j.pages.any fun p => p.stale && pageUnder j p va asid

/-- A request for ownership off its slice's list. -/
def unqueueLine (s : State) (p : Option (Nat × Nat)) : State :=
  p.elim s fun p => onSlice s (homeSlice p.1) fun k => { k with ownerQueue := k.ownerQueue.erase p }

/-- The lines of a copy's source used by its reads (R185). -/
def useSource (s : State) (j : CopyJob) (lines : List Nat) : State :=
  lines.foldl (fun s l => cacheLine s (servingSlice s (dieOf j.gid) l) l
    (decide (copyFootprint j ≤ (strandAt s j.gid).vrthr.toNat)) true) s

/-- The lines of a piece of a copy: those still to be read, and the one that it goes to. -/
def pieceLines (s : State) (j : CopyJob) (ts : List Nat) : List Nat :=
  sourceLines s j ts ++ (copyTo s j (ts.headD 0)).toList.map lineOf

/-- The state after some bytes of a copy are read: the free choice of a missed one is drawn (R248). -/
def afterRead (s : State) (j : CopyJob) (ts : List Nat) : State :=
  if !j.fill && ts.any fun t => ((copyFrom s j t).bind (missedByte s j)).isSome then (drawFam s).2 else s

/-- The first line that a piece still has to read, read (R193): other lines follow at their own moments. -/
def readSource (s : State) (j : CopyJob) (ts : List Nat) : State :=
  match sourceLines s j ts with
  | [] => s
  | l :: _ =>
    let s := recallLines s [l]
    let j := (copyAt s j.gid j.tag).getD j
    let now := ts.filter fun t => sourceLine s j t == some l
    useSource (putCopy (afterRead s j now) { j with got := j.got ++ now.map fun t => (t, copyByte s j t) }) j [l]

/-- A piece of a running copy performed (R193 to R195): its source and destination are recalled and it is read; it is written at once, or
where `hold` later, at a recall or before the copy ends: its line is then owned, and no scalar L1 of the home die holds it (R183). -/
def finishPiece (hold : Bool) (s : State) (j : CopyJob) (ts : List Nat) : State :=
  let src := sourceLines s j ts
  let s := recallLines s (pieceLines s j ts)
  let j := (copyAt s j.gid j.tag).getD j
  match readPiece s j ts with
  | .error t => failCopy s j (copyDataError s j t)
  | .ok ws =>
    let s := useSource (afterRead s j ts) j src
    let line := ((copyTo s j (ts.headD 0)).map lineOf).getD 0
    let j' := { j with pos := j.pos + pieceLen j j.pos, got := [] }
    if hold && decide (line * 128 < hostLoc) && decide (ownedBy s (coreOf j.gid) < 256) then
      let s := { s with l1 := s.l1.filter fun q => !(q.2 == line && q.1 / 128 == homeDie line) }
      onSlice (putCopy s { j' with held := j'.held ++ [(line, ws)] }) (homeSlice line) fun k =>
        { k with owned := k.owned ++ [(line, copyAgent j.gid j.tag)] }
    else writePiece (putCopy s j') j' line ws

/-- The next piece of a running copy (R193, R194): it waits for a locked line, and for an agent that asked for its destination line before;
where `slow`, only its next source line is read. -/
def stepCopy (hold slow : Bool) (s : State) (j : CopyJob) : State :=
  if j.bad then failCopy s j false
  else if j.rowlen * j.rows ≤ j.pos then flushCopy s { j with outcome := some true }
  else if lineDone j j.pos then putCopy s { j with pos := j.pos + pieceLen j j.pos }
  else
    let ts := pieceOf j j.pos
    if copyWalkWaits s j ts then s
    else
      let j := holdPages s j ts
      let s := putCopy s j
      let first := (nextLine s j).bind fun l => (sliceAt s (homeSlice l)).ownerQueue.find? fun p => p.1 == l
      if (pieceLines s j ts).any fun l => decide (l * 128 < hostLoc) && lineLocked s l then s
      else if first.any fun p => p.2 != copyAgent j.gid j.tag then s
      else if slow && decide (1 < (sourceLines s j ts).length) then readSource s j ts
      else unqueueLine (finishPiece hold s j ts) first

/-- A line granted to the agent that has waited longest (R194): one owner at a time, at most 256 lines an engine. The copy reads the piece for
the line, and holds it. A request that no running copy stands by any more is dropped. -/
def grantOwner (s : State) (line : Nat) : State :=
  let k := sliceAt s (homeSlice line)
  match k.ownerQueue.find? fun p => p.1 == line with
  | none => s
  | some p =>
    match (copyRunning s p.2).filter fun j => nextLine s j == some line with
    | none => unqueueLine s (some p)
    | some j =>
      if (k.owned.any fun q => q.1 == line) || lineLocked s line || decide (256 ≤ ownedBy s (p.2 / 256)) then s
      else
        let t := stepCopy true false s j
        if (copyAt t j.gid j.tag).any fun c => decide (c.pos = j.pos) && c.outcome.isNone then t
        else { t with wire := t.wire ++ [.ownerGrant p.2 line] }

/-- COPY_START: a copy that may start starts, and a running one performs its next piece (R193). -/
def startCopy (hold slow : Bool) (s : State) (gid tag : Nat) : State :=
  match copyAt s gid tag with
  | none => s
  | some j =>
    if j.outcome.isSome then s
    else if j.started then stepCopy hold slow s j
    else if copyMayStart s j then putCopy s { j with started := true }
    else s

end Sys2Proof.Machine
end

