-- ==== Sys2Proof/Machine/Merge.lean ====
section
/-! DEFINITION. Planes, reassembly records and the merge windows of multicast reads (R181, R203, R211, R212). -/

namespace Sys2Proof.Machine

/-- The plane of a line: its column (R179, R181, R187). -/
def planeOf (line : Nat) : Nat := homeSlice line % 512 / 64

/-- The windows of a key (R212). -/
def windowIs (line cluster : Nat) (mask : BitVec 16) (isOpen : Bool) (w : Window) : Bool :=
  w.line == line && w.cluster == cluster && w.mask == mask && w.isOpen == isOpen

/-- A reply to multicast read requests (R211, R212). -/
def multicastReply (s : State) (line cluster : Nat) (mask : BitVec 16) (mc : Bool) : State :=
  { s with wire := s.wire ++ [.mcReply (cluster / 8) cluster mask line (lineBytes s line) mc (s.errs.contains line) (homeClock s line)] }

/-- A new window in a slot that holds none, else in that of the window that closed longest ago; `none` where all 64 hold open
windows (R212). Closed windows stand in the order of their closing. -/
def openWindow (ws : List Window) (w : Window) : Option (List Window) :=
  let rest := match ws.find? (windowIs w.line w.cluster w.mask false) with
    | some c => ws.erase c
    | none => ws
  if rest.length < 64 then some (rest ++ [w])
  else
    match rest.find? fun c => !c.isOpen with
    | some c => some (rest.erase c ++ [w])
    | none => none

/-- An open window closed (R212): the line is read once, and one reply goes to the cores that joined. -/
def closeWindow (s : State) (w : Window) : State :=
  let s := recallLine s w.line
  let s := onSlice s (homeSlice w.line) fun k =>
    { k with windows := k.windows.erase w ++ [{ w with isOpen := false, since := s.weave }] }
  multicastReply s w.line w.cluster w.joined true

/-- Whether an open window closes now (R212): every core of the mask has joined, or 64 Weave cycles are over. -/
def windowDue (s : State) (w : Window) : Bool := w.isOpen && (w.joined == w.mask || decide (w.since + 64 ≤ s.weave))

/-- The windows of a slice that close now, closed. -/
def closeDue (s : State) (sl : Nat) : State := ((sliceAt s sl).windows.filter (windowDue s)).foldl closeWindow s

/-- The slice's answer to a multicast read request of a core (R212): windows whose time is over close first; then it joins, opens, or is served alone. -/
def joinWindow (s : State) (core line : Nat) (mask : BitVec 16) : State :=
  let cluster := clusterOfCore core
  let me := core % 16
  let bit : BitVec 16 := BitVec.ofNat 16 (2 ^ me)
  let sl := homeSlice line
  let s := closeDue s sl
  let ws := (sliceAt s sl).windows
  let alone := multicastReply (recallLine s line) line cluster bit false
  if !mask.getLsbD me then alone
  else
    match ws.find? (windowIs line cluster mask true) with
    | some w =>
      if w.joined.getLsbD me then alone
      else
        closeDue (onSlice s sl fun k =>
          { k with windows := k.windows.map fun v => if v = w then { w with joined := w.joined ||| bit } else v }) sl
    | none =>
      let late := match ws.find? (windowIs line cluster mask false) with
        | some c => !c.joined.getLsbD me
        | none => false
      if late then alone
      else
        match openWindow ws ⟨line, cluster, mask, bit, true, s.weave⟩ with
        | some v => closeDue (onSlice s sl fun k => { k with windows := v }) sl
        | none => alone

/-- Whether a request of a strand for a line is unanswered that a further one may not join: two reads, whose replies have two flits,
may be in flight together (R205). -/
def unanswered (s : State) (gid line nf : Nat) : Bool :=
  s.records.any fun r => r.gid == gid && r.line == line && !r.delivered && !(r.nf == 1 && nf == 1)

/-- Whether a forced save of a strand has begun, which stops its ports (R219, R354): its request's deadline is over. -/
def portStopped (s : State) (gid : Nat) : Bool :=
  (strandAt s gid).preempt.any fun r => !r.sure && decide (r.deadline ≤ s.clock)

/-- Whether a multicast record of a line is free at a strand's core: no other line holds it, and the strand has not reserved it
already (R211). -/
def mcFree (s : State) (gid line : Nat) : Bool :=
  !(s.records.any fun r => r.multicast && coreOf r.gid == coreOf gid && r.plane == planeOf line && r.recNo == line % 32 &&
    (r.line != line || r.gid == gid))

/-- The multicast record of a line reserved for a strand (R211), where it is free and the port may inject the request (R205, R219). -/
def mcReserve (s : State) (gid line : Nat) : Option State :=
  if mcFree s gid line && !unanswered s gid line 1 && !portStopped s gid then
    some { s with records := s.records ++ [⟨gid, planeOf line, line % 32, true, line, 0, 1, [], none, false, false, false, Clock4.zero, 0, false⟩] }
  else none

/-- A strand's multicast read request (R211, R212): its record is reserved, and the slice answers. -/
def multicastRequest (s : State) (gid line : Nat) (mask : BitVec 16) : State :=
  if hostLoc ≤ line * 128 || lineLocked s line then s
  else (mcReserve s gid line).elim s fun s => joinWindow s (coreOf gid) line mask

/-- A reply to multicast requests lands in the record of each core in its mask (R211); one that no record waits for is discarded
and, where its strand's context is LOST, logged (R355). -/
def landMulticast (s : State) (line cluster : Nat) : State :=
  match s.wire.findSome? fun w => match w with
      | .mcReply d c m l bs mc f v => if c = cluster ∧ l = line then some (d, m, bs, mc, f, v) else none
      | _ => none with
  | none => s
  | some (d, m, bs, mc, f, v) =>
    let mine : Record → Bool := fun r =>
      r.multicast && r.line == line && r.gid / 64 == cluster && m.getLsbD (r.gid / 4 % 16) && !r.delivered
    let dead := s.records.filter fun r => mine r && r.dead
    let s := { s with
      wire := s.wire.erase (.mcReply d cluster m line bs mc f v)
      records := (s.records.filter fun r => !(mine r && r.dead)).map fun r =>
        if mine r then { r with got := 3, bytes := bs, delivered := true, failed := f, clock := v } else r }
    dead.foldl (fun s r => logEvent s 2 (strandUnit r.gid) 0 [15]) s

end Sys2Proof.Machine
end

