-- ==== Sys2Proof/Machine/Slath.lean ====
section
/-! DEFINITION. The Slath: homes of names, handles, the steps of the state machine, hand-overs and teardown
(R310 to R317, R326). -/

namespace Sys2Proof.Machine

/-- The mixing of R310. -/
def slathMix (hi lo : Word) : Nat :=
  let z := (lo.toNat + hi.toNat * 0x8F3A6C15B2D4E971) % 2 ^ 64
  let z := z ^^^ (z / 2 ^ 31)
  let z := z * 0xA7C395E13D6B2F4D % 2 ^ 64
  z ^^^ (z / 2 ^ 29)

/-- The home slice of a name (R310). -/
def slathSlice (hi lo : Word) : Nat := bits (slathMix hi lo) 0 11

/-- The set of a name within its slice (R310). -/
def slathSet (hi lo : Word) : Nat := bits (slathMix hi lo) 11 3

/-- An entry handle with code 0 (R311). -/
def mkHandle (slice entry : Nat) (gen : BitVec 24) (lease : BitVec 8) (future : Bool) : Word :=
  word (entry * 2 ^ 3 + slice * 2 ^ 9 + gen.toNat * 2 ^ 24 + (if future then 0 else lease.toNat) * 2 ^ 48
    + (if future then 0x5D else 0x5C) * 2 ^ 56)

/-- ENTRY of a handle (R311). -/
def handleEntry (h : Word) : Nat := bits h.toNat 3 6
/-- SLICE of a handle (R311). -/
def handleSlice (h : Word) : Nat := bits h.toNat 9 11
/-- GEN of a handle (R311). -/
def handleGen (h : Word) : BitVec 24 := h.extractLsb' 24 24
/-- LEASE of a handle (R311). -/
def handleLease (h : Word) : BitVec 8 := h.extractLsb' 48 8
/-- TAG of a handle (R311). -/
def handleTag (h : Word) : Nat := bits h.toNat 56 8
/-- A handle without its result code, which is ignored on input (R311). -/
def handleBase (h : Word) : Word := h &&& ~~~7#64

/-- The AGE of an entry set to 0: every other way of the set whose AGE was below its previous AGE grows by 1 (R315). -/
def refreshAge (s : State) (slice e : Nat) : State :=
  let old := (slathAt s slice e).age
  let ways := (List.range 8).map fun w => e / 8 * 8 + w
  let s := ways.foldl
    (fun s w => let en := slathAt s slice w
                if w ≠ e ∧ en.age < old then putSlath s slice w { en with age := en.age + 1 } else s) s
  putSlath s slice e { slathAt s slice e with age := 0 }

/-- An entry freed: FREE with GEN + 1; AGE stays (R312, R315). -/
def freedEntry (e : SlathEntry) : SlathEntry :=
  { SlathEntry.reset with gen := e.gen + 1, age := e.age }

/-- The way of a set that holds a name (R314). -/
def slathFind (s : State) (slice set : Nat) (hi lo : Word) : Option Nat :=
  firstTo (fun w => let e := slathAt s slice (set * 8 + w)
                    decide (e.state ≠ .free) && decide (e.hi = hi) && decide (e.lo = lo)) 8

/-- Whether a way may be evicted (R314, R315). -/
def evictable (e : SlathEntry) : Bool := decide (e.state = .done) && decide (e.wait = 0) && decide (e.refs = 0)

/-- The way an absent name takes: a FREE way, else the evictable way with the largest AGE, the lowest of several (R315). -/
def slathVictim (s : State) (slice set : Nat) : Option Nat :=
  match firstTo (fun w => decide ((slathAt s slice (set * 8 + w)).state = .free)) 8 with
  | some w => some w
  | none =>
    let ok := (List.range 8).filter fun w => evictable (slathAt s slice (set * 8 + w))
    match argBest (fun q p => decide (p < q)) (ok.map fun w => (w, (slathAt s slice (set * 8 + w)).age.toNat)) with
    | some p => some p.1
    | none => none

/-- What a slice answers to a claim or a future load (R314, R320). -/
inductive SlathAns where
  | maker (handle : Word)
  | waiter (handle : Word)
  | done (slice entry : Nat) (gen : BitVec 24) (value : Word) (clock : Clock4)
  | busy
  /-- held in the deferral buffer (R316) -/
  | held
  /-- the buffer is full: NACK (R316) -/
  | nack
  /-- cause 31 (R314) -/
  | claim

/-- The step of a claim at its home (R314, R315). -/
def slathClaim (s : State) (gid : Nat) (hi lo : Word) : SlathAns × State :=
  let slice := slathSlice hi lo
  let set := slathSet hi lo
  match slathFind s slice set hi lo with
  | some w =>
    let n := set * 8 + w
    let e := slathAt s slice n
    if e.state = .done then
      (if e.refs = 0xFFFF#16 then (.busy, s)
       else
         let s := refreshAge (putSlath s slice n { e with refs := e.refs + 1 }) slice n
         (.done slice n e.gen e.value e.clock, s))
    else if e.vac then
      (.maker (mkHandle slice n e.gen e.lease false),
        putSlath s slice n { e with vac := false, maker := BitVec.ofNat 11 gid })
    else if e.wait = 4095#12 then (.busy, s)
    else (.waiter (mkHandle slice n e.gen 0 true), putSlath s slice n { e with wait := e.wait + 1 })
  | none =>
    match slathVictim s slice set with
    | none => (.busy, s)
    | some w =>
      let n := set * 8 + w
      let e := slathAt s slice n
      let e := if e.state = .free then e else freedEntry e
      let e' : SlathEntry := ⟨hi, lo, 0, .making, false, BitVec.ofNat 11 gid, 0, 0, 0, e.gen, Clock4.zero, e.age⟩
      (.maker (mkHandle slice n e.gen 0 false), refreshAge (putSlath s slice n e') slice n)

/-- Whether a handle is stale (R314): GEN differs, the entry is FREE, or a claim handle's LEASE differs. -/
def staleHandle (s : State) (h : Word) : Bool :=
  let e := slathAt s (handleSlice h) (handleEntry h)
  decide (e.state = .free) || decide (e.gen ≠ handleGen h) ||
    (handleTag h == 0x5C && decide (e.lease ≠ handleLease h))

/-- The step of a future load (R314, R316). -/
def slathFld (s : State) (gid : Nat) (h : Word) : SlathAns × State :=
  let slice := handleSlice h
  let n := handleEntry h
  let e := slathAt s slice n
  if staleHandle s h then (.claim, s)
  else if e.state = .done then
    (.done slice n e.gen e.value e.clock,
      refreshAge (putSlath s slice n { e with wait := e.wait - 1, refs := e.refs + 1 }) slice n)
  else if e.vac then
    (.maker (mkHandle slice n e.gen e.lease false),
      putSlath s slice n { e with wait := e.wait - 1, vac := false, maker := BitVec.ofNat 11 gid })
  else if e.maker.toNat = gid then (.claim, s)
  else if (sliceAt s slice).deferred.any (fun d => d == .fld gid n (handleBase h)) then (.held, s)
  else if (sliceAt s slice).deferred.length < 32 then
    (.held, onSlice s slice fun c => { c with deferred := c.deferred ++ [.fld gid n (handleBase h)] })
  else (.nack, onSlice s slice fun c => { c with nacks := c.nacks + 1 })

/-- Held future loads of an entry, oldest first (R314). -/
def heldFlds (s : State) (slice n : Nat) : List (Nat × Word) :=
  (sliceAt s slice).deferred.filterMap fun d =>
    match d with
    | .fld gid e h => if e = n then some (gid, h) else none
    | .bwait _ _ _ => none

/-- The deferral buffer without a strand's future load on an entry. -/
def dropFld (s : State) (slice gid n : Nat) : State :=
  onSlice s slice fun c => { c with deferred := c.deferred.filter fun d =>
    match d with
    | .fld g e _ => !(g == gid && e == n)
    | .bwait _ _ _ => true }

/-- A held future load answered DONE (R314). -/
def answerDone (slice n : Nat) (s : State) (g : Nat × Word) : State :=
  let e := slathAt s slice n
  let s := refreshAge (putSlath s slice n { e with wait := e.wait - 1, refs := e.refs + 1 }) slice n
  let s := dropFld s slice g.1 n
  { s with wire := s.wire ++ [.slath g.1 g.2 (e.value ||| 2) e.clock false] }

/-- The step of a fulfilment (R314, R321): `none` where the handle is stale. -/
def slathFulfil (s : State) (gid : Nat) (h value : Word) : Option State :=
  let slice := handleSlice h
  let n := handleEntry h
  let e := slathAt s slice n
  if staleHandle s h || decide (e.state ≠ .making) || e.vac then none
  else
    let s := putSlath s slice n { e with state := .done, value := value, maker := 0, clock := clockAt s (dieOf gid) }
    let s := refreshAge s slice n
    some ((heldFlds s slice n).foldl (answerDone slice n) s)

/-- A hand-over (R317). -/
def handOver (s : State) (slice n : Nat) : State :=
  let e := slathAt s slice n
  let lease := e.lease + 1
  match heldFlds s slice n with
  | w :: _ =>
    let s := putSlath s slice n { e with lease := lease, wait := e.wait - 1, maker := BitVec.ofNat 11 w.1, vac := false }
    let s := dropFld s slice w.1 n
    { s with wire := s.wire ++ [.slath w.1 w.2 (mkHandle slice n e.gen lease false) Clock4.zero false] }
  | [] =>
    if e.wait = 0 then putSlath s slice n (freedEntry e)
    else putSlath s slice n { e with lease := lease, vac := true, maker := 0 }

/-- The step of an abandon of a claim handle or a future (R314, R317): `none` where it raises CLAIM. -/
def slathAbandon (s : State) (gid : Nat) (h : Word) : Option State :=
  let slice := handleSlice h
  let n := handleEntry h
  let e := slathAt s slice n
  if staleHandle s h then none
  else if handleTag h = 0x5C then
    (if e.state = .making ∧ e.vac = false then some (handOver s slice n) else none)
  else
    let s := dropFld s slice gid n
    let e := { e with wait := e.wait - 1 }
    if e.state = .making ∧ e.vac = true ∧ e.wait = 0 then some (putSlath s slice n (freedEntry e))
    else some (putSlath s slice n e)

/-- The step of a release of a reference (R314, R325): `none` where it raises CLAIM. -/
def slathRelease (s : State) (slice n : Nat) (gen : BitVec 24) : Option State :=
  let e := slathAt s slice n
  if e.state = .done ∧ e.gen = gen then some (putSlath s slice n { e with refs := e.refs - 1 }) else none

/-- The status word of `vx.fprobe` (R324). -/
def slathProbe (s : State) (gid : Nat) (h : Word) : Word :=
  let e := slathAt s (handleSlice h) (handleEntry h)
  if staleHandle s h then 0
  else
    let st := match e.state with
      | .free => 0
      | .making => 1
      | .done => 2
    let mine := decide (e.state = .making) && !e.vac && decide (e.maker.toNat = gid)
    word (st + (if e.vac then 4 else 0) + (if mine then 8 else 0) + e.wait.toNat * 2 ^ 4 + e.refs.toNat * 2 ^ 16
      + e.maker.toNat * 2 ^ 32 + e.lease.toNat * 2 ^ 43)

/-- The lowest free slot of a claim list (R313). -/
def freeSlot (cs : List ClaimSlot) : Option Nat := firstTo (fun i => decide (cs.getD i .free = .free)) 32

/-- The claim list with a slot replaced. -/
def putSlot (s : State) (i : Nat) (c : ClaimSlot) : State := { s with t := { s.t with claims := s.t.claims.set i c } }

/-- The slot that holds a claim handle or a future handle (R321 to R323); the result code is ignored on input. -/
def slotOf (s : State) (h : Word) (wantMaker wantFuture : Bool) : Option Nat :=
  firstTo (fun i =>
    match s.t.claims.getD i .free with
    | .maker g => wantMaker && decide (handleBase g = handleBase h)
    | .future g => wantFuture && decide (handleBase g = handleBase h)
    | _ => false) 32

/-- The lowest slot that holds a reference with a value handle (R325). -/
def refSlotOf (s : State) (v : Word) : Option Nat :=
  firstTo (fun i =>
    match s.t.claims.getD i .free with
    | .ref _ _ _ w => decide (w = v)
    | _ => false) 32

/-- One slot given back at teardown; a stale one is dropped silently (R326). -/
def tearSlot (gid : Nat) (s : State) (c : ClaimSlot) : State :=
  match c with
  | .free => s
  | .maker h => (slathAbandon s gid h).getD s
  | .future h => (slathAbandon s gid h).getD s
  | .ref slice n gen _ => (slathRelease s slice n gen).getD s

/-- Whether a slot holds the future of a handle. -/
def isFuture (h : Word) (c : ClaimSlot) : Bool :=
  match c with
  | .future g => decide (handleBase g = handleBase h)
  | _ => false

/-- A claim list with the answer to its held future load that is on its way: the lowest slot with that future becomes a claim handle
or a reference (R313, R326). -/
def answeredClaims (s : State) (gid : Nat) (cs : List ClaimSlot) : List ClaimSlot :=
  s.wire.foldl (fun cs w => match w with
    | .slath g f a _ false =>
      match (if g = gid then cs.findIdx? (isFuture f) else none) with
      | some i =>
        cs.set i (if bits a.toNat 0 3 = 2 then .ref (handleSlice f) (handleEntry f) (handleGen f) (handleBase a) else .maker a)
      | none => cs
    | _ => cs) cs

/-- The claim list torn down, in slot order (R326). -/
def tearClaims (s : State) (gid : Nat) (cs : List ClaimSlot) : State := cs.foldl (tearSlot gid) s

end Sys2Proof.Machine
end

