-- ==== Sys2Proof/Machine/Launch.lean ====
section
/-! DEFINITION. The launch record, its validity, levels and task counts, and the division of lanes (R327 to R331, R337,
R338). -/

namespace Sys2Proof.Machine

/-- A field of a record: `n` bytes at an offset, little-endian (R327). -/
def recField (r : List Byte) (off n : Nat) : Nat := ofBytes ((r.drop off).take n)

/-- ENTRY (R327). -/
def recEntry (r : List Byte) : Nat := recField r 0x00 8
/-- COUNT (R327). -/
def recCount (r : List Byte) : Nat := recField r 0x08 8
/-- ARG i (R327). -/
def recArg (r : List Byte) (i : Nat) : Nat := recField r (0x10 + 8 * i) 8
/-- LEVEL byte n (R327). -/
def recLevel (r : List Byte) (n : Nat) : Nat := recField r (0x90 + n) 1
/-- BASE of stream n (R327). -/
def recStreamBase (r : List Byte) (n : Nat) : Nat := recField r (0x98 + 16 * n) 8
/-- BYTES of stream n (R327). -/
def recStreamBytes (r : List Byte) (n : Nat) : Nat := recField r (0xA0 + 16 * n) 4
/-- The word that holds DIR and V of stream n (R327). -/
def recStreamCtl (r : List Byte) (n : Nat) : Nat := recField r (0xA4 + 16 * n) 4
/-- RESULT (R327). -/
def recResult (r : List Byte) : Nat := recField r 0xD8 4
/-- The byte of PRIO (R327). -/
def recPrio (r : List Byte) : Nat := recField r 0xDC 1
/-- WEIGHT (R327). -/
def recWeight (r : List Byte) : Nat := recField r 0xDD 1
/-- The byte of HOLD (R327). -/
def recHold (r : List Byte) : Nat := recField r 0xDE 1
/-- DEP n (R327). -/
def recDep (r : List Byte) (n : Nat) : Nat := recField r (0xE0 + 4 * n) 4
/-- ID (R327). -/
def recId (r : List Byte) : Nat := recField r 0xF0 4
/-- TASKID (R327). -/
def recTaskId (r : List Byte) : Nat := recField r 0xF4 4
/-- SEQ (R327). -/
def recSeq (r : List Byte) : Nat := recField r 0xF8 4
/-- COMPL (R327). -/
def recCompl (r : List Byte) : Nat := recField r 0xFC 4

/-- DOMAIN of a LEVEL byte. -/
def lvlDomain (l : Nat) : Nat := bits l 0 3
/-- SCOPE of a LEVEL byte. -/
def lvlScope (l : Nat) : Nat := bits l 3 3
/-- V of a LEVEL byte. -/
def lvlValid (l : Nat) : Bool := bits l 7 1 == 1

/-- L: the number of valid levels, which form a prefix (R328). -/
def levelCount (r : List Byte) : Nat := (firstTo (fun n => !lvlValid (recLevel r n)) 8).getD 8

/-- The valid LEVEL bytes. -/
def levelsOf (r : List Byte) : List Nat := (List.range (levelCount r)).map (recLevel r)

/-- Domains do not narrow from one level to the next (R328). -/
def domainsWiden : List Nat → Bool
  | x :: y :: r => decide (lvlDomain x ≤ lvlDomain y) && domainsWiden (y :: r)
  | _ => true

/-- Whether a level byte is in form: V, no reserved bit, a domain, and a scope no narrower than it (R328). -/
def levelOk (l : Nat) : Bool :=
  lvlValid l && decide (bits l 6 1 = 0) && decide (lvlDomain l ≤ 4) && decide (lvlScope l ≤ 5) &&
    decide (lvlDomain l ≤ lvlScope l)

/-- Whether stream n is in form (R328). -/
def streamOk (r : List Byte) (n : Nat) : Bool :=
  let c := recStreamCtl r n
  if bits c 2 1 = 1 then
    decide (bits c 0 2 ≠ 0) && decide (bits c 3 29 = 0) && decide (recStreamBase r n % 128 = 0) &&
      decide (recStreamBytes r n ≠ 0) && decide (recStreamBytes r n % 128 = 0)
  else decide (recField r (0x98 + 16 * n) 16 = 0)

/-- Whether no two DEP fields name one ID (R328). -/
def depsDistinct (r : List Byte) : Bool :=
  let ds := ((List.range 4).map (recDep r)).filter fun d => d != 0xFFFFFFFF
  decide ds.Nodup

/-- Whether a record is valid (R328). -/
def recValid (r : List Byte) : Bool :=
  let L := levelCount r
  decide (recEntry r % 4 = 0) && canonical (recEntry r) && decide (1 ≤ L) && (levelsOf r).all levelOk &&
    domainsWiden (levelsOf r) && ((List.range 8).all fun n => decide (n < L) || decide (recLevel r n = 0)) &&
    ((List.range 4).all (streamOk r)) && decide (recPrio r < 16) && decide (recWeight r ≠ 0) &&
    decide (recResult r % 128 = 0) && decide (recHold r < 2) && decide (recField r 0xDF 1 = 0) && depsDistinct r

/-- The strands in one instance of a domain: strand, core, cluster, die, package (R11). -/
def domainStrands (d : Nat) : Nat :=
  match d with
  | 0 => 1
  | 1 => 4
  | 2 => 64
  | 3 => 512
  | _ => 2048

/-- D_0 of a list of LEVEL bytes. -/
def baseDomain (ls : List Nat) : Nat := lvlDomain (ls.headD 0)

/-- The top scope; SYSTEM counts as PACKAGE (R329). -/
def topScope (ls : List Nat) : Nat := Nat.min 4 (lvlScope (ls.getLastD 0))

/-- c_n (R329). -/
def levelWidth (ls : List Nat) (n : Nat) : Nat := domainStrands (lvlDomain (ls.getD n 0)) / domainStrands (baseDomain ls)

/-- C (R329). -/
def levelCap (ls : List Nat) : Nat := domainStrands (topScope ls) / domainStrands (baseDomain ls)

/-- T of a launch (R329). -/
def taskTotal (r : List Byte) : Nat := Nat.min (recCount r) (levelCap (levelsOf r))

/-- The index of task i at level n (R330). -/
def levelIndex (ls : List Nat) (n i : Nat) : Nat :=
  if n + 1 < ls.length then i / levelWidth ls n % (levelWidth ls (n + 1) / levelWidth ls n) else i / levelWidth ls n

/-- The number of level-n units present among T tasks, for task i (R337). -/
def levelUnits (ls : List Nat) (n i T : Nat) : Nat :=
  if n + 1 < ls.length then
    let mine := (List.range T).filter fun j =>
      (List.range ls.length).all fun m => decide (m ≤ n) || levelIndex ls m j == levelIndex ls m i
    (toSet (mine.map (levelIndex ls n))).length
  else ceilDiv T (levelWidth ls n)

/-- `vx.lvl` (R337). -/
def lvlResult (ls : List Nat) (i T s : Nat) : Nat :=
  if s < 8 then (if s < ls.length then levelIndex ls s i else 0)
  else if s < 16 then (if s - 8 < ls.length then levelUnits ls (s - 8) i T else 1)
  else 0

/-- The launch of a context, by its key. -/
def launchOf (s : State) (key : Nat) : Option Launch := s.launches.find? fun l => l.key == key

/-- The dies of a launch's nodes. -/
def nodeDies (l : Launch) : List Nat := l.nodes.map Prod.fst

/-- Strands of instance `n` of a D_0 domain within instance `x` of the top scope (R11, R329). -/
def instanceStrands (ls : List Nat) (x n : Nat) : List Nat :=
  let w := domainStrands (baseDomain ls)
  (List.range w).map fun i => x * domainStrands (topScope ls) + n * w + i

/-- Whether an instance and a base suit a launch (R329). -/
def placeOk (l : Launch) (x b : Nat) : Bool :=
  let ls := levelsOf l.image
  let w := domainStrands (topScope ls)
  (match l.place with
   | some p => p == (x, b)
   | none => true) &&
  (ls.length < 2 || b % levelWidth ls (ls.length - 1) == 0) && decide (b + taskTotal l.image ≤ levelCap ls) &&
    decide (x * w < 2048) && (topScope ls == 4 || (nodeDies l).contains (x * w / 512))

/-- Tasks of a launch not yet started. -/
def unstarted (l : Launch) : List Nat := (List.range (taskTotal l.image)).filter fun i => !l.started.contains i

/-- Whether a strand could take a task of a launch under some placement that it may have (R329, R332). -/
def couldTake (l : Launch) (gid : Nat) : Bool :=
  let ls := levelsOf l.image
  let x := gid / domainStrands (topScope ls)
  let n := gid % domainStrands (topScope ls) / domainStrands (baseDomain ls)
  (unstarted l).any fun i => decide (i ≤ n) && placeOk l x (n - i)

/-- Whether a suspended context may resume on a strand as far as its instance and its binding go (R356). -/
def mayResume (s : State) (c : Suspended) (gid : Nat) : Bool :=
  (match c.bound with
   | some g => g == gid
   | none => true) &&
  (match c.saved.task.bind fun k => (launchOf s k.launch).bind fun l => l.place.map fun p => (k.index, levelsOf l.image, p) with
   | some (i, ls, x, b) => (instanceStrands ls x (b + i)).contains gid
   | none => false)

/-- The first step of R338 for one strand: its share and its remainder. -/
def shareBase (n W w : Nat) : Nat × Nat := (1 + (8 - n) * w / W, (8 - n) * w % W)

/-- The shares of R338 for the strands that hold a task, each with its weight, in ascending order. -/
def laneShares (ws : List (Nat × Nat)) : List (Nat × Nat) :=
  let n := ws.length
  let W := (ws.map Prod.snd).sum
  let extra := 8 - (ws.map fun p => (shareBase n W p.2).1).sum
  ws.map fun p =>
    let r := (shareBase n W p.2).2
    let ahead := (ws.filter fun q => decide (r < (shareBase n W q.2).2) || (r == (shareBase n W q.2).2 && decide (q.1 < p.1))).length
    (p.1, (shareBase n W p.2).1 + (if ahead < extra then 1 else 0))

/-- The weight of the grouped-launch node that runs on a strand, where one does: its launching task's (R269). -/
def nodeWeight (s : State) (gid : Nat) : Option Nat :=
  s.blocks.findSome? fun p => (p.2.nodes.find? fun n => n.status == 1 && n.on == gid).bind fun n =>
    (p.2.served.find? fun v => v.serial == n.serial).map fun v => v.req.weight

/-- Whether a strand holds no task and runs no node. -/
def strandFree (s : State) (gid : Nat) : Bool := (strandAt s gid).task.isNone && (nodeWeight s gid).isNone

/-- The strands of a core that hold a task or run a node, with their weights (R269, R338). -/
def coreWeights (s : State) (core : Nat) : List (Nat × Nat) :=
  ((List.range 4).map fun j => core * 4 + j).filterMap fun g =>
    (if (strandAt s g).task.isSome then some (strandAt s g).weight.toNat else nodeWeight s g).map fun w => (g, w)

/-- A strand with a new NEXT; a share that shrinks does so at once (R30). -/
def setNext (t : Strand) (n : Nat) : Strand :=
  { t with
    nextShare := BitVec.ofNat 4 n
    share := if n < t.share.toNat then BitVec.ofNat 4 n else t.share }

/-- The division of a core's lane groups computed again (R338). -/
def redivide (s : State) (core : Nat) : State :=
  let sh := laneShares (coreWeights s core)
  ((List.range 4).map fun j => core * 4 + j).foldl
    (fun s g => putStrand s g (setNext (strandAt s g) (((sh.find? fun p => p.1 == g).map Prod.snd).getD 0))) s

end Sys2Proof.Machine
end

