-- ==== Sys2Proof/Machine/Nodes.lean ====
section
/-! DEFINITION. The nodes of the Weave and what a forced save withdraws from their ports (R197, R198, R201, R219). -/

namespace Sys2Proof.Machine

/-- A node of one plane over the package: its die and its id. -/
abbrev Node := Nat × Nat

/-- Block positions (u, v) of the cores of a cluster by their local index (R198). -/
def blockPos : List (Nat × Nat) :=
  [(2, 0), (2, 1), (2, 2), (2, 3), (0, 0), (0, 1), (0, 2), (1, 0), (1, 1), (1, 2), (1, 3), (3, 0), (3, 1), (3, 2), (3, 3), (0, 3)]

/-- The node of core `c` of a die (R198). -/
def nodeOfCore (c : Nat) : Nat :=
  let k := c / 16
  let p := blockPos.getD (c % 16) (0, 0)
  16 * (if k < 4 then 3 - p.2 else 8 + p.2) + (4 * (k % 4) + p.1)

/-- The node a flit comes from. -/
def sourceOf (f : Flit) : Node := (f.sdie.toNat, f.snode.toNat)

/-- The core of a die at a node, where one stands there (R198). -/
def coreOfNode (n : Node) : Option Nat := ((List.range 128).find? fun c => nodeOfCore c == n.2).map fun c => n.1 * 128 + c

/-- The strand at a node that a flit's STRAND names. -/
def strandOfFlit (n : Node) (strand : BitVec 2) : Option Nat := (coreOfNode n).map fun c => c * 4 + strand.toNat

/-- The classes of requests to a slice (R201). -/
def isRequest (typ : BitVec 4) : Bool := [0, 2, 4, 8, 10, 13, 14].contains typ.toNat

/-- The strand whose request a flit is, where a core sends it. -/
def requester (f : Flit) : Option Nat := if isRequest f.typ then strandOfFlit (sourceOf f) f.strand else none

/-- Whether a flit waits to be injected in a message of a strand whose first flit waits too: the message has not begun. -/
def unbegun (gid : Nat) (fs : List Flit) (f : Flit) : Bool :=
  requester f == some gid && fs.any fun g => requester g == some gid && g.fi == 0 && g.typ == f.typ && g.recNo == f.recNo

/-- The requests of a strand that its ports have not begun to inject, withdrawn with their records (R219): they are sent again when the
context goes on. -/
def withdrawWaiting (s : State) (gid : Nat) : State :=
  let gone : List (Nat × Nat) := s.routers.flatMap fun p =>
    (p.2.inject.filter (unbegun gid p.2.inject)).map fun f => (p.1 / 192 % 8, f.recNo.toNat)
  if gone.isEmpty then s
  else
    { s with
      records := s.records.filter fun r => !(r.gid == gid && gone.contains (r.plane, r.recNo))
      routers := s.routers.filterMap fun p =>
        let r : Router := { p.2 with inject := p.2.inject.filter fun f => !unbegun gid p.2.inject f }
        if r = Router.reset then none else some (p.1, r) }

end Sys2Proof.Machine
end

