-- ==== Sys2Proof/Machine/Footprint.lean ====
section
/-! DEFINITION. Which vector and mask registers each device instruction reads and writes: what a frame holds and how
large it is (R26, R351). -/

namespace Sys2Proof.Machine

/-- `n` registers from `v` on. -/
def regs (n v : Nat) : List Nat := (List.range n).map fun i => v + i

/-- The registers of an index operand (R223): one at width 32, 32/w below. -/
def idxRegs (c : Cfg) (b : Reg) : List Nat := regs (32 / cfgW c) b.toNat

/-- The registers that `va.fcvt` writes (R167). -/
def fcvtRegs (c : Cfg) (a : Reg) : Nat := Nat.max 1 (fmtWidth a.toNat / cfgW c)

/-- What the registers of an instruction depend on beside its fields: `vcfg`, VL, x[a], and the LEN of a register. -/
structure Foot where
  c : Cfg
  vl : Nat
  xa : Nat
  len : Nat → Nat

/-- The registers of a dense B of K rows (R272); no more than 8 are legal. -/
def denseRegs (f : Foot) (K : Nat) : Nat := Nat.min 8 (ceilDiv (K * f.vl * cfgW f.c) 32768)

/-- The registers of a compressed B of K rows (R274); no more than 8 are legal. -/
def sparseRegs (f : Foot) (K N : Nat) : Nat := Nat.min 8 (ceilDiv (ceilDiv K 8 * N * f.vl) 1024)

/-- Vector registers an instruction writes. -/
def vDests (i : Instr) (f : Foot) : List Nat :=
  match i with
  | .vaAddIvv d _ _ _ | .vaSubIvv d _ _ _ | .vaMulIvv d _ _ _ | .vaMulhIvv d _ _ _ | .vaMinIvv d _ _ _ |
      .vaMaxIvv d _ _ _ | .vaMinuIvv d _ _ _ | .vaMaxuIvv d _ _ _ | .vaAndIvv d _ _ _ | .vaOrIvv d _ _ _ |
      .vaXorIvv d _ _ _ | .vaSllIvv d _ _ _ | .vaSrlIvv d _ _ _ | .vaSraIvv d _ _ _ | .vaMergeIvv d _ _ _ |
      .vaMulhuIvv d _ _ _ | .vaAddIvx d _ _ _ | .vaSubIvx d _ _ _ | .vaMulIvx d _ _ _ | .vaMulhIvx d _ _ _ |
      .vaMinIvx d _ _ _ | .vaMaxIvx d _ _ _ | .vaMinuIvx d _ _ _ | .vaMaxuIvx d _ _ _ | .vaAndIvx d _ _ _ |
      .vaOrIvx d _ _ _ | .vaXorIvx d _ _ _ | .vaSllIvx d _ _ _ | .vaSrlIvx d _ _ _ | .vaSraIvx d _ _ _ |
      .vaMergeIvx d _ _ _ | .vaMulhuIvx d _ _ _ | .vaAddIvi d _ _ _ | .vaSubIvi d _ _ _ | .vaMinIvi d _ _ _ |
      .vaMaxIvi d _ _ _ | .vaMinuIvi d _ _ _ | .vaMaxuIvi d _ _ _ | .vaAndIvi d _ _ _ | .vaOrIvi d _ _ _ |
      .vaXorIvi d _ _ _ | .vaSllIvi d _ _ _ | .vaSrlIvi d _ _ _ | .vaSraIvi d _ _ _ | .vaMergeIvi d _ _ _ |
      .vaFaddFvv d _ _ _ | .vaFsubFvv d _ _ _ | .vaFmulFvv d _ _ _ | .vaFdivFvv d _ _ _ | .vaFminFvv d _ _ _ |
      .vaFmaxFvv d _ _ _ | .vaFmaccFvv d _ _ _ | .vaFnmaccFvv d _ _ _ | .vaFmsacFvv d _ _ _ | .vaFnmsacFvv d _ _ _ |
      .vaFsgnjFvv d _ _ _ | .vaFsgnjnFvv d _ _ _ | .vaFsgnjxFvv d _ _ _ | .vaFaddFvx d _ _ _ | .vaFsubFvx d _ _ _ |
      .vaFmulFvx d _ _ _ | .vaFdivFvx d _ _ _ | .vaFminFvx d _ _ _ | .vaFmaxFvx d _ _ _ | .vaFmaccFvx d _ _ _ |
      .vaFnmaccFvx d _ _ _ | .vaFmsacFvx d _ _ _ | .vaFnmsacFvx d _ _ _ | .vaFsgnjFvx d _ _ _ |
      .vaFsgnjnFvx d _ _ _ | .vaFsgnjxFvx d _ _ _ | .vaFsqrt d _ _ | .vaFrsqrte d _ _ | .vaFrece d _ _ |
      .vaFlog2 d _ _ | .vaFexp2 d _ _ | .vaFclass d _ _ | .vaMv d _ _ | .vaSplat d _ _ | .vaIota d _ | .vaRng d _ _ |
      .vaRedsum d _ _ | .vaFredsum d _ _ | .vaRedmax d _ _ | .vaRedmin d _ _ | .vaFredmax d _ _ | .vaFredmin d _ _ |
      .vaRedmaxi d _ _ | .vaFredmaxi d _ _ | .vaRedand d _ _ | .vaRedor d _ _ | .vaRedxor d _ _ | .vmLd d _ _ |
      .vmLds d _ _ _ | .vmLdx d _ _ _ | .vmLdff d _ _ | .vmLdnc d _ _ | .vmLdsc d _ _ | .vmLdmc d _ _ _ |
      .vmLdraw d _ _ | .vmLdgl d _ _ _ | .vmLdffx d _ _ _ | .vmAmoaddR d _ _ _ | .vmAmofaddR d _ _ _ |
      .vmAmominR d _ _ _ | .vmAmomaxR d _ _ _ | .vmAmominuR d _ _ _ | .vmAmomaxuR d _ _ _ | .vmAmoandR d _ _ _ |
      .vmAmoorR d _ _ _ | .vmAmoxorR d _ _ _ | .vmAmoswapR d _ _ _ | .vpSort d _ | .vpMergec d _ _ | .vpIsect d _ _ |
      .vpDiff d _ _ | .vpUniq d _ | .vpRank d _ _ | .vpPart d _ _ | .vpKeys d _ | .vpSpx d _ | .vpSpadd d _ _ |
      .vpSpmul d _ _ | .vpSpbuild d _ | .vpSpcoord d _ | .vpSpval d _ | .vpTopk d _ _ | .vpHist d _ _ | .vpScan d _ |
      .vpScani d _ | .vpGperm d _ _ | .vpSlideup d _ _ | .vpSlidedn d _ _ | .vpPerm d _ _ | .vpCompress d _ _ |
      .vpExpand d _ _ | .vpRotg d _ _ | .vpBcast d _ _ | .vpIns d _ _ | .vpSetd d _ | .vxTake d => [d.toNat]
  | .vaSeq _ _ _ _ | .vaSne _ _ _ _ | .vaSlt _ _ _ _ | .vaSltu _ _ _ _ | .vaSle _ _ _ _ | .vaSleu _ _ _ _ |
      .vaFeq _ _ _ _ | .vaFlt _ _ _ _ | .vaFle _ _ _ _ | .vaFne _ _ _ _ | .vaKand _ _ _ | .vaKor _ _ _ |
      .vaKxor _ _ _ | .vaKandn _ _ _ | .vaKnot _ _ | .vaKpop _ _ _ | .vaKfirst _ _ _ | .vaSetvl _ _ _ |
      .vaSetvlP _ _ _ | .vaSetcfg _ _ | .vaSetkey _ _ | .vmSt _ _ _ | .vmSts _ _ _ _ | .vmStx _ _ _ _ |
      .vmStsc _ _ _ | .vmStraw _ _ _ | .vmStcx _ _ _ _ | .vmAmoadd _ _ _ _ | .vmAmofadd _ _ _ _ | .vmAmomin _ _ _ _ |
      .vmAmomax _ _ _ _ | .vmAmominu _ _ _ _ | .vmAmomaxu _ _ _ _ | .vmAmoand _ _ _ _ | .vmAmoor _ _ _ _ |
      .vmAmoxor _ _ _ _ | .vmAmoswap _ _ _ _ | .vmAmocas _ _ _ _ | .vmUpdadd _ _ _ | .vmUpdfadd _ _ _ |
      .vmUpdmin _ _ _ | .vmUpdmax _ _ _ | .vmUpdfmax _ _ _ | .vmUpdfmin _ _ _ | .vmFence _ _ | .vmFenceb _ _ _ |
      .vmBwait _ _ _ | .vmGcsleep _ _ _ _ | .vmRofence _ | .vmCp _ _ _ | .vmCpwany _ _ _ | .vmCpwall _ _ _ |
      .vmCpffr _ _ _ | .vmCpclr _ _ | .vpSpdot _ _ _ | .vpExt _ _ _ | .vpGetd _ _ | .vxMunf _ | .vxPush _ _ _ _ |
      .vxFe _ | .vxClaim _ _ _ | .vxFulfil _ _ | .vxAbandon _ | .vxFld _ _ | .vxFprobe _ _ | .vxRelease _ |
      .vxSpawn _ _ | .vxEnd | .vxDep _ _ _ | .vxGlaunch _ | .vxYield | .vxLvl _ _ | .vxSave _ | .vxRestore |
      .vxVdrain | .vxIcinv _ | .vxTlbinv _ _ | .vxWdpet | .reservedWord _ | .fenceI _ _ _ | .sfenceVma _ _ |
      .scalarFence _ _ _ _ _ | .wfi | .sret | .mret | .ecallFromS | .scalarLoad _ _ _ _ | .scalarStore _ _ _ _ |
      .scalarAmo _ _ _ _ _ _ _ | .csrReadWait _ _ _ | .csrWriteVstat _ _ _ | .csrWriteVrthr _ _ _ |
      .csrWriteDatp _ _ _ | .csrWriteFmtb _ _ _ | .csrWrite _ _ _ _ | .elementGroupIssue | .vectorCommit |
      .trapEntry | .supervisorTimerInterrupt | .preemptionRequest | .forcedSave | .saveEngineTimeout |
      .watchdogExpiry | .taskDispatch | .taskResumption | .nodeReady | .readRequest | .readReply | .writeRequest |
      .writeAcknowledgement | .atomicRequest | .atomicReply | .lineLockRequest | .amoLockRetry |
      .scalarL1Invalidation | .invalidationAcknowledgement | .ownershipRequest | .ownershipGrant | .ownershipRecall |
      .barrierArrival | .barrierWaitRequest | .nackRetry | .slathClaimRequest | .slathFldRequest |
      .slathFulfilRequest | .slathAbandonRequest | .slathReleaseRequest | .slathProbeRequest | .scTicket |
      .pushRequest | .pushGrant | .pushData | .replicaUpdate | .epochCloseTimeout | .restamp | .forwardedAccess |
      .multicastReadRequest | .mergeWindowClose | .multicastReadReply | .routerCycle | .recordLossTimeout |
      .throttleWindowEnd | .routerPowerDown | .gcsleepWake | .gcsleepPoll | .pageWalk | .copyStart | .copyComplete |
      .copyFailure | .mgemmStep | .glaunchBlockServe | .glaunchNode | .glaunchDone | .queueDoorbell | .queueStart |
      .queueStop | .packetTake | .taskAbort | .tlbctlGo | .bar0RegisterWrite | .bar2Read | .bar2Write |
      .setPhysicalMap | .setWaleWindow | .setBasketPartition | .setContextTable | .setLinkBonding | .setPowerLimit |
      .sensorRead | .logRead | .firmwareUpdate | .attestation | .sensorSample | .scrub | .structureError |
      .coldReset | .packageReset | .dieReset | .pcieD3hot | .coreClockGate | .waleFlitReceive | .waleReplayRequest |
      .walePortRetrain | .remoteAccessTimeout | .remoteAccess | .scalarInstruction _ | .replicaDrop |
      .d3hotRestart => []
  | .vaFcvt d a _ _ => regs (fcvtRegs f.c a) d.toNat
  | .vmAmocasR d _ _ _ => [(2 * d.toNat)]
  | .vpChk _ b | .vpSpk _ b => [b.toNat]
  | .vpMerge d _ _ => [(2 * d.toNat), (2 * d.toNat + 1)]
  | .vxMmac d _ _ | .vxMmacs d _ _ _ | .vxMgemm d _ | .vxMtld d _ _ | .vxMzero d => regs (cfgG f.c) d.toNat
  | .vxMcomp d _ _ => regs (sparseRegs f (bits f.xa 0 16) (2 ^ bits f.xa 16 2)) (8 * d.toNat)

/-- Vector registers an instruction reads, the old value of a destination among them. -/
def vSources (i : Instr) (f : Foot) : List Nat :=
  match i with
  | .vaAddIvv d a b _ | .vaSubIvv d a b _ | .vaMulIvv d a b _ | .vaMulhIvv d a b _ | .vaMinIvv d a b _ |
      .vaMaxIvv d a b _ | .vaMinuIvv d a b _ | .vaMaxuIvv d a b _ | .vaAndIvv d a b _ | .vaOrIvv d a b _ |
      .vaXorIvv d a b _ | .vaSllIvv d a b _ | .vaSrlIvv d a b _ | .vaSraIvv d a b _ | .vaMergeIvv d a b _ |
      .vaMulhuIvv d a b _ | .vaFaddFvv d a b _ | .vaFsubFvv d a b _ | .vaFmulFvv d a b _ | .vaFdivFvv d a b _ |
      .vaFminFvv d a b _ | .vaFmaxFvv d a b _ | .vaFmaccFvv d a b _ | .vaFnmaccFvv d a b _ | .vaFmsacFvv d a b _ |
      .vaFnmsacFvv d a b _ | .vaFsgnjFvv d a b _ | .vaFsgnjnFvv d a b _ |
      .vaFsgnjxFvv d a b _ => [a.toNat, b.toNat, d.toNat]
  | .vaAddIvx d _ b _ | .vaSubIvx d _ b _ | .vaMulIvx d _ b _ | .vaMulhIvx d _ b _ | .vaMinIvx d _ b _ |
      .vaMaxIvx d _ b _ | .vaMinuIvx d _ b _ | .vaMaxuIvx d _ b _ | .vaAndIvx d _ b _ | .vaOrIvx d _ b _ |
      .vaXorIvx d _ b _ | .vaSllIvx d _ b _ | .vaSrlIvx d _ b _ | .vaSraIvx d _ b _ | .vaMergeIvx d _ b _ |
      .vaMulhuIvx d _ b _ | .vaAddIvi d _ b _ | .vaSubIvi d _ b _ | .vaMinIvi d _ b _ | .vaMaxIvi d _ b _ |
      .vaMinuIvi d _ b _ | .vaMaxuIvi d _ b _ | .vaAndIvi d _ b _ | .vaOrIvi d _ b _ | .vaXorIvi d _ b _ |
      .vaSllIvi d _ b _ | .vaSrlIvi d _ b _ | .vaSraIvi d _ b _ | .vaMergeIvi d _ b _ | .vaFaddFvx d _ b _ |
      .vaFsubFvx d _ b _ | .vaFmulFvx d _ b _ | .vaFdivFvx d _ b _ | .vaFminFvx d _ b _ | .vaFmaxFvx d _ b _ |
      .vaFmaccFvx d _ b _ | .vaFnmaccFvx d _ b _ | .vaFmsacFvx d _ b _ | .vaFnmsacFvx d _ b _ | .vaFsgnjFvx d _ b _ |
      .vaFsgnjnFvx d _ b _ | .vaFsgnjxFvx d _ b _ | .vaFsqrt d b _ | .vaFrsqrte d b _ | .vaFrece d b _ |
      .vaFlog2 d b _ | .vaFexp2 d b _ | .vaFclass d b _ | .vaMv d b _ => [b.toNat, d.toNat]
  | .vaSeq _ a b _ | .vaSne _ a b _ | .vaSlt _ a b _ | .vaSltu _ a b _ | .vaSle _ a b _ | .vaSleu _ a b _ |
      .vaFeq _ a b _ | .vaFlt _ a b _ | .vaFle _ a b _ | .vaFne _ a b _ | .vpSpdot _ a b => [b.toNat, a.toNat]
  | .vaKand _ _ _ | .vaKor _ _ _ | .vaKxor _ _ _ | .vaKandn _ _ _ | .vaKnot _ _ | .vaKpop _ _ _ | .vaKfirst _ _ _ |
      .vaSetvl _ _ _ | .vaSetvlP _ _ _ | .vaSetcfg _ _ | .vaSetkey _ _ | .vmFence _ _ | .vmFenceb _ _ _ |
      .vmBwait _ _ _ | .vmRofence _ | .vmCp _ _ _ | .vmCpwany _ _ _ | .vmCpwall _ _ _ | .vmCpffr _ _ _ |
      .vmCpclr _ _ | .vxMtld _ _ _ | .vxMunf _ | .vxMzero _ | .vxTake _ | .vxFe _ | .vxClaim _ _ _ | .vxFulfil _ _ |
      .vxAbandon _ | .vxFld _ _ | .vxFprobe _ _ | .vxRelease _ | .vxSpawn _ _ | .vxEnd | .vxDep _ _ _ |
      .vxGlaunch _ | .vxYield | .vxLvl _ _ | .vxSave _ | .vxRestore | .vxVdrain | .vxIcinv _ | .vxTlbinv _ _ |
      .vxWdpet | .reservedWord _ | .fenceI _ _ _ | .sfenceVma _ _ | .scalarFence _ _ _ _ _ | .wfi | .sret | .mret |
      .ecallFromS | .scalarLoad _ _ _ _ | .scalarStore _ _ _ _ | .scalarAmo _ _ _ _ _ _ _ | .csrReadWait _ _ _ |
      .csrWriteVstat _ _ _ | .csrWriteVrthr _ _ _ | .csrWriteDatp _ _ _ | .csrWriteFmtb _ _ _ | .csrWrite _ _ _ _ |
      .elementGroupIssue | .vectorCommit | .trapEntry | .supervisorTimerInterrupt | .preemptionRequest |
      .forcedSave | .saveEngineTimeout | .watchdogExpiry | .taskDispatch | .taskResumption | .nodeReady |
      .readRequest | .readReply | .writeRequest | .writeAcknowledgement | .atomicRequest | .atomicReply |
      .lineLockRequest | .amoLockRetry | .scalarL1Invalidation | .invalidationAcknowledgement | .ownershipRequest |
      .ownershipGrant | .ownershipRecall | .barrierArrival | .barrierWaitRequest | .nackRetry | .slathClaimRequest |
      .slathFldRequest | .slathFulfilRequest | .slathAbandonRequest | .slathReleaseRequest | .slathProbeRequest |
      .scTicket | .pushRequest | .pushGrant | .pushData | .replicaUpdate | .epochCloseTimeout | .restamp |
      .forwardedAccess | .multicastReadRequest | .mergeWindowClose | .multicastReadReply | .routerCycle |
      .recordLossTimeout | .throttleWindowEnd | .routerPowerDown | .gcsleepWake | .gcsleepPoll | .pageWalk |
      .copyStart | .copyComplete | .copyFailure | .mgemmStep | .glaunchBlockServe | .glaunchNode | .glaunchDone |
      .queueDoorbell | .queueStart | .queueStop | .packetTake | .taskAbort | .tlbctlGo | .bar0RegisterWrite |
      .bar2Read | .bar2Write | .setPhysicalMap | .setWaleWindow | .setBasketPartition | .setContextTable |
      .setLinkBonding | .setPowerLimit | .sensorRead | .logRead | .firmwareUpdate | .attestation | .sensorSample |
      .scrub | .structureError | .coldReset | .packageReset | .dieReset | .pcieD3hot | .coreClockGate |
      .waleFlitReceive | .waleReplayRequest | .walePortRetrain | .remoteAccessTimeout | .remoteAccess |
      .scalarInstruction _ | .replicaDrop | .d3hotRestart => []
  | .vaFcvt d a b _ => b.toNat :: regs (fcvtRegs f.c a) d.toNat
  | .vaSplat d _ _ | .vaIota d _ | .vaRng d _ _ | .vmLd d _ _ | .vmLds d _ _ _ | .vmLdff d _ _ | .vmLdnc d _ _ |
      .vmLdsc d _ _ | .vmLdmc d _ _ _ | .vmLdraw d _ _ | .vmSt d _ _ | .vmSts d _ _ _ | .vmStsc d _ _ |
      .vmStraw d _ _ | .vmUpdadd d _ _ | .vmUpdfadd d _ _ | .vmUpdmin d _ _ | .vmUpdmax d _ _ | .vmUpdfmax d _ _ |
      .vmUpdfmin d _ _ | .vpIns d _ _ | .vpSetd d _ => [d.toNat]
  | .vaRedsum _ b _ | .vaFredsum _ b _ | .vaRedmax _ b _ | .vaRedmin _ b _ | .vaFredmax _ b _ | .vaFredmin _ b _ |
      .vaRedmaxi _ b _ | .vaFredmaxi _ b _ | .vaRedand _ b _ | .vaRedor _ b _ | .vaRedxor _ b _ | .vpSort _ b |
      .vpChk _ b | .vpUniq _ b | .vpKeys _ b | .vpSpk _ b | .vpSpx _ b | .vpSpbuild _ b | .vpSpcoord _ b |
      .vpSpval _ b | .vpTopk _ _ b | .vpHist _ _ b | .vpScan _ b | .vpScani _ b | .vpSlideup _ _ b |
      .vpSlidedn _ _ b | .vpCompress _ _ b | .vpExpand _ _ b | .vpRotg _ _ b | .vpBcast _ _ b | .vpExt _ _ b |
      .vpGetd _ b => [b.toNat]
  | .vmLdx d _ b _ | .vmLdgl d _ b _ | .vmLdffx d _ b _ | .vmStx d _ b _ | .vmStcx d _ b _ | .vmAmoadd d _ b _ |
      .vmAmofadd d _ b _ | .vmAmomin d _ b _ | .vmAmomax d _ b _ | .vmAmominu d _ b _ | .vmAmomaxu d _ b _ |
      .vmAmoand d _ b _ | .vmAmoor d _ b _ | .vmAmoxor d _ b _ | .vmAmoswap d _ b _ | .vmAmoaddR d _ b _ |
      .vmAmofaddR d _ b _ | .vmAmominR d _ b _ | .vmAmomaxR d _ b _ | .vmAmominuR d _ b _ | .vmAmomaxuR d _ b _ |
      .vmAmoandR d _ b _ | .vmAmoorR d _ b _ | .vmAmoxorR d _ b _ | .vmAmoswapR d _ b _ => d.toNat :: idxRegs f.c b
  | .vmAmocas d _ b _ | .vmAmocasR d _ b _ => (2 * d.toNat) :: ((2 * d.toNat) + 1) :: idxRegs f.c b
  | .vmGcsleep d _ _ _ => [(2 * d.toNat), (2 * d.toNat + 1)]
  | .vpMerge _ a b | .vpMergec _ a b | .vpIsect _ a b | .vpDiff _ a b | .vpRank _ a b | .vpPart _ a b |
      .vpSpadd _ a b | .vpSpmul _ a b | .vpGperm _ a b | .vpPerm _ a b => [a.toNat, b.toNat]
  |
      .vxMmac d a b => regs (cfgG f.c) d.toNat ++ regs (cfgG f.c) a.toNat ++ regs (denseRegs f (f.len a.toNat * 32 / cfgW f.c)) b.toNat
  |
      .vxMmacs d a e n => regs (cfgG f.c) d.toNat ++ regs (cfgG f.c) a.toNat ++ regs (sparseRegs f (f.len a.toNat * 32 / cfgW f.c) (2 ^ n.toNat)) (8 * e.toNat)
  | .vxMgemm d _ => regs (cfgG f.c) d.toNat
  | .vxMcomp _ _ b => regs (denseRegs f (bits f.xa 0 16)) b.toNat
  | .vxPush _ _ b _ => regs (cfgG f.c) b.toNat

/-- Mask registers an instruction writes. -/
def kDests (i : Instr) (_ : Foot) : List KReg :=
  match i with
  | .vaAddIvv _ _ _ _ | .vaSubIvv _ _ _ _ | .vaMulIvv _ _ _ _ | .vaMulhIvv _ _ _ _ | .vaMinIvv _ _ _ _ |
      .vaMaxIvv _ _ _ _ | .vaMinuIvv _ _ _ _ | .vaMaxuIvv _ _ _ _ | .vaAndIvv _ _ _ _ | .vaOrIvv _ _ _ _ |
      .vaXorIvv _ _ _ _ | .vaSllIvv _ _ _ _ | .vaSrlIvv _ _ _ _ | .vaSraIvv _ _ _ _ | .vaMergeIvv _ _ _ _ |
      .vaMulhuIvv _ _ _ _ | .vaAddIvx _ _ _ _ | .vaSubIvx _ _ _ _ | .vaMulIvx _ _ _ _ | .vaMulhIvx _ _ _ _ |
      .vaMinIvx _ _ _ _ | .vaMaxIvx _ _ _ _ | .vaMinuIvx _ _ _ _ | .vaMaxuIvx _ _ _ _ | .vaAndIvx _ _ _ _ |
      .vaOrIvx _ _ _ _ | .vaXorIvx _ _ _ _ | .vaSllIvx _ _ _ _ | .vaSrlIvx _ _ _ _ | .vaSraIvx _ _ _ _ |
      .vaMergeIvx _ _ _ _ | .vaMulhuIvx _ _ _ _ | .vaAddIvi _ _ _ _ | .vaSubIvi _ _ _ _ | .vaMinIvi _ _ _ _ |
      .vaMaxIvi _ _ _ _ | .vaMinuIvi _ _ _ _ | .vaMaxuIvi _ _ _ _ | .vaAndIvi _ _ _ _ | .vaOrIvi _ _ _ _ |
      .vaXorIvi _ _ _ _ | .vaSllIvi _ _ _ _ | .vaSrlIvi _ _ _ _ | .vaSraIvi _ _ _ _ | .vaMergeIvi _ _ _ _ |
      .vaFaddFvv _ _ _ _ | .vaFsubFvv _ _ _ _ | .vaFmulFvv _ _ _ _ | .vaFdivFvv _ _ _ _ | .vaFminFvv _ _ _ _ |
      .vaFmaxFvv _ _ _ _ | .vaFmaccFvv _ _ _ _ | .vaFnmaccFvv _ _ _ _ | .vaFmsacFvv _ _ _ _ | .vaFnmsacFvv _ _ _ _ |
      .vaFsgnjFvv _ _ _ _ | .vaFsgnjnFvv _ _ _ _ | .vaFsgnjxFvv _ _ _ _ | .vaFaddFvx _ _ _ _ | .vaFsubFvx _ _ _ _ |
      .vaFmulFvx _ _ _ _ | .vaFdivFvx _ _ _ _ | .vaFminFvx _ _ _ _ | .vaFmaxFvx _ _ _ _ | .vaFmaccFvx _ _ _ _ |
      .vaFnmaccFvx _ _ _ _ | .vaFmsacFvx _ _ _ _ | .vaFnmsacFvx _ _ _ _ | .vaFsgnjFvx _ _ _ _ |
      .vaFsgnjnFvx _ _ _ _ | .vaFsgnjxFvx _ _ _ _ | .vaFsqrt _ _ _ | .vaFrsqrte _ _ _ | .vaFrece _ _ _ |
      .vaFlog2 _ _ _ | .vaFexp2 _ _ _ | .vaFclass _ _ _ | .vaFcvt _ _ _ _ | .vaMv _ _ _ | .vaSplat _ _ _ |
      .vaIota _ _ | .vaRng _ _ _ | .vaRedsum _ _ _ | .vaFredsum _ _ _ | .vaRedmax _ _ _ | .vaRedmin _ _ _ |
      .vaFredmax _ _ _ | .vaFredmin _ _ _ | .vaRedmaxi _ _ _ | .vaFredmaxi _ _ _ | .vaRedand _ _ _ | .vaRedor _ _ _ |
      .vaRedxor _ _ _ | .vaKpop _ _ _ | .vaKfirst _ _ _ | .vaSetvl _ _ _ | .vaSetvlP _ _ _ | .vaSetcfg _ _ |
      .vaSetkey _ _ | .vmLd _ _ _ | .vmLds _ _ _ _ | .vmLdx _ _ _ _ | .vmLdnc _ _ _ | .vmLdsc _ _ _ |
      .vmLdmc _ _ _ _ | .vmLdraw _ _ _ | .vmLdgl _ _ _ _ | .vmSt _ _ _ | .vmSts _ _ _ _ | .vmStx _ _ _ _ |
      .vmStsc _ _ _ | .vmStraw _ _ _ | .vmAmoadd _ _ _ _ | .vmAmofadd _ _ _ _ | .vmAmomin _ _ _ _ |
      .vmAmomax _ _ _ _ | .vmAmominu _ _ _ _ | .vmAmomaxu _ _ _ _ | .vmAmoand _ _ _ _ | .vmAmoor _ _ _ _ |
      .vmAmoxor _ _ _ _ | .vmAmoswap _ _ _ _ | .vmAmocas _ _ _ _ | .vmAmoaddR _ _ _ _ | .vmAmofaddR _ _ _ _ |
      .vmAmominR _ _ _ _ | .vmAmomaxR _ _ _ _ | .vmAmominuR _ _ _ _ | .vmAmomaxuR _ _ _ _ | .vmAmoandR _ _ _ _ |
      .vmAmoorR _ _ _ _ | .vmAmoxorR _ _ _ _ | .vmAmoswapR _ _ _ _ | .vmAmocasR _ _ _ _ | .vmUpdadd _ _ _ |
      .vmUpdfadd _ _ _ | .vmUpdmin _ _ _ | .vmUpdmax _ _ _ | .vmUpdfmax _ _ _ | .vmUpdfmin _ _ _ | .vmFence _ _ |
      .vmFenceb _ _ _ | .vmBwait _ _ _ | .vmRofence _ | .vmCp _ _ _ | .vmCpwany _ _ _ | .vmCpwall _ _ _ |
      .vmCpffr _ _ _ | .vmCpclr _ _ | .vpSort _ _ | .vpChk _ _ | .vpMerge _ _ _ | .vpMergec _ _ _ | .vpIsect _ _ _ |
      .vpDiff _ _ _ | .vpUniq _ _ | .vpRank _ _ _ | .vpPart _ _ _ | .vpKeys _ _ | .vpSpk _ _ | .vpSpx _ _ |
      .vpSpadd _ _ _ | .vpSpmul _ _ _ | .vpSpdot _ _ _ | .vpSpbuild _ _ | .vpSpcoord _ _ | .vpSpval _ _ |
      .vpTopk _ _ _ | .vpHist _ _ _ | .vpScan _ _ | .vpScani _ _ | .vpGperm _ _ _ | .vpSlideup _ _ _ |
      .vpSlidedn _ _ _ | .vpPerm _ _ _ | .vpCompress _ _ _ | .vpExpand _ _ _ | .vpRotg _ _ _ | .vpBcast _ _ _ |
      .vpExt _ _ _ | .vpIns _ _ _ | .vpGetd _ _ | .vpSetd _ _ | .vxMmac _ _ _ | .vxMmacs _ _ _ _ | .vxMgemm _ _ |
      .vxMtld _ _ _ | .vxMcomp _ _ _ | .vxMunf _ | .vxMzero _ | .vxPush _ _ _ _ | .vxTake _ | .vxFe _ |
      .vxClaim _ _ _ | .vxFulfil _ _ | .vxAbandon _ | .vxFld _ _ | .vxFprobe _ _ | .vxRelease _ | .vxSpawn _ _ |
      .vxEnd | .vxDep _ _ _ | .vxGlaunch _ | .vxYield | .vxLvl _ _ | .vxSave _ | .vxRestore | .vxVdrain |
      .vxIcinv _ | .vxTlbinv _ _ | .vxWdpet | .reservedWord _ | .fenceI _ _ _ | .sfenceVma _ _ |
      .scalarFence _ _ _ _ _ | .wfi | .sret | .mret | .ecallFromS | .scalarLoad _ _ _ _ | .scalarStore _ _ _ _ |
      .scalarAmo _ _ _ _ _ _ _ | .csrReadWait _ _ _ | .csrWriteVstat _ _ _ | .csrWriteVrthr _ _ _ |
      .csrWriteDatp _ _ _ | .csrWriteFmtb _ _ _ | .csrWrite _ _ _ _ | .elementGroupIssue | .vectorCommit |
      .trapEntry | .supervisorTimerInterrupt | .preemptionRequest | .forcedSave | .saveEngineTimeout |
      .watchdogExpiry | .taskDispatch | .taskResumption | .nodeReady | .readRequest | .readReply | .writeRequest |
      .writeAcknowledgement | .atomicRequest | .atomicReply | .lineLockRequest | .amoLockRetry |
      .scalarL1Invalidation | .invalidationAcknowledgement | .ownershipRequest | .ownershipGrant | .ownershipRecall |
      .barrierArrival | .barrierWaitRequest | .nackRetry | .slathClaimRequest | .slathFldRequest |
      .slathFulfilRequest | .slathAbandonRequest | .slathReleaseRequest | .slathProbeRequest | .scTicket |
      .pushRequest | .pushGrant | .pushData | .replicaUpdate | .epochCloseTimeout | .restamp | .forwardedAccess |
      .multicastReadRequest | .mergeWindowClose | .multicastReadReply | .routerCycle | .recordLossTimeout |
      .throttleWindowEnd | .routerPowerDown | .gcsleepWake | .gcsleepPoll | .pageWalk | .copyStart | .copyComplete |
      .copyFailure | .mgemmStep | .glaunchBlockServe | .glaunchNode | .glaunchDone | .queueDoorbell | .queueStart |
      .queueStop | .packetTake | .taskAbort | .tlbctlGo | .bar0RegisterWrite | .bar2Read | .bar2Write |
      .setPhysicalMap | .setWaleWindow | .setBasketPartition | .setContextTable | .setLinkBonding | .setPowerLimit |
      .sensorRead | .logRead | .firmwareUpdate | .attestation | .sensorSample | .scrub | .structureError |
      .coldReset | .packageReset | .dieReset | .pcieD3hot | .coreClockGate | .waleFlitReceive | .waleReplayRequest |
      .walePortRetrain | .remoteAccessTimeout | .remoteAccess | .scalarInstruction _ | .replicaDrop |
      .d3hotRestart => []
  | .vaSeq d _ _ _ | .vaSne d _ _ _ | .vaSlt d _ _ _ | .vaSltu d _ _ _ | .vaSle d _ _ _ | .vaSleu d _ _ _ |
      .vaFeq d _ _ _ | .vaFlt d _ _ _ | .vaFle d _ _ _ | .vaFne d _ _ _ | .vaKand d _ _ | .vaKor d _ _ |
      .vaKxor d _ _ | .vaKandn d _ _ | .vaKnot d _ => [d]
  | .vmLdff _ _ m | .vmLdffx _ _ _ m | .vmStcx _ _ _ m | .vmGcsleep _ _ _ m => [m]

/-- Mask registers an instruction reads. -/
def kSources (i : Instr) (_ : Foot) : List KReg :=
  match i with
  | .vaAddIvv _ _ _ m | .vaSubIvv _ _ _ m | .vaMulIvv _ _ _ m | .vaMulhIvv _ _ _ m | .vaMinIvv _ _ _ m |
      .vaMaxIvv _ _ _ m | .vaMinuIvv _ _ _ m | .vaMaxuIvv _ _ _ m | .vaAndIvv _ _ _ m | .vaOrIvv _ _ _ m |
      .vaXorIvv _ _ _ m | .vaSllIvv _ _ _ m | .vaSrlIvv _ _ _ m | .vaSraIvv _ _ _ m | .vaMergeIvv _ _ _ m |
      .vaMulhuIvv _ _ _ m | .vaAddIvx _ _ _ m | .vaSubIvx _ _ _ m | .vaMulIvx _ _ _ m | .vaMulhIvx _ _ _ m |
      .vaMinIvx _ _ _ m | .vaMaxIvx _ _ _ m | .vaMinuIvx _ _ _ m | .vaMaxuIvx _ _ _ m | .vaAndIvx _ _ _ m |
      .vaOrIvx _ _ _ m | .vaXorIvx _ _ _ m | .vaSllIvx _ _ _ m | .vaSrlIvx _ _ _ m | .vaSraIvx _ _ _ m |
      .vaMergeIvx _ _ _ m | .vaMulhuIvx _ _ _ m | .vaAddIvi _ _ _ m | .vaSubIvi _ _ _ m | .vaMinIvi _ _ _ m |
      .vaMaxIvi _ _ _ m | .vaMinuIvi _ _ _ m | .vaMaxuIvi _ _ _ m | .vaAndIvi _ _ _ m | .vaOrIvi _ _ _ m |
      .vaXorIvi _ _ _ m | .vaSllIvi _ _ _ m | .vaSrlIvi _ _ _ m | .vaSraIvi _ _ _ m | .vaMergeIvi _ _ _ m |
      .vaFaddFvv _ _ _ m | .vaFsubFvv _ _ _ m | .vaFmulFvv _ _ _ m | .vaFdivFvv _ _ _ m | .vaFminFvv _ _ _ m |
      .vaFmaxFvv _ _ _ m | .vaFmaccFvv _ _ _ m | .vaFnmaccFvv _ _ _ m | .vaFmsacFvv _ _ _ m | .vaFnmsacFvv _ _ _ m |
      .vaFsgnjFvv _ _ _ m | .vaFsgnjnFvv _ _ _ m | .vaFsgnjxFvv _ _ _ m | .vaFaddFvx _ _ _ m | .vaFsubFvx _ _ _ m |
      .vaFmulFvx _ _ _ m | .vaFdivFvx _ _ _ m | .vaFminFvx _ _ _ m | .vaFmaxFvx _ _ _ m | .vaFmaccFvx _ _ _ m |
      .vaFnmaccFvx _ _ _ m | .vaFmsacFvx _ _ _ m | .vaFnmsacFvx _ _ _ m | .vaFsgnjFvx _ _ _ m |
      .vaFsgnjnFvx _ _ _ m | .vaFsgnjxFvx _ _ _ m | .vaSeq _ _ _ m | .vaSne _ _ _ m | .vaSlt _ _ _ m |
      .vaSltu _ _ _ m | .vaSle _ _ _ m | .vaSleu _ _ _ m | .vaFeq _ _ _ m | .vaFlt _ _ _ m | .vaFle _ _ _ m |
      .vaFne _ _ _ m | .vaFsqrt _ _ m | .vaFrsqrte _ _ m | .vaFrece _ _ m | .vaFlog2 _ _ m | .vaFexp2 _ _ m |
      .vaFclass _ _ m | .vaFcvt _ _ _ m | .vaMv _ _ m | .vaSplat _ _ m | .vaIota _ m | .vaRng _ _ m |
      .vaRedsum _ _ m | .vaFredsum _ _ m | .vaRedmax _ _ m | .vaRedmin _ _ m | .vaFredmax _ _ m | .vaFredmin _ _ m |
      .vaRedmaxi _ _ m | .vaFredmaxi _ _ m | .vaRedand _ _ m | .vaRedor _ _ m | .vaRedxor _ _ m | .vmLd _ _ m |
      .vmLds _ _ _ m | .vmLdx _ _ _ m | .vmLdff _ _ m | .vmLdnc _ _ m | .vmLdsc _ _ m | .vmLdmc _ _ _ m |
      .vmLdraw _ _ m | .vmLdgl _ _ _ m | .vmLdffx _ _ _ m | .vmSt _ _ m | .vmSts _ _ _ m | .vmStx _ _ _ m |
      .vmStsc _ _ m | .vmStraw _ _ m | .vmStcx _ _ _ m | .vmAmoadd _ _ _ m | .vmAmofadd _ _ _ m | .vmAmomin _ _ _ m |
      .vmAmomax _ _ _ m | .vmAmominu _ _ _ m | .vmAmomaxu _ _ _ m | .vmAmoand _ _ _ m | .vmAmoor _ _ _ m |
      .vmAmoxor _ _ _ m | .vmAmoswap _ _ _ m | .vmAmocas _ _ _ m | .vmAmoaddR _ _ _ m | .vmAmofaddR _ _ _ m |
      .vmAmominR _ _ _ m | .vmAmomaxR _ _ _ m | .vmAmominuR _ _ _ m | .vmAmomaxuR _ _ _ m | .vmAmoandR _ _ _ m |
      .vmAmoorR _ _ _ m | .vmAmoxorR _ _ _ m | .vmAmoswapR _ _ _ m | .vmAmocasR _ _ _ m | .vmUpdadd _ _ m |
      .vmUpdfadd _ _ m | .vmUpdmin _ _ m | .vmUpdmax _ _ m | .vmUpdfmax _ _ m | .vmUpdfmin _ _ m | .vmFence _ m |
      .vmFenceb _ _ m | .vmBwait _ _ m | .vmGcsleep _ _ _ m | .vmRofence m | .vmCp _ _ m | .vmCpwany _ _ m |
      .vmCpwall _ _ m | .vmCpffr _ _ m | .vmCpclr _ m | .vxPush _ _ _ m => [m]
  | .vaKand _ a b | .vaKor _ a b | .vaKxor _ a b | .vaKandn _ a b => [a, b]
  | .vaKnot _ b => [b]
  | .vaKpop _ b m | .vaKfirst _ b m => [m, b]
  | .vaSetvl _ _ _ | .vaSetvlP _ _ _ | .vaSetcfg _ _ | .vaSetkey _ _ | .vpSort _ _ | .vpChk _ _ | .vpMerge _ _ _ |
      .vpMergec _ _ _ | .vpIsect _ _ _ | .vpDiff _ _ _ | .vpUniq _ _ | .vpRank _ _ _ | .vpPart _ _ _ | .vpKeys _ _ |
      .vpSpk _ _ | .vpSpx _ _ | .vpSpadd _ _ _ | .vpSpmul _ _ _ | .vpSpdot _ _ _ | .vpSpbuild _ _ | .vpSpcoord _ _ |
      .vpSpval _ _ | .vpTopk _ _ _ | .vpHist _ _ _ | .vpScan _ _ | .vpScani _ _ | .vpGperm _ _ _ | .vpSlideup _ _ _ |
      .vpSlidedn _ _ _ | .vpPerm _ _ _ | .vpRotg _ _ _ | .vpBcast _ _ _ | .vpExt _ _ _ | .vpIns _ _ _ | .vpGetd _ _ |
      .vpSetd _ _ | .vxMmac _ _ _ | .vxMmacs _ _ _ _ | .vxMgemm _ _ | .vxMtld _ _ _ | .vxMcomp _ _ _ | .vxMunf _ |
      .vxMzero _ | .vxTake _ | .vxFe _ | .vxClaim _ _ _ | .vxFulfil _ _ | .vxAbandon _ | .vxFld _ _ | .vxFprobe _ _ |
      .vxRelease _ | .vxSpawn _ _ | .vxEnd | .vxDep _ _ _ | .vxGlaunch _ | .vxYield | .vxLvl _ _ | .vxSave _ |
      .vxRestore | .vxVdrain | .vxIcinv _ | .vxTlbinv _ _ | .vxWdpet | .reservedWord _ | .fenceI _ _ _ |
      .sfenceVma _ _ | .scalarFence _ _ _ _ _ | .wfi | .sret | .mret | .ecallFromS | .scalarLoad _ _ _ _ |
      .scalarStore _ _ _ _ | .scalarAmo _ _ _ _ _ _ _ | .csrReadWait _ _ _ | .csrWriteVstat _ _ _ |
      .csrWriteVrthr _ _ _ | .csrWriteDatp _ _ _ | .csrWriteFmtb _ _ _ | .csrWrite _ _ _ _ | .elementGroupIssue |
      .vectorCommit | .trapEntry | .supervisorTimerInterrupt | .preemptionRequest | .forcedSave |
      .saveEngineTimeout | .watchdogExpiry | .taskDispatch | .taskResumption | .nodeReady | .readRequest |
      .readReply | .writeRequest | .writeAcknowledgement | .atomicRequest | .atomicReply | .lineLockRequest |
      .amoLockRetry | .scalarL1Invalidation | .invalidationAcknowledgement | .ownershipRequest | .ownershipGrant |
      .ownershipRecall | .barrierArrival | .barrierWaitRequest | .nackRetry | .slathClaimRequest | .slathFldRequest |
      .slathFulfilRequest | .slathAbandonRequest | .slathReleaseRequest | .slathProbeRequest | .scTicket |
      .pushRequest | .pushGrant | .pushData | .replicaUpdate | .epochCloseTimeout | .restamp | .forwardedAccess |
      .multicastReadRequest | .mergeWindowClose | .multicastReadReply | .routerCycle | .recordLossTimeout |
      .throttleWindowEnd | .routerPowerDown | .gcsleepWake | .gcsleepPoll | .pageWalk | .copyStart | .copyComplete |
      .copyFailure | .mgemmStep | .glaunchBlockServe | .glaunchNode | .glaunchDone | .queueDoorbell | .queueStart |
      .queueStop | .packetTake | .taskAbort | .tlbctlGo | .bar0RegisterWrite | .bar2Read | .bar2Write |
      .setPhysicalMap | .setWaleWindow | .setBasketPartition | .setContextTable | .setLinkBonding | .setPowerLimit |
      .sensorRead | .logRead | .firmwareUpdate | .attestation | .sensorSample | .scrub | .structureError |
      .coldReset | .packageReset | .dieReset | .pcieD3hot | .coreClockGate | .waleFlitReceive | .waleReplayRequest |
      .walePortRetrain | .remoteAccessTimeout | .remoteAccess | .scalarInstruction _ | .replicaDrop |
      .d3hotRestart => []
  | .vpCompress _ a _ | .vpExpand _ a _ => [a]

end Sys2Proof.Machine
end

