-- ==== Sys2Proof/Machine/Address.lean ====
section
/-! DEFINITION. Addresses of the elements of memory instructions, the formats of their pages, and the translations that an entry of the
vector queue holds from its fault point on (R102, R106, R107, R148, R223, R367). -/

namespace Sys2Proof.Machine

/-- Width of the elements under the captured `vcfg` (R96). -/
def Ctx.w (c : Ctx) : Nat := cfgW c.cfg

/-- A fault of one element: its cause and trap value. -/
abbrev EFault := Nat × Nat

/-- The cause of an element whose translation fails (R106, R364). -/
def vCause (acc : Acc) : XFault → Nat
  | .page => 25
  | .access => if acc = .write then 7 else 5
  | .dataErr => 27

/-- Locations of `n` bytes of an element, or the cause it raises. -/
def vLocs (c : Ctx) (s : State) (acc : Acc) (va n : Nat) : Except Nat (List Nat) :=
  match locateBytes s (coreOf s.gid) c.xl acc va n with
  | .ok ls => .ok ls
  | .error f => .error (vCause acc f)

/-- The device lines of a descriptor of `n` bytes at x[a], where it is aligned and translates: they are read once no vector atomic holds
them, and recalled from an engine that owns them (R194, R255). -/
def descLines (c : Ctx) (s : State) (n : Nat) : List Nat :=
  if c.xa.toNat % 64 ≠ 0 then []
  else
    match vLocs c s .read c.xa.toNat n with
    | .ok locs => (linesOfLocs locs).filter fun l => isDevice (l * 128)
    | .error _ => []

/-- The format of the page that holds an address, with the page; or the cause (R106, R148). -/
def fmtAt (c : Ctx) (s : State) (acc : Acc) (va : Nat) : Except Nat (Option FmtEntry × Page) :=
  match translate s (coreOf s.gid) c.xl acc va with
  | .error f => .error (vCause acc f)
  | .ok p =>
    match pageFormat s c.xl.fmtb p with
    | .plain => .ok (none, p)
    | .format e => .ok (some e, p)
    | .invalid => .error 26
    | .access => .error (vCause acc .access)
    | .dataErr => .error 27

/-- Whether a memory format is INT4Q, INT8Q or S8SP. -/
def isPacked (e : FmtEntry) : Bool := decide (16 ≤ e.fmt)

/-- Base of a virtual page. -/
def pageBase (va : Nat) (p : Page) : Nat := va / 2 ^ p.size * 2 ^ p.size

/-- Bytes of one group's storage (R154). -/
def groupBytes (e : FmtEntry) : Nat := if e.fmt = 16 then e.gs / 2 else if e.fmt = 17 then e.gs else 2 * e.n

/-- Positions of one group. -/
def groupPositions (e : FmtEntry) : Nat := if e.fmt = 18 then 8 else e.gs

/-- The format of the base's page where it can be known (R107, R154). -/
def baseFormat (c : Ctx) (s : State) (acc : Acc) : Option (FmtEntry × Page) :=
  match fmtAt c s acc c.xa.toNat with
  | .ok (some e, p) => some (e, p)
  | _ => none

/-- Bytes of an element at unit stride: the base page's format counts (R107); `w/8` where that cannot be known (DESIGN CHOICE; no
element active at the base). -/
def unitBytes (c : Ctx) (s : State) (acc : Acc) : Nat :=
  match baseFormat c s acc with
  | some (e, _) => if isPacked e then c.w / 8 else fmtWidth e.fmt / 8
  | none => c.w / 8

/-- addr(i) of a unit-stride or strided access (R102). -/
def addrUnit (c : Ctx) (S : Int) (i : Nat) : Nat := ((c.xa.toNat : Int) + (i : Int) * S).emod ((2 ^ 64 : Nat) : Int) |>.toNat

/-- addr(i) of a unit-stride access in elements of `n` bytes. -/
def addrOf (c : Ctx) (n i : Nat) : Nat := addrUnit c (n : Int) i

/-- idx(i) of an indexed access (R223). -/
def indexOf (s : State) (b : Reg) (i : Nat) : Nat := elem 32 (srcV s (b.toNat + i / 1024)).bits (i % 1024)

/-- addr(i) of an indexed access (R223). -/
def addrIndexed (c : Ctx) (s : State) (b : Reg) (i : Nat) : Nat := (c.xa.toNat + indexOf s b i) % 2 ^ 64

/-- The indices an instruction still has to perform: active, below VL, at or above its progress (R28.3, R97). -/
def todo (c : Ctx) (s : State) (m : KReg) : List Nat :=
  (List.range c.vl).filter fun i => actOf s m i && decide (c.progress ≤ i)

/-- The register that a field of its upper four bits names (R40.2). -/
def evenReg (d : BitVec 4) : Reg := d ++ 0#1

/-- The pitch of `vx.mtld` (R292). -/
def tilePitch (c : Ctx) : Int := sgn 48 c.xb.toNat

/-- The context in which row r of a tile load is a `vm.ld` (R292). -/
def rowCtx (c : Ctx) (r : Nat) : Ctx := { c with xa := c.xa + BitVec.ofInt 64 ((r : Int) * tilePitch c) }

/-- addr(i) of raw w-bit elements at unit stride (R226, R231). -/
def rawAddr (c : Ctx) (_ : State) (i : Nat) : Nat := addrOf c (c.w / 8) i

/-- A stretch of bytes that an instruction touches: how, where, and how many. -/
abbrev Span := Acc × Nat × Nat

/-- Bytes of an element at an address: of its page's format, or `w/8`. -/
def elemBytes (c : Ctx) (s : State) (acc : Acc) (va : Nat) : Nat :=
  match fmtAt c s acc va with
  | .ok (some e, _) => if isPacked e then c.w / 8 else fmtWidth e.fmt / 8
  | _ => c.w / 8

/-- What position `p0 + i · stride` of a page with packed groups touches: its byte or group, and the record of its group (R152 to
R154). -/
def packedSpans (B : Nat) (e : FmtEntry) (pg : Page) (stride : Int) (i : Nat) : List Span :=
  let base := pageBase B pg
  let p := (((B - base) / groupBytes e * groupPositions e : Nat) + (i : Int) * stride).toNat
  let g := p / groupPositions e
  if e.fmt = 18 then [(.read, base + g * groupBytes e, groupBytes e)]
  else [(.read, base + (if e.fmt = 16 then p / 2 else p), 1),
    (.read, (((base : Int) + e.moff + (g * e.mstride : Nat)) % ((2 ^ 64 : Nat) : Int)).toNat, 4)]

/-- What element i of `vm.ld`, or of a strided load, touches (R102, R107, R154); `stride` none is unit. -/
def loadSpans (c : Ctx) (s : State) (stride : Option Int) (i : Nat) : List Span :=
  let plain := fun S : Int => let va := addrUnit c S i; [((.read, va, elemBytes c s .read va) : Span)]
  match baseFormat c s .read with
  | some (e, pg) =>
    if isPacked e then packedSpans c.xa.toNat e pg (stride.getD 1) i else plain (stride.getD (unitBytes c s .read : Nat))
  | none => plain (stride.getD (c.w / 8 : Nat))

/-- What an entry of the vector queue still has to touch in memory (R102, R223, R233, R259, R262, R292); nothing for an instruction
that addresses none, or whose steps translate afresh. -/
def spans (s : State) (e : QEntry) : List Span :=
  let c := ctxOfEntry s e
  let u := { s with t := { s.t with replay := some e } }
  let on := fun (m : KReg) (f : Nat → List Span) => (todo c u m).flatMap f
  let raw := fun (acc : Acc) (m : KReg) (f : Nat → Nat) => on m fun i => [((acc, f i, c.w / 8) : Span)]
  let fmtd := fun (acc : Acc) (m : KReg) (f : Nat → Nat) => on m fun i => [((acc, f i, elemBytes c s acc (f i)) : Span)]
  let amo := fun (b : Reg) (m : KReg) => raw .write m (addrIndexed c u b)
  match e.instr with
  | .vmLd _ _ m | .vmLdff _ _ m | .vmLdnc _ _ m | .vmLdsc _ _ m => on m (loadSpans c s none)
  | .vmLds _ _ _ m => on m (loadSpans c s (some c.xb.toInt))
  | .vmLdx _ _ b m | .vmLdffx _ _ b m => fmtd .read m (addrIndexed c u b)
  | .vmLdgl _ _ b m => raw .read m (addrIndexed c u b)
  | .vmLdraw _ _ m | .vmLdmc _ _ _ m => raw .read m (rawAddr c s)
  | .vmSt _ _ m | .vmStsc _ _ m => fmtd .write m (addrOf c (unitBytes c s .write))
  | .vmSts _ _ _ m => fmtd .write m (addrUnit c c.xb.toInt)
  | .vmStx _ _ b m => fmtd .write m (addrIndexed c u b)
  | .vmStcx _ _ b m => raw .write m (addrIndexed c u b)
  | .vmStraw _ _ m | .vmUpdadd _ _ m | .vmUpdfadd _ _ m | .vmUpdmin _ _ m | .vmUpdmax _ _ m | .vmUpdfmax _ _ m | .vmUpdfmin _ _ m =>
    raw .write m (rawAddr c s)
  | .vmAmoadd _ _ b m | .vmAmofadd _ _ b m | .vmAmomin _ _ b m | .vmAmomax _ _ b m | .vmAmominu _ _ b m | .vmAmomaxu _ _ b m
  | .vmAmoand _ _ b m | .vmAmoor _ _ b m | .vmAmoxor _ _ b m | .vmAmoswap _ _ b m | .vmAmocas _ _ b m | .vmAmoaddR _ _ b m
  | .vmAmofaddR _ _ b m | .vmAmominR _ _ b m | .vmAmomaxR _ _ b m | .vmAmominuR _ _ b m | .vmAmomaxuR _ _ b m | .vmAmoandR _ _ b m
  | .vmAmoorR _ _ b m | .vmAmoxorR _ _ b m | .vmAmoswapR _ _ b m | .vmAmocasR _ _ b m => amo b m
  | .vmGcsleep d _ _ m => on m fun i => [(.read, (c.xa.toNat + elem 32 (srcV u (evenReg d).toNat).bits i) % 2 ^ 64, 4)]
  | .vmBwait _ _ _ => [(.read, c.xa.toNat, 16)]
  | .vmFenceb _ _ _ => [(.write, c.xa.toNat, 16)]
  | .vmCp _ _ _ => [(.read, c.xa.toNat, 64)]
  | .vxMtld _ _ _ => (List.range (cfgG c.cfg)).flatMap fun r =>
      (List.range c.vl).flatMap fun i => if r * c.vl + i < c.progress then [] else loadSpans (rowCtx c r) s none i
  | _ => []

/-- The translation of an address, as a TLB entry of a core would hold it (R365, R367); none without translation or where it fails. -/
def leafOf (s : State) (core : Nat) (xl : Xlate) (va : Nat) : Option TlbEntry :=
  if !isTranslated xl || !canonical va then none
  else
    let table := fun fai => if fai = 0 || bits xl.fmtb.toNat 0 1 = 0 then none else (readFmtEntry s xl.fmtb fai).toOption
    match tlbLookup s core (datpAsid xl.datp) va with
    | some e => some { e with
        l2 := false, core := core, fmtEntry := if e.fmtb = xl.fmtb && e.fmtEntry.isSome then e.fmtEntry else table e.fai
        fmtb := xl.fmtb
        stale := false }
    | none =>
      match walkFrom s va 5 (bits xl.datp.toNat 0 44) with
      | .error _ => none
      | .ok l => some
          { l2 := false, core := core, asid := datpAsid xl.datp, global := l.global, level := l.level
            vpage := va / 2 ^ (12 + 9 * l.level), ppn := ptePpn l.pte, perms := bits l.pte 0 8, fai := pteFai l.pte
            fmtEntry := table (pteFai l.pte), fmtb := xl.fmtb, stale := false }

/-- The translations of every page that an entry touches, each once (R367). -/
def pagesOf (s : State) (e : QEntry) : List TlbEntry :=
  let xl := (ctxOfEntry s e).xl
  if !isTranslated xl then []
  else
    let pages := toSet ((spans s e).flatMap fun p => [p.2.1 / 4096, (p.2.1 + (p.2.2 - 1)) % 2 ^ 64 / 4096])
    pages.foldl (fun hs p =>
      if hs.any (tlbHits (datpAsid xl.datp) (p * 4096)) then hs
      else (leafOf s (coreOf s.gid) xl (p * 4096)).elim hs fun h => hs ++ [h]) []

/-- The lines that an entry still has to touch; `none` where a byte does not translate. -/
def entryLines (s : State) (e : QEntry) : Option (List Nat) :=
  let at' := fun (acc : Acc) (va : Nat) => ((locate s (coreOf s.gid) (ctxOfEntry s e).xl acc (va % 2 ^ 64)).toOption).map fun p => lineOf p.1
  ((spans s e).mapM fun p => (at' p.1 p.2.1).bind fun a => (at' p.1 (p.2.1 + (p.2.2 - 1))).map fun b => [a, b]).map fun ls =>
    toSet ls.flatten

end Sys2Proof.Machine
end

