-- ==== Sys2Proof/Machine/Units.lean ====
section
/-! DEFINITION. What an entry of the vector queue needs to issue: the registers it reads and writes, its spares, its unit, and the words
of its sources that are complete (R21, R24 to R26, R34, R41, R135, R181, R220, R271). -/

namespace Sys2Proof.Machine

/-- Distinct numbers of a list. -/
def distinct (xs : List Nat) : List Nat := xs.foldl (fun acc x => addOnce x acc) []

/-- What the registers of an entry depend on. -/
def footOf (s : State) (e : QEntry) : Foot := ⟨e.vcfg, e.vl.toNat, e.xa.toNat, fun n => (getV s n).len.toNat⟩

/-- Vector registers a list of entries writes. -/
def destsOf (s : State) (es : List QEntry) : List Nat := distinct (es.flatMap fun e => (vDests e.instr (footOf s e)).map (· % 32))

/-- Mask registers a list of entries writes. -/
def kdestsOf (s : State) (es : List QEntry) : List Nat := distinct (es.flatMap fun e => (kDests e.instr (footOf s e)).map BitVec.toNat)

/-- Whether an entry has taken a spare for each register it writes (R26): some of it has been performed. -/
def tookSpares (e : QEntry) : Bool := e.done || decide (e.progress ≠ 0) || decide (e.issued ≠ 0)

/-- Vector registers for which an entry takes a spare (R26): `vp.chk`, `vp.spk` and `vp.setd` rewrite a descriptor and take none
(R124, R132, R373). -/
def renames (s : State) (e : QEntry) : List Nat :=
  match e.instr with
  | .vpChk _ _ | .vpSpk _ _ | .vpSetd _ _ => []
  | _ => destsOf s [e]

/-- Pushed registers pending or granted on a core (R26, R264). -/
def corePending (s : State) (core : Nat) : Nat :=
  ((List.range 4).map fun j =>
    let t := strandAt s (core * 4 + j)
    (t.pending.toList.filter fun p => p.isSome).length + t.granted.length).sum

/-- The strands of a core. -/
def strandsOf (core : Nat) : List Nat := (List.range 4).map fun j => core * 4 + j

/-- Strands of a core that have a task. -/
def tasksOn (s : State) (core : Nat) : Nat := ((strandsOf core).filter fun g => (strandAt s g).task.isSome).length

/-- Vector spares that a strand's entries hold (R26). -/
def sparesHeld (s : State) (gid : Nat) : Nat :=
  (((strandAt s gid).queue.filter tookSpares).map fun e => (renames (focusOn s gid) e).length).sum

/-- Mask spares that a strand's entries hold (R41). -/
def maskSparesHeld (s : State) (gid : Nat) : Nat :=
  (((strandAt s gid).queue.filter tookSpares).map fun e => (kdestsOf (focusOn s gid) [e]).length).sum

/-- Spares of a core's shared pool that neither strands nor pushed registers hold (R26): 32 less the two reserved to each strand with a
task. -/
def poolFree (s : State) (core : Nat) : Nat :=
  32 - 2 * tasksOn s core - (((strandsOf core).map fun g => sparesHeld s g - 2).sum + corePending s core)

/-- Mask spares of the shared pool (R41): 20 less the one reserved to each strand with a task. -/
def maskPoolFree (s : State) (core : Nat) : Nat :=
  20 - tasksOn s core - ((strandsOf core).map fun g => maskSparesHeld s g - 1).sum

/-- Spares that a strand may still take (R26). -/
def sparesFree (s : State) (gid : Nat) : Nat := (2 - sparesHeld s gid) + poolFree s (coreOf gid)

/-- Mask spares that a strand may still take (R41). -/
def maskSparesFree (s : State) (gid : Nat) : Nat := (1 - maskSparesHeld s gid) + maskPoolFree s (coreOf gid)

/-- Whether the focus strand's entry holds its spares or can take them, the older entries that hold none taking theirs first (R26,
R41). -/
def hasSpares (s : State) (older : List QEntry) (e : QEntry) : Bool :=
  let es := (older ++ [e]).filter fun o => !tookSpares o
  tookSpares e || (decide ((es.map fun o => (renames s o).length).sum ≤ sparesFree s s.gid) &&
    decide ((es.map fun o => (kdestsOf s [o]).length).sum ≤ maskSparesFree s s.gid))

/-- Whether any instruction of the focus strand finds its spares: eight vector spares and a mask spare. -/
def roomy (s : State) : Bool := decide (8 ≤ sparesFree s s.gid) && decide (1 ≤ maskSparesFree s s.gid)

/-- What issues a vector instruction of a core: its lane groups, the Plait unit, the matrix unit, the VMU's sorting stage, or
nothing of these (R135, R220, R271, R339). -/
inductive IssueUnit where
  | lanes | plait | matrix | sorter | none
  deriving DecidableEq, Repr

/-- The location of a unit-stride access that R181 places directly, one element group in each line of one column: 32-bit elements in
HBM from a 128-aligned base on, on a page that holds them as such; `raw` whatever the page's format. -/
def directBase (s : State) (e : QEntry) (raw : Bool) : Option Nat :=
  let c := ctxOfEntry s e
  match locate s (coreOf s.gid) c.xl .read e.xa.toNat with
  | .error _ => none
  | .ok (loc, _) =>
    let whole := raw || match baseFormat c s .read with
      | some (f, _) => !isPacked f && decide (fmtWidth f.fmt = 32)
      | none => true
    if cfgW e.vcfg = 32 ∧ loc % 128 = 0 ∧ placeOf loc = .hbm ∧ whole then some loc else none

/-- Where R181 places an entry directly: the unit-stride loads, stores and updates alone. -/
def directOf (s : State) (e : QEntry) : Option Nat :=
  match e.instr with
  | .vmLd _ _ _ | .vmLdff _ _ _ | .vmLdnc _ _ _ | .vmLdsc _ _ _ | .vmSt _ _ _ | .vmStsc _ _ _ => directBase s e false
  | .vmLdraw _ _ _ | .vmLdmc _ _ _ _ | .vmStraw _ _ _ | .vmUpdadd _ _ _ | .vmUpdfadd _ _ _ | .vmUpdmin _ _ _ | .vmUpdmax _ _ _
  | .vmUpdfmax _ _ _ | .vmUpdfmin _ _ _ => directBase s e true
  | _ => none

/-- The unit that issues an entry: an access that R181 does not place directly is the sorting stage's (R220). -/
def unitOf (s : State) (e : QEntry) : IssueUnit :=
  match e.instr with
  | .vxMmac _ _ _ | .vxMmacs _ _ _ _ | .vxMgemm _ _ | .vxMtld _ _ _ | .vxMcomp _ _ _ | .vxMzero _ => .matrix
  | .vxPush _ _ _ _ => .lanes
  | .vmFence _ _ | .vmFenceb _ _ _ | .vmBwait _ _ _ | .vmGcsleep _ _ _ _ | .vmRofence _ | .vmCp _ _ _ | .vmCpwany _ _ _
  | .vmCpwall _ _ _ | .vmCpffr _ _ _ | .vmCpclr _ _ => .none
  | _ =>
    match e.word.toNat % 128 with
    | 0x5B => .plait
    | 0x0B => .lanes
    | 0x2B => if (directOf s e).isSome then .lanes else .sorter
    | _ => .none

/-- The steps of a `vx.mgemm` that its progress counts (R277): the low bits, under the descriptor's address. -/
def stepsDone (e : QEntry) : Nat := e.progress % 2048

/-- Whether a unit that takes instructions whole has taken an entry, or of `vx.mgemm` the next step (R271). -/
def unitStarted (e : QEntry) : Bool :=
  match e.instr with
  | .vxMgemm _ _ => decide (stepsDone e < e.issued.toNat)
  | _ => decide (e.issued ≠ 0)

/-- Whether a unit works on an entry: it has taken it, or the matrix unit a step of it, and that has not ended (R34, R135, R271); the
sorting stage has ended its part once the addresses are sorted, whatever the lines wait for (R221). -/
def unitWorks (u : IssueUnit) (e : QEntry) : Bool := !e.done && unitStarted e && (u != .sorter || !e.since.isEmpty)

/-- Whether two kinds of work share a unit: the index sorts run on the Plait unit (R135, R221). -/
def shareUnit (u v : IssueUnit) : Bool := v == u || (v == .plait && u == .sorter) || (v == .sorter && u == .plait)

/-- Whether a unit of a core works on an entry that satisfies a condition on its strand and its place. -/
def unitBusy (s : State) (core : Nat) (u : IssueUnit) (p : Nat → Nat → Bool) : Bool :=
  (strandsOf core).any fun g =>
    let f := focusOn s g
    (List.range f.t.queue.length).any fun i => p g i && (f.t.queue[i]?).any fun e =>
      let v := unitOf f e
      unitWorks v e && v != .lanes && v != .none && shareUnit u v

/-- Whether the unit that performs the focus strand's entry in a place is free for it (R34, R135, R271). -/
def unitFreeFor (s : State) (n : Nat) (e : QEntry) : Bool :=
  let u := unitOf s e
  u == .lanes || u == .none || !unitBusy s (coreOf s.gid) u fun g i => g != s.gid || i != n

/-- Whether another strand of the core has an instruction in a shared unit. -/
def coreBusy (s : State) : Bool :=
  [IssueUnit.plait, .matrix].any fun u => unitBusy s (coreOf s.gid) u fun g _ => g != s.gid

/-- Element groups of an entry (R21). -/
def groupCount (e : QEntry) : Nat := ceilDiv (e.vl.toNat * cfgW e.vcfg) 1024

/-- Whether an instruction reads a vector register in element order and so chains on it (R25, R97): the element-wise instructions, and
the data of stores, gathers, scatters and atomics; not an index operand, a reduction, a permutation, a Plait or a matrix operand. -/
def chainsOn (c : Cfg) (i : Instr) (n : Nat) : Bool :=
  let data := fun (b : Reg) => !(idxRegs c b).contains n
  match i with
  | .vaRedsum _ _ _ | .vaFredsum _ _ _ | .vaRedmax _ _ _ | .vaRedmin _ _ _ | .vaFredmax _ _ _ | .vaFredmin _ _ _
  | .vaRedmaxi _ _ _ | .vaFredmaxi _ _ _ | .vaRedand _ _ _ | .vaRedor _ _ _ | .vaRedxor _ _ _ | .vmGcsleep _ _ _ _ => false
  | .vmLdx _ _ b _ | .vmLdgl _ _ b _ | .vmLdffx _ _ b _ | .vmStx _ _ b _ | .vmStcx _ _ b _
  | .vmAmoadd _ _ b _ | .vmAmofadd _ _ b _ | .vmAmomin _ _ b _ | .vmAmomax _ _ b _ | .vmAmominu _ _ b _ | .vmAmomaxu _ _ b _
  | .vmAmoand _ _ b _ | .vmAmoor _ _ b _ | .vmAmoxor _ _ b _ | .vmAmoswap _ _ b _ | .vmAmocas _ _ b _ | .vmAmoaddR _ _ b _
  | .vmAmofaddR _ _ b _ | .vmAmominR _ _ b _ | .vmAmomaxR _ _ b _ | .vmAmominuR _ _ b _ | .vmAmomaxuR _ _ b _ | .vmAmoandR _ _ b _
  | .vmAmoorR _ _ b _ | .vmAmoxorR _ _ b _ | .vmAmoswapR _ _ b _ | .vmAmocasR _ _ b _ => data b
  | i =>
    let op := (wordOf i).toNat % 128
    decide (op = 0x0B) || decide (op = 0x2B)

/-- Whether an instruction chains on its mask operands (R25, R41, R171): all but those that a permutation reads as data. -/
def chainsOnMask (i : Instr) : Bool := decide ((wordOf i).toNat % 128 ≠ 0x5B)

/-- Words of one register of a group, of `t` words that the whole group has. -/
def groupWords (t r : Nat) : Nat := Nat.min 1024 (t - 1024 * r)

/-- Element groups of an entry issued without a gap (R24, R339). -/
def groupsIssued (e : QEntry) : Nat := (firstTo (fun j => !e.issued.getLsbD j) 32).getD 32

/-- Elements of an instruction that the lane groups execute that are complete without a gap, its element groups having issued. -/
def laneElements (e : QEntry) : Nat := Nat.min e.vl.toNat (groupsIssued e * (1024 / cfgW e.vcfg))

/-- Words of register n that its producer has performed without a gap (R24): all of a finished one's; below a waiting load's or tile
load's progress; none of `vx.mgemm`'s, which no consumer chains on (R277). -/
def wordsPerformed (s : State) (o : QEntry) (n : Nat) : Nat :=
  if o.done then 1024
  else
    match o.instr with
    | .vxMtld d _ _ =>
      let r := (n + 32 - d.toNat) % 32
      Nat.min (o.progress - r * o.vl.toNat) o.vl.toNat * cfgW o.vcfg / 32
    | _ => if o.word.toNat % 128 = 0x2B && (destsOf s [o]).contains n then o.progress * cfgW o.vcfg / 32 else 0

/-- Words of register n that its producer has made without a gap (R24, R167): those performed, and of an instruction of the lane groups
those of its issued element groups; a conversion's over its group of destinations at their width. -/
def wordsDone (s : State) (o : QEntry) (n : Nat) : Nat :=
  if o.done || o.word.toNat % 128 = 0x2B || unitOf s o != .lanes then wordsPerformed s o n
  else
    match o.instr with
    | .vaFcvt d a _ _ => groupWords (laneElements o * fmtWidth a.toNat / 32) ((n + 32 - d.toNat) % 32)
    | _ => laneElements o * cfgW o.vcfg / 32

/-- The youngest of some entries that writes a vector register. -/
def writerOf (s : State) (older : List QEntry) (n : Nat) : Option QEntry :=
  older.reverse.find? fun o => (destsOf s [o]).contains (n % 32)

/-- Whether the first `k` elements that an entry reads of source n in element order, or where it does not chain all of them, stand in
words that the youngest older writer has made; `vp.ext` needs only the element it names (R25, R113). -/
def sourceCovered (s : State) (words : QEntry → Nat → Nat) (older : List QEntry) (e : QEntry) (k n : Nat) : Bool :=
  match writerOf s older n with
  | none => true
  | some o =>
    let w := cfgW e.vcfg
    o.done || (match e.instr with
      | .vpExt _ _ _ => decide (e.xa.toNat < e.vl.toNat) && decide (e.xa.toNat * w / 32 < words o (n % 32))
      | _ => chainsOn e.vcfg e.instr n && decide (ceilDiv (k * w) 32 ≤ words o (n % 32)))

/-- The same of a mask source; its producer's progress counts elements of issued groups (R41). -/
def maskCovered (s : State) (elems : QEntry → Nat) (older : List QEntry) (e : QEntry) (k : Nat) (m : KReg) : Bool :=
  match older.reverse.find? fun o => (kdestsOf s [o]).contains m.toNat with
  | none => true
  | some o => o.done || (chainsOnMask e.instr && decide (k ≤ elems o))

/-- Whether element group j of an entry has its sources (R25). -/
def covered (s : State) (older : List QEntry) (e : QEntry) (j : Nat) : Bool :=
  let k := Nat.min e.vl.toNat ((j + 1) * (1024 / cfgW e.vcfg))
  let issued := fun o : QEntry => if unitOf s o == .lanes && o.word.toNat % 128 = 0x0B then laneElements o else 0
  ((vSources e.instr (footOf s e)).all (sourceCovered s (wordsDone s) older e k)) &&
    (kSources e.instr (footOf s e)).all (maskCovered s issued older e k)

end Sys2Proof.Machine
end

