-- ==== Sys2Proof/Machine/Ops.lean ====
section
/-! DEFINITION. Named operations: retiring an instruction, taking an exception and returning from it, frames, the end
of a task, and the one way a vector instruction is performed, pushed or replayed (R17 to R31, R343 to R359, R387). -/

namespace Sys2Proof.Machine

/-- What a step answers. -/
abbrev Out := Host.Outcome State Fault Refusal

/-- What performing a vector instruction comes to: it completes, it waits past its fault point or holds before it, with a progress
index (R19, R25, R27), or it traps with a cause, a trap value and a progress index (R28). -/
inductive Eff where
  | ok (s : State)
  | wait (s : State) (progress : Nat)
  | hold (s : State) (progress : Nat)
  | trap (s : State) (cause : Nat) (tval : Word) (progress : Nat)

/-- A trap that has done nothing. -/
def Eff.deny (s : State) (cause : Nat) (tval : Word) : Eff := .trap s cause tval 0

/-- The focus strand waits. -/
def stall (s : State) : State := { s with stalled := true }

/-- A scalar instruction retired: `instret` counts it unless inhibited, and the pc becomes the one given (R36). -/
def retireTo (s : State) (pc : Word) : State :=
  { s with t := { s.t with pc := pc, minstret := if s.t.mcountinhibit.getLsbD 2 then s.t.minstret else s.t.minstret + 1 } }

/-- A scalar instruction retired with the next pc. -/
def retire (s : State) : State := retireTo s (s.t.pc + 4)

/-- The focus strand's pc replaced. -/
def setPc (s : State) (pc : Word) : State := { s with t := { s.t with pc := pc } }

/-- A bit of a word replaced. -/
def putBit (w : Word) (n : Nat) (b : Bool) : Word :=
  if b then w ||| BitVec.ofNat 64 (2 ^ n) else w &&& ~~~(BitVec.ofNat 64 (2 ^ n))

/-- `mstatus` with MPP replaced, bits [12:11] of the Privileged specification. -/
def putMpp (w : Word) (m : Mode) : Word :=
  match m with
  | .user => putBit (putBit w 11 false) 12 false
  | .supervisor => putBit (putBit w 11 true) 12 false
  | .machine => putBit (putBit w 11 true) 12 true

/-- The mode that MPP names. -/
def mppOf (w : Word) : Mode := if w.getLsbD 12 then .machine else if w.getLsbD 11 then .supervisor else .user

/-- Whether a cause goes to supervisor mode: from user or supervisor mode, as `medeleg` or `mideleg` says (R343.4, R59). -/
def delegated (t : Strand) (intr : Bool) (cause : Nat) : Bool :=
  decide (t.mode ≠ .machine) && (if intr then t.mideleg.getLsbD cause else t.medeleg.getLsbD cause)

/-- Where a trap goes: the base of xtvec, or for an interrupt in vectored mode the base + 4 · cause. -/
def trapVector (tvec : Word) (intr : Bool) (cause : Nat) : Word :=
  (tvec &&& ~~~3#64) + (if intr && tvec.getLsbD 0 then word (4 * cause) else 0)

/-- The value of xcause. -/
def causeWord (intr : Bool) (cause : Nat) : Word := putBit (word cause) 63 intr

/-- What the package notes of an exception: a DATA-ERROR is logged in the Handle (R360); a remote access that was not delivered in time has had its
error (R396). -/
def noteTrap (s : State) (intr : Bool) (cause : Nat) : State :=
  let s := if !intr && cause == 27 then logEvent s 2 (strandUnit s.gid) 0 [s.gid] else s
  if !intr && (cause == 5 || cause == 7) then noTimeouts s s.gid else s

/-- TAKING AN EXCEPTION (R343.4, R344, R345): the saved pc, cause and value are written, the status saves the interrupt
enable and the mode, the mode changes, the pc is the handler's; the strand's link generation changes (R257). A trap to
machine mode while a task runs is the firmware's (R350). -/
def takeTrap (s : State) (intr : Bool) (cause : Nat) (tval epc : Word) : State :=
  let s := noteTrap s intr cause
  let t := s.t
  if delegated t intr cause then
    { s with t := { t with
        scause := causeWord intr cause
        stval := tval
        sepc := epc
        mstatus := putBit (putBit (putBit t.mstatus 5 (t.mstatus.getLsbD 1)) 1 false) 8 (decide (t.mode = .supervisor))
        mode := .supervisor
        pc := trapVector t.stvec intr cause
        gen := t.gen + 1
        waiting := false } }
  else
    { s with t := { t with
        mcause := causeWord intr cause
        mtval := tval
        mepc := epc
        mstatus := putMpp (putBit (putBit t.mstatus 7 (t.mstatus.getLsbD 3)) 3 false) t.mode
        mode := .machine
        pc := trapVector t.mtvec intr cause
        gen := t.gen + 1
        waiting := false
        firmware := t.task.isSome } }

/-- THE RETURN from a supervisor trap: SIE from SPIE, SPIE set, the mode from SPP, SPP user, MPRV cleared below machine
mode, the pc from `sepc` (R387). -/
def leaveTrapS (s : State) : State :=
  let t := s.t
  let m := putBit (putBit (putBit t.mstatus 1 (t.mstatus.getLsbD 5)) 5 true) 8 false
  { s with t := { t with
      mstatus := putBit m 17 false
      mode := if t.mstatus.getLsbD 8 then .supervisor else .user
      pc := t.sepc } }

/-- THE RETURN from a machine trap: MIE from MPIE, MPIE set, the mode from MPP, MPP user, MPRV cleared where the mode is
below machine, the pc from `mepc` (R387). -/
def leaveTrapM (s : State) : State :=
  let t := s.t
  let dest := mppOf t.mstatus
  let m := putMpp (putBit (putBit t.mstatus 3 (t.mstatus.getLsbD 7)) 7 true) .user
  { s with t := { t with
      mstatus := if dest = .machine then m else putBit m 17 false
      mode := dest
      pc := t.mepc
      firmware := false } }

/-- A scalar instruction raises a trap: once the vector queue is empty (R343.3); before that the instruction waits. -/
def scalarTrap (s : State) (cause : Nat) (tval : Word) : State :=
  if s.t.queue.isEmpty then takeTrap s false cause tval s.t.pc else stall s

/-- The illegal-instruction trap of a word (R57). -/
def illegal (s : State) (w : InstrWord) : State := scalarTrap s 2 (w.setWidth 64)

/-- Supervisor software and timer interrupts that are pending (R344): their codes. -/
def pendingIntr (s : State) : List Nat :=
  (if s.t.ssip then [1] else []) ++ (if s.t.stimecmp.toNat ≤ s.time.toNat then [5] else [])

/-- Whether an interrupt is enabled in `mie`. -/
def intrEnabled (s : State) (c : Nat) : Bool := s.t.mie.getLsbD c

/-- Whether interrupts that go to supervisor mode are taken now: in user mode, or in supervisor mode with SIE; and those that
stay with machine mode: below it, or in it with MIE. -/
def intrTaken (s : State) (c : Nat) : Bool :=
  if s.t.mideleg.getLsbD c then
    decide (s.t.mode = .user) || (decide (s.t.mode = .supervisor) && s.t.mstatus.getLsbD 1)
  else decide (s.t.mode ≠ .machine) || s.t.mstatus.getLsbD 3

/-- The interrupt that is taken at the next boundary: software before timer, as the Privileged specification orders. -/
def intrNow (s : State) : Option Nat := (pendingIntr s).find? fun c => intrEnabled s c && intrTaken s c

/-- The pending trap of a refused scalar store, else an interrupt, taken with the queue empty (R343.3, R344, R360). -/
def takePending (s : State) : Option State :=
  if !s.t.queue.isEmpty then none
  else
    match s.t.storeTraps with
    | p :: r => some (takeTrap { s with t := { s.t with storeTraps := r } } false p.cause p.tval s.t.pc)
    | [] =>
      match intrNow s with
      | some c => some (takeTrap s true c 0 s.t.pc)
      | none => none

/-- A strand with one more trap of a refused scalar store to take (R360). -/
def addStoreTrap (t : Strand) (cause : Nat) (va : Word) : Strand := { t with storeTraps := t.storeTraps ++ [⟨cause, va⟩] }

/-- Bytes of a save area (R347). -/
def saveBytes : Nat := 921600

/-- Whether a physical range lies wholly in device HBM. -/
def inHbm (s : State) (pa n : Nat) : Bool :=
  match s.map.hbmb with
  | some b => decide (b ≤ pa) && decide (pa + n ≤ b + hbmSize)
  | none => false

/-- Bytes of the context descriptor (R348), where they can be read. -/
def descRead (s : State) (sdesc : Word) (off n : Nat) : Option Nat :=
  match locOf s (sdesc.toNat + off) with
  | some loc => if readFails s loc n then none else some (homeNat s loc n)
  | none => none

/-- The save engine's write of bytes of the context descriptor; `none` where it fails (R355). -/
def descWrite (s : State) (sdesc : Word) (off : Nat) (bs : List Byte) : Option State :=
  match locOf s (sdesc.toNat + off) with
  | some loc =>
    if (refusedLines s ((List.range bs.length).map fun i => loc + i) (linesOf loc bs.length)).isEmpty then
      some (homeWrite (recallLines s (linesOf loc bs.length)) (dieOf s.gid) loc bs none)
    else none
  | none => none

/-- STATE and PEND as byte 8 of the descriptor codes them (R348). -/
def stateByte (st : CtxState) (pend : Bool) : Byte :=
  let c : Nat := match st with
    | .idle => 0
    | .active => 1
    | .preempted => 2
    | .forced => 3
    | .ended => 4
    | .lost => 5
  BitVec.ofNat 8 (c + if pend then 8 else 0)

/-- The save engine at the start of a save or a restore: `sbase` and `sdesc` as written last take effect (R348). -/
def latch (s : State) : State := { s with t := { s.t with sbaseNow := s.t.sbase, sdescNow := s.t.sdesc } }

/-- Whether a line overlaps `n` bytes at a location. -/
def overlapsLine (loc n line : Nat) : Bool := decide (line * 128 < loc + n) && decide (loc < (line + 1) * 128)

/-- Whether a line lies wholly within `n` bytes at a location. -/
def withinBytes (loc n line : Nat) : Bool := decide (loc ≤ line * 128) && decide ((line + 1) * 128 ≤ loc + n)

/-- Whether a vector atomic holds a line among `n` bytes at a physical address: what an engine does there waits (R255). -/
def physLocked (s : State) (pa n : Nat) : Bool :=
  (locOf s pa).any fun loc => s.slices.any fun p => p.2.locks.any fun q => overlapsLine loc n q.1

/-- Whether a line of the focus strand's save area or of its context descriptor is locked: the save engine waits (R255). -/
def saveLocked (s : State) : Bool := physLocked s s.t.sbase.toNat saveBytes || physLocked s s.t.sdesc.toNat 64

/-- The save engine's write of a frame at a physical address (R347, R351), with the number of its image: the bytes are opaque,
copies and links of the lines are gone; `none` where a home refuses it (R355, R402). -/
def writeImage (s : State) (pa n : Nat) : Option (State × Nat) :=
  match locOf s pa with
  | none => none
  | some loc =>
    if s.errs.any fun l => overlapsLine loc n l && !withinBytes loc n l then none
    else
      let on := overlapsLine loc n
      let s := recallLines s ((s.slices.flatMap fun p => p.2.owned.map Prod.fst).filter on)
      let s := mapSlices s fun c => { c with links := c.links.filter fun k => !on k.line }
      some ({ s with
        images := ⟨loc, n, s.free, []⟩ :: s.images.filter fun m => !(decide (loc ≤ m.base) && decide (m.base + m.len ≤ loc + n))
        free := s.free + 1
        errs := s.errs.filter fun l => !on l
        replicas := s.replicas.filter fun r => !on r.line
        updates := s.updates.filter fun u => !on u.line
        lines := s.lines.filterMap fun p =>
          if on p.1 then (if { p.2 with guests := 0 } = LineInfo.reset then none else some (p.1, { p.2 with guests := 0 })) else some p
        l1 := s.l1.filter fun p => !on p.2 }, s.free)

/-- Whether a frame at a physical address is read whole and passes its check: its own image stands there, nothing has written
into it since, and no line of it meets an uncorrectable error (R352, R360). -/
def imageOk (s : State) (pa seed : Nat) : Bool :=
  match locOf s pa with
  | none => false
  | some loc =>
    match s.images.find? fun m => m.seed == seed with
    | none => false
    | some m =>
      decide (m.base = loc) && m.gone.isEmpty && !(s.errs.any (overlapsLine loc m.len)) &&
        (s.images.takeWhile fun k => k.seed != seed).all fun k =>
          decide (k.base + k.len ≤ loc) || decide (loc + m.len ≤ k.base)

/-- The check of R349. -/
def areaOk (s : State) (sbase sdesc : Word) : Bool :=
  (match descRead s sdesc 0 4 with
   | some n => decide (saveBytes ≤ n)
   | none => false) && inHbm s sbase.toNat saveBytes

/-- A release at a scope by an agent of a die (R244, R246): the open epoch closes; at PACKAGE and wider every write of
the die's strands reaches every guest. -/
def releaseAt (s : State) (die scope : Nat) : State :=
  let s := closeEpoch s die
  if 4 ≤ scope then spread s die else s

/-- The completion word of R115. -/
def completionWord (flags : Flags) (err : Nat) (id : BitVec 32) : Word :=
  word (1 + flags.toNat * 2 + err * 2 ^ 8 + id.toNat * 2 ^ 32)

/-- Where the completion word of task i of a launch goes (R114, R331, R334): to the queue's completion base, or for a spawned node to
COMPL·128 under the recorded translation. -/
def completionLoc (s : State) (die : Nat) (l : Launch) (i : Nat) : Except XFault Nat :=
  match l.queue, l.xl with
  | some (_, cbase), _ => .ok (hostLoc + cbase + 128 * recCompl l.image + 8 * i)
  | none, some xl => (locate s (die * 128) xl .write (recCompl l.image * 128 + 8 * i)).map Prod.fst
  | none, none => .error .access

/-- The completion word of task i of a launch written as a release at SYSTEM scope; one that cannot be written is dropped and logged
(R114, R331, R334). With COMPL 0 there is no word, and nothing is released: the rules make the word's write the release, and say nothing of
a task without one (DESIGN CHOICE). -/
def writeCompletion (s : State) (die : Nat) (l : Launch) (i : Nat) (w : Word) : State :=
  if recCompl l.image = 0 then s
  else
    let s := releaseAt s die 5
    match completionLoc s die l i with
    | .ok loc =>
      if isDevice loc && !(refusedLines s [loc] [lineOf loc]).isEmpty then logEvent s 2 (sliceUnit (homeSlice (lineOf loc))) (paOf s loc) [i]
      else homeWrite (recallLine s (lineOf loc)) die loc (bytesOf 8 w.toNat) none
    | .error _ => logEvent s 2 (strandUnit s.gid) 0 [i]

/-- A launch replaced. -/
def putLaunch (s : State) (l : Launch) : State :=
  { s with launches := s.launches.map fun m => if m.key == l.key then l else m }

/-- A launch that has completed leaves the pools; edges from it are satisfied (R331, R335), and what its tasks' completions bring precedes
the launches that waited for it (R333). -/
def dropLaunch (s : State) (key : Nat) : State :=
  let clock := ((launchOf s key).map fun l => l.doneClock).getD Clock4.zero
  let s := ((launchOf s key).bind fun l => l.queue).elim s fun q =>
    putQueue s q.1 { queueAt s q.1 with doneClocks := (key, clock) :: (queueAt s q.1).doneClocks }
  { s with launches := (s.launches.filter fun l => l.key != key).map fun l =>
      if l.edges.contains key then { l with clock := l.clock.max clock } else l }

/-- Task i of a launch has ended on a die: the launch completes with its last task (R331). -/
def endOfTask (s : State) (die key i : Nat) : State :=
  match launchOf s key with
  | none => s
  | some l =>
    let l := { l with ended := addOnce i l.ended, doneClock := l.doneClock.max (clockAt s die) }
    if taskTotal l.image ≤ l.ended.length then dropLaunch (putLaunch s l) key else putLaunch s l

/-- Deferred requests of a strand withdrawn from every slice, with the answers and retries on their way (R263, R326, R354). -/
def withdraw (s : State) (gid : Nat) : State :=
  { s with
    wire := s.wire.filter fun w => match w with
      | .phase g _ _ _ | .nackBwait g _ _ _ | .nackFld g _ _ => g != gid
      | _ => true
    slices := s.slices.filterMap fun p =>
      let c : Slice := { p.2 with deferred := p.2.deferred.filter fun d =>
        match d with
        | .bwait g _ _ => g != gid
        | .fld g _ _ => g != gid }
      if c = Slice.reset then none else some (p.1, c) }

/-- The line locks of a strand released (R253, R255). -/
def dropLocks (s : State) (gid : Nat) : State :=
  let t := strandAt s gid
  if t.locks.isEmpty then s
  else
    putStrand (t.locks.foldl (fun s l => onSlice s (homeSlice l) fun k =>
      { k with locks := k.locks.filter fun p => !(p.1 == l && p.2 == gid) }) s) gid { t with locks := [] }

/-- Registers granted to a strand's pushes taken back, at suspended peers too, with its push messages: its task is gone, or its push is
framed or forced out and asks again after the reload (R264, R266). -/
def dropGrants (s : State) (gid : Nat) : State :=
  let clear : State → Nat → State := fun s g =>
    let t := strandAt s g
    if t.granted.any fun p => p.2 == gid then putStrand s g { t with granted := t.granted.filter fun p => p.2 != gid } else s
  let s := (s.gid :: s.peers.map Prod.fst).foldl clear s
  { s with
    suspended := s.suspended.map fun c => { c with saved := { c.saved with granted := c.saved.granted.filter fun p => p.2 != gid } }
    wire := s.wire.filter fun w => match w with
    | .pushAsk g _ _ _ _ | .pushGrant g _ _ _ _ _ | .pushPeer g _ => g != gid
    | _ => true }

/-- What the end of a task does beyond its strand (R114, R331, R359): frames dropped, claims torn down, the completion
word written, STATE set, the context-table entry and the result space freed, the launch told. `err` 0 is `vx.end`; `gid` is the
strand on which it runs, or last ran; `agent` the strand whose held future loads its abandons withdraw (R326). -/
def closeTask (s : State) (gid agent : Nat) (t : Strand) (lost : Bool) (err : Nat) : State :=
  match t.task with
  | none => s
  | some tk =>
    let s := { s with
      frames := s.frames.filter fun p => p.1 != tk.ctx
      scalarFrames := s.scalarFrames.filter fun p => p.ctx != tk.ctx }
    let s := tearClaims s agent t.claims
    let s := match launchOf s tk.launch with
      | some l => writeCompletion s (dieOf gid) l tk.index (completionWord t.vstat err tk.id)
      | none => s
    let s := (descWrite s t.sdescNow 8 [stateByte (if lost then .lost else .ended) false]).getD s
    let s := if lost then (descWrite s t.sdescNow 9 [BitVec.ofNat 8 err]).getD s else s
    let s := if lost then logEvent s 3 (strandUnit gid) 0 [err, gid] else s
    let s := { s with
      ctxUsed := s.ctxUsed.filter fun c => c != tk.ctx
      results := s.results.filter fun r => r.1 != tk.ctx }
    endOfTask s (dieOf gid) tk.launch tk.index

/-- The strand after its task is gone: idle, with no share, no queue, no claims, no FULL register (R114, R356). -/
def idleStrand (t : Strand) (st : CtxState) : Strand :=
  { t with
    task := none
    share := 0
    nextShare := 0
    weight := 0
    queue := []
    replay := none
    claims := List.replicate 32 .free
    unfold := none
    pending := Vector.replicate 32 none
    granted := []
    preempt := none
    watchdog := 0
    storeTraps := []
    firmware := false
    waiting := false
    failing := none
    place := 0
    peek := false
    heldUntil := 0
    framing := none
    xbad := []
    locks := []
    reservation := none
    ctxState := st
    pend := false
    upto := none
    wake := false
    bound := none }

/-- A strand with the answer to its future load, where one is on its way, taken into its claim list (R326); the answer is off the
wire. -/
def takeAnswer (s : State) (gid : Nat) : State :=
  let t := strandAt s gid
  let cs := answeredClaims s gid t.claims
  putStrand { s with wire := s.wire.filter fun w => match w with
    | .slath g _ _ _ _ => g != gid
    | _ => true } gid { t with claims := cs }

/-- The end of the task on a strand (R114, R359): teardown, the strand idle, the lanes divided again (R338). -/
def endTaskOn (s : State) (gid : Nat) (lost : Bool) (err : Nat) : State :=
  let s := takeAnswer (dropGrants (withdraw (dropLocks s gid) gid) gid) gid
  let s := closeTask s gid gid (strandAt s gid) lost err
  let s := putStrand s gid (idleStrand (strandAt s gid) (if lost then .lost else .ended))
  redivide s (coreOf gid)

/-- Whether a strand has a copy that has neither completed nor failed (R114, R235). -/
def copiesOpen (s : State) (gid : Nat) : Bool := s.copies.any fun c => c.gid == gid

/-- Whether the end of a strand's task waits for a locked line: that of its completion word, or of its context descriptor (R255). -/
def closeLocked (s : State) (gid : Nat) : Bool :=
  let t := strandAt s gid
  physLocked s t.sdescNow.toNat 64 || t.task.any fun k => (launchOf s k.launch).any fun l =>
    match completionLoc s (dieOf gid) l k.index with
    | .ok loc => decide (recCompl l.image ≠ 0) && isDevice loc && lineLocked s (lineOf loc)
    | .error _ => false

/-- A task fails (R359): at once where it has no open copy and no locked line stands in the way, else when they are over; a pending frame is
discarded. -/
def failTaskOn (s : State) (gid : Nat) (lost : Bool) (err : Nat) : State :=
  let s := dropLocks s gid
  if copiesOpen s gid || closeLocked s gid then
    let s := { s with frames := s.frames.filter fun p => !((strandAt s gid).task.any fun k => k.ctx == p.1) }
    putStrand (withdraw s gid) gid { strandAt s gid with
      failing := some (lost, err), pend := false, queue := [], replay := none, framing := none, firmware := false }
  else endTaskOn s gid lost err

/-- The records that a strand of a LOST context holds: flits that arrive for them are discarded (R355). -/
def killRecords (s : State) (gid : Nat) : State :=
  { s with records := s.records.map fun r => if r.gid == gid && !r.delivered then { r with dead := true } else r }

/-- The context of the focus strand becomes LOST (R352, R355): STATE and the code are written at once where they can be. -/
def contextLost (s : State) (err : Nat) : State :=
  let s := if physLocked s s.t.sdescNow.toNat 64 then s
    else (descWrite s s.t.sdescNow 8 [stateByte .lost s.t.pend, BitVec.ofNat 8 err]).getD s
  failTaskOn (killRecords { s with t := { s.t with ctxState := .lost } } s.gid) s.gid true err

/-- Bytes of a frame (R351). -/
def frameBytes (r m q n : Nat) : Nat := 2048 + 4096 * r + 512 * m + 128 * q + 256 * n

/-- Whether a record has all the flits it is owed. -/
def Record.full (r : Record) : Bool := decide (r.got.toNat = 2 ^ (r.nf + 1) - 1)

/-- The reassembly records that a strand holds, each with every flit it is owed (R219, R351). -/
def heldRecords (s : State) (gid : Nat) : List Record := s.records.filter fun r => r.gid == gid && r.full && !r.dead

/-- How many reassembly records a strand holds (R351). -/
def recordsOf (s : State) (gid : Nat) : Nat := (heldRecords s gid).length

/-- Whether a reassembly record of a strand still waits for flits (R219). -/
def recordsOwed (s : State) (gid : Nat) : Bool := s.records.any fun r => r.gid == gid && !r.delivered && !r.dead && !r.full

/-- Entries with the source registers that no older entry of the frame writes, as they stand now (R351, R352); a reloaded
entry keeps what it has. -/
def captureSources (s : State) : List QEntry → List QEntry → List QEntry
  | _, [] => []
  | older, e :: r =>
    let dv := destsOf s older
    let dk := kdestsOf s older
    let vs := (distinct ((vSources e.instr (footOf s e)).map (· % 32))).filter fun n =>
      !dv.contains n && !(e.vsrc.any fun p => p.1 == n)
    let ks := (distinct ((kSources e.instr (footOf s e)).map BitVec.toNat)).filter fun n =>
      !dk.contains n && !(e.ksrc.any fun p => p.1 == n)
    { e with
      vsrc := e.vsrc ++ vs.map fun n => (n, getV s n)
      ksrc := e.ksrc ++ ks.map fun n => (n, getK s (BitVec.ofNat 3 n)) } :: captureSources s (older ++ [e]) r

/-- A reloaded entry's own sources are those of its frame; an entry about to overwrite a register that it reads keeps what it
read (R26): the sources among its own destinations. -/
def keepSources (s : State) (e : QEntry) : QEntry :=
  let dv := destsOf s [e]
  let vs := (distinct ((vSources e.instr (footOf s e)).map (· % 32))).filter fun n =>
    dv.contains n && !(e.vsrc.any fun p => p.1 == n)
  { e with vsrc := e.vsrc ++ vs.map fun n => (n, getV s n) }

/-- The physical registers that the entries of a frame read or write (R351): the registers that none of them writes before it
is read, each once, and one for each register that an entry with spares writes. -/
def physCount (srcs dests : QEntry → List Nat) (es : List QEntry) : Nat :=
  let step : List Nat × List Nat × Nat → QEntry → List Nat × List Nat × Nat := fun acc e =>
    let read := (srcs e).foldl (fun r n => if acc.2.1.contains n then r else addOnce n r) acc.1
    (read, dests e ++ acc.2.1, acc.2.2 + if tookSpares e then (dests e).length else 0)
  let r := es.foldl step ([], [], 0)
  r.1.length + r.2.2

/-- The frame of a list of entries (R351). -/
def frameOf (s : State) (cause seed : Nat) (es : List QEntry) : Frame :=
  let sv := fun e : QEntry => distinct ((vSources e.instr (footOf s e)).map (· % 32))
  let sk := fun e : QEntry => distinct ((kSources e.instr (footOf s e)).map BitVec.toNat)
  { cause := cause
    seed := seed
    entries := captureSources s [] es
    vregs := (destsOf s es).map fun n => (n, getV s n)
    kregs := (kdestsOf s es).map fun n => (n, getK s (BitVec.ofNat 3 n))
    records := heldRecords s s.gid
    bytes := frameBytes (physCount sv (renames s) es) (physCount sk (fun e => kdestsOf s [e]) es) es.length
      (recordsOf s s.gid) }

/-- An entry as a frame holds it: it keeps its progress, and translates again after the reload (R351, R367). -/
def frameEntry (e : QEntry) : QEntry := if e.done then { e with held := [] } else { e with held := [], passed := false, since := [] }

/-- The entries that a frame holds: an unfinished one that writes an x register is left out (R346). -/
def framed (es : List QEntry) : List QEntry := (es.filter fun e => e.done || !e.xw).map frameEntry

/-- Records of a strand taken into a frame (R219, R351): each holds all its flits. -/
def takeRecords (s : State) (gid : Nat) : State :=
  { s with records := s.records.filter fun r => !(r.gid == gid && r.full && !r.dead) }

/-- A frame written for cause 25 or 48, with VFB, CAUSE and PEND (R351, R352, R355, R358); `none` where the context is
LOST instead, with the code. A push that has begun keeps its binding in its entry (R357). -/
def writeFrame (s : State) (cause : Nat) (es : List QEntry) : Except Nat State :=
  if s.t.pend then .error 131
  else if !areaOk s s.t.sbaseNow s.t.sdescNow then .error 128
  else
    let es := (framed es).modify 0 fun e => { e with bound := s.t.bound }
    let f := frameOf s cause s.free es
    match writeImage s (s.t.sbaseNow.toNat + 0x1000) f.bytes with
    | none => .error 128
    | some (s, _) =>
      match descWrite s s.t.sdescNow 8 [stateByte s.t.ctxState true, BitVec.ofNat 8 cause] with
      | none => .error 128
      | some s =>
        match descWrite s s.t.sdescNow 12 (bytesOf 4 f.bytes) with
        | none => .error 128
        | some s =>
          let ctx := (s.t.task.map fun k => k.ctx).getD 0
          .ok (takeRecords { s with
            t := { s.t with
              pend := true, queue := [], replay := none, place := 0, peek := false, bound := none, framing := none, wake := false }
            frames := (ctx, f) :: s.frames.filter fun p => p.1 != ctx } s.gid)

/-- The trap of cause 25 or 48 with its frame (R351): the frame waits until every record of the strand has the flits it is
owed, and for locked lines of its area (R255); then it is written and the trap delivered. -/
def frameTrap (s : State) (cause : Nat) (tval epc : Word) (es : List QEntry) : State :=
  let s := withdrawWaiting (dropGrants (latch s) s.gid) s.gid
  if recordsOwed s s.gid || saveLocked s then { s with t := { s.t with framing := some ⟨s.clock, cause, tval, epc, es⟩ } }
  else
    match writeFrame s cause es with
    | .ok u => takeTrap u false cause tval epc
    | .error e => contextLost s e

/-- A register that an entry ahead of older ones wrote returns to the mapping in the history buffer (R27, R28.4), and the x register it
wrote to its value. -/
def unwindEntry (s : State) (e : QEntry) : State :=
  let s := e.xhist.elim s fun p => setX s p.1 p.2
  e.khist.foldl (fun s p => setK s (BitVec.ofNat 3 p.1) p.2) (e.vhist.foldl (fun s p => setV s p.1 p.2) s)

/-- The younger entries discarded, the youngest first (R28.4). -/
def unwind (s : State) (es : List QEntry) : State := es.reverse.foldl unwindEntry s

/-- The mask registers that an entry writes, as they stood before it (R258). -/
def restoreMasks (old s : State) (e : QEntry) : State :=
  (kdestsOf old [e]).foldl (fun s n => setK s (BitVec.ofNat 3 n) (getK old (BitVec.ofNat 3 n))) s

/-- The vector instruction of entry `e` traps (R28, R343.2, R346), `old` being the state before it was performed: everything
older has committed; cause 25 writes it and every younger entry as a frame, and its mask destinations keep their mapping (R258);
every other cause discards the younger entries; `vcp.PC` is its address. -/
def vectorTrap (old s : State) (e : QEntry) (younger : List QEntry) (cause : Nat) (tval epc : Word) : State :=
  let s := dropLocks { s with t := { s.t with vcpPc := e.pc, replay := none, place := 0, peek := false, upto := none } } s.gid
  if cause = 25 then
    let f := (captureSources old [] [e]).headD e
    restoreMasks old (frameTrap s 25 tval epc (f :: younger)) e
  else takeTrap (unwind { s with t := { s.t with queue := [], bound := none } } younger) false cause tval epc

/-- An instruction pushed into the queue (R17), or the stall of the scalar stream while all 64 entries are taken; at one that
writes an x register the stream stops (R19). `instret` counts it (R36). -/
def pushOrStall (s : State) (e : QEntry) : State :=
  if 64 ≤ s.t.queue.length then stall s
  else
    let s := { s with t := { s.t with queue := s.t.queue ++ [e] } }
    if e.xw then retireTo s s.t.pc else retire s

/-- Whether a vector instruction of the focus strand waits in the queue for the present, whatever it is (R26, R34, R135): the lanes issue
nothing of the strand, spares are short, another strand of the core has an instruction in a shared unit, or some line is locked (R255). -/
def held (s : State) : Bool :=
  decide (s.clock < s.t.heldUntil) || !roomy s || coreBusy s || s.slices.any fun p => !p.2.locks.isEmpty

/-- The state with no flag set, in which an instruction is performed: the flags it raises are then its own. -/
def quiet (s : State) : State := { s with t := { s.t with vstat := 0 } }

/-- The state that a performed instruction leaves with the flags given ORed into those there were before it (R146). -/
def raise (old u : State) (f : Flags) : State := { u with t := { u.t with vstat := old.t.vstat ||| f } }

/-- Whether an instruction's flags are ORed when it traps too (R288): the MAT group's. -/
def flagsAtTrap (i : Instr) : Bool :=
  match i with
  | .vxMgemm _ _ | .vxMmac _ _ _ | .vxMmacs _ _ _ _ | .vxMcomp _ _ _ | .vxMtld _ _ _ | .vxMzero _ | .vxMunf _ => true
  | _ => false

/-- The trap of an instruction that raised the flags in `u` (R146, R288): they go into `vstat` now, or with the entry until it
completes. -/
def trapFlags (old u : State) (e : QEntry) : State × QEntry :=
  let f := e.late ||| u.t.vstat
  if flagsAtTrap e.instr then (raise old u f, { e with late := 0 }) else (raise old u 0, { e with late := f })

/-- An entry that waits: its progress, the flags it has raised, and what it must still be able to read; its addresses are sorted
(R221). -/
def heldEntry (old u : State) (e : QEntry) (progress : Nat) : QEntry :=
  { keepSources old e with
    progress := progress
    late := e.late ||| u.t.vstat
    since := if e.issued = BitVec.allOnes 32 then [] else e.since }

/-- An entry past its fault point: it keeps the translations under which it passed it (R27, R367). -/
def passEntry (old : State) (e : QEntry) : QEntry :=
  { e with passed := true, held := if e.passed then e.held else pagesOf old e }

/-- An entry that waits past its fault point. -/
def waitingEntry (old u : State) (e : QEntry) (progress : Nat) : QEntry :=
  { heldEntry old u e progress with passed := true, held := (passEntry old e).held }

/-- What performing an instruction straight from the scalar stream comes to, nothing older being in the queue. -/
def performed (s : State) (e : QEntry) (r : Eff) : State :=
  match r with
  | .ok u => retire { raise s u (e.late ||| u.t.vstat) with t.vcpPc := e.pc }
  | .wait u p => pushOrStall (raise s u 0) (waitingEntry s u e p)
  | .hold u p => pushOrStall (raise s u 0) (heldEntry s u e p)
  | .trap u c tv p =>
    let r := trapFlags s u e
    if e.xw then vectorTrap s (retireTo r.1 r.1.t.pc) r.2 [] c tv e.pc
    else vectorTrap s (retire r.1) { r.2 with progress := p } [] c tv (e.pc + 4)

/-- The x register that an entry writes, with what it holds (R28.4). -/
def xBefore (s : State) (e : QEntry) : Option (Reg × Word) :=
  let d := BitVec.ofNat 5 (bits e.word.toNat 7 5)
  if e.xw then some (d, getX s d) else none

/-- An entry that has completed: what its destinations mapped to before, and its flags until it commits, where an older entry
is not finished. -/
def finishedEntry (old u : State) (e : QEntry) : QEntry :=
  { e with
    done := true
    passed := true
    vhist := if e.vhist.isEmpty then (destsOf old [e]).map fun n => (n, getV old n) else e.vhist
    khist := if e.khist.isEmpty then (kdestsOf old [e]).map fun n => (n, getK old (BitVec.ofNat 3 n)) else e.khist
    xhist := xBefore old e
    late := e.late ||| u.t.vstat }

/-- The queue entry in a place replaced; the entry in the queue takes the next turn of the vector stream given. -/
def putEntry (s : State) (n next : Nat) (e : QEntry) : State :=
  { s with t := { s.t with replay := none, peek := false, upto := none, place := next, queue := s.t.queue.set n e } }

/-- What performing the oldest entry of the queue comes to (R17 to R19, R28). An instruction that writes an x register lets the
scalar stream go on. -/
def performedHead (s : State) (e : QEntry) (r : Eff) : State :=
  match r with
  | .ok u =>
    let t := raise s u (e.late ||| u.t.vstat)
    putEntry (if e.xw then setPc t (t.t.pc + 4) else t) 0 0 { e with done := true, passed := true, late := 0 }
  | .wait u p => stall (putEntry (raise s u 0) 0 1 (waitingEntry s u e p))
  | .hold u p => stall (putEntry (raise s u 0) 0 1 (heldEntry s u e p))
  | .trap u c tv p =>
    let r := trapFlags s u e
    vectorTrap s r.1 { r.2 with progress := p } u.t.queue.tail c tv u.t.pc

/-- Whether an instruction has passed its fault point once trying it raises nothing (R27): one whose trap may still come of what the
older entries do to the state has not. -/
def certain (e : QEntry) : Bool :=
  let op := e.word.toNat % 128
  decide (op = 0x0B) || decide (op = 0x5B) || match e.instr with
    | .vmCp _ _ _ | .vmCpwany _ _ _ | .vmCpwall _ _ _ | .vmCpffr _ _ _ | .vmCpclr _ _ | .vxPush _ _ _ _ | .vxMunf _ | .vxMgemm _ _
    | .vxClaim _ _ _ | .vxFulfil _ _ | .vxAbandon _ | .vxFld _ _ | .vxFprobe _ _ | .vxRelease _ | .vxSpawn _ _ | .vxDep _ _ _
    | .vxGlaunch _ => false
    | _ => true

/-- The entry with what its destinations mapped to before it began to write them ahead of older entries (R27). -/
def withHistory (old : State) (e d : QEntry) : QEntry :=
  if e.vhist.isEmpty then { d with vhist := (destsOf old [e]).map fun n => (n, getV old n) } else d

/-- What trying a younger entry comes to (R27): it completes ahead of the older ones, or some of its elements do, or it has passed its
fault point, or nothing happens. -/
def performedAhead (s : State) (n : Nat) (e : QEntry) (r : Eff) : State :=
  match r with
  | .ok u =>
    if s.t.peek then putEntry s n (n + 1) (if certain e then passEntry s e else e)
    else
      let u := if e.xw then setPc u (u.t.pc + 4) else u
      putEntry (raise s u 0) n 0 (finishedEntry s u e)
  | .wait u p =>
    if s.t.peek || p ≤ e.progress then stall (putEntry s n (n + 1) (passEntry s e))
    else stall (putEntry (raise s u 0) n (n + 1) (withHistory s e (waitingEntry s u e p)))
  | .hold _ _
  | .trap _ _ _ _ => stall (putEntry s n (n + 1) e)

/-- A vector instruction (R17 to R19, R28). From the queue it is performed with what its entry captured. From the scalar
stream it is performed at once where nothing older waits and the lanes issue it, else it is pushed. -/
def runVec (i : Instr) (xw : Bool) (body : Ctx → State → Eff) (s : State) : Out :=
  match s.t.replay with
  | some e =>
    let r := body (ctxOfEntry s e) (quiet s)
    .next (if s.t.place = 0 then performedHead s e r else performedAhead s s.t.place e r)
  | none =>
    let e := pushEntry s i
    .next (
      if s.t.queue.isEmpty && !held s then performed s { e with xw := xw } (body (ctxOfEntry s e) (quiet s))
      else pushOrStall s { e with xw := xw })

/-- The commit of the oldest entry, whose every element has completed (R18, R20). -/
def commitHead (s : State) : State :=
  match s.t.queue with
  | e :: r =>
    if e.done then { s with t := { s.t with queue := r, place := 0, vcpPc := e.pc, vstat := s.t.vstat ||| e.late } } else s
  | [] => s

/-- An instruction that the front end executes itself once the vector queue is empty (R17, R19). -/
def whenDrained (f : State → State) (s : State) : Out := .next (if s.t.queue.isEmpty then f s else stall s)

/-- Whether the strand may execute supervisor instructions (R56). -/
def privileged (s : State) : Bool := decide (s.t.mode ≠ .user)

/-- Whether a push that a context granted has begun and not ended (R264, R357): some strand, or a suspended context, or a
frame holds it. -/
def pushBegun (s : State) (order : Nat) : Bool :=
  ((s.gid :: s.peers.map Prod.fst).any fun g => (strandAt s g).bound == some order) ||
    (s.suspended.any fun c => c.saved.bound == some order) || s.frames.any fun f => f.2.entries.any fun e => e.bound == some order

/-- Whether a register of a strand is FULL, or a push toward one is in progress (R31.2). -/
def pushBusy (s : State) (t : Strand) : Bool :=
  t.pending.any (fun p => p.isSome) || !t.granted.isEmpty || t.task.any fun k => pushBegun s k.order

/-- Whether a pre-emption point has found its queue empty and no push (R353): PREEMPT follows. -/
def preemptSure (s : State) : Bool := s.t.preempt.any fun r => r.sure

/-- What a pre-emption point waits for before its trap: the strand's copies (R235), and locked lines of its save area (R255). -/
def preemptWaits (s : State) : Bool := copiesOpen s s.gid || saveLocked s

/-- A pre-emption point that waits for the strand's copies (R235): its request can no longer end in a forced save (R353). -/
def stallSure (s : State) : State :=
  stall { s with t := { s.t with preempt := s.t.preempt.map fun r => { r with sure := true } } }

/-- The pre-emption trap (R31.3, R353): the scalar frame holds the resume pc, STATE becomes PREEMPTED, the request is
consumed, the unfolding slot is cleared (R283), cause 29 is delivered. -/
def takePreempt (s : State) (epc : Word) : State :=
  let ctx := (s.t.task.map fun k => k.ctx).getD 0
  let s := latch { s with t := { s.t with preempt := none, unfold := none } }
  if !areaOk s s.t.sbaseNow s.t.sdescNow then contextLost s 128
  else
    match writeImage s s.t.sbaseNow.toNat 4096 with
    | none => contextLost s 128
    | some (s, seed) =>
      match descWrite s s.t.sdescNow 8 [stateByte .preempted s.t.pend] with
      | none => contextLost s 128
      | some s =>
        let s := { s with
          t := { s.t with
            ctxState := .preempted
            watchdog := if s.t.watchdog = 0 ∨ s.t.ctxState ≠ .active then s.t.watchdog else Nat.max 1 (s.t.watchdog - s.clock) }
          scalarFrames := ⟨ctx, seed, { s.t with pc := epc }⟩ :: s.scalarFrames.filter fun p => p.ctx != ctx }
        takeTrap s false 29 0 epc

end Sys2Proof.Machine
end

