-- ==== Sys2Proof/Machine/Flags.lean ====
section
/-! DEFINITION. Flag computations: what a vector instruction ORs into `vstat` (R48, R97, R146). -/

namespace Sys2Proof.Machine


/-- The flags that the active elements below VL raise (R97.1, R146). -/
def elemFlags (c : Ctx) (s : State) (m : KReg) (f : Nat → Flags) : Flags := activeFlags c.vl (actOf s m) f

/-- NV when an active element of an FP source is a signalling NaN (R169). -/
def sigFlags (F : FpFmt) (xs : List Nat) : Flags := flagIf (xs.any fun x => (fpDecode F x).isSig) flagNV

end Sys2Proof.Machine
end

