-- ==== Sys2Proof/Machine/Operands.lean ====
section
/-! DEFINITION. Operand forms of the vector instructions and the ways a result is written (R37, R43, R97, R108, R161, R173). -/

namespace Sys2Proof.Machine


/-- Element i of a source register (R108). -/
def vElem (c : Ctx) (s : State) (r : Reg) (i : Nat) : Nat := elem c.w (srcV s r.toNat).bits i

/-- The low w bits of x[a] as captured at push (R108, R161). -/
def xElem (c : Ctx) : Nat := c.xa.toNat % 2 ^ c.w

/-- The contents of a destination register whose active elements are computed (R97.2, R23). -/
def elemBits (c : Ctx) (s : State) (d : Reg) (m : KReg) (f : Nat → Nat) : VBits :=
  mergeElems c.w c.vl (actOf s m) (getV s d.toNat).bits f

/-- A DENSE destination with the contents given (R43). -/
def putDense (c : Ctx) (s : State) (d : Reg) (b : VBits) : State := setV s d.toNat (denseReg c.w c.vl b)

/-- An element-wise instruction that raises no flag (R97, R108). -/
def elementwise (d : Reg) (m : KReg) (f : Ctx → State → Nat → Nat) (c : Ctx) (s : State) : Eff :=
  .ok (putDense c s d (elemBits c s d m (f c s)))

/-- An element-wise FP instruction (R161, R162): the format check, the elements, the flags. -/
def fpElementwise (d : Reg) (m : KReg) (f : FpFmt → Ctx → State → Nat → Nat × Flags) (c : Ctx) (s : State) : Eff :=
  match fpFmt (cfgFmt c.cfg) with
  | none => .deny s 2 (c.word.setWidth 64)
  | some F =>
    .ok (orFlags (putDense c s d (elemBits c s d m fun i => (f F c s i).1)) (elemFlags c s m fun i => (f F c s i).2))

/-- The contents of a mask destination whose active bits are computed (R41, R110). -/
def maskBits (c : Ctx) (s : State) (d m : KReg) (f : Nat → Bool) : KBits :=
  packK (fun i => if actOf s m i then f i else (getK s d).getLsbD i) c.vl

/-- An instruction of the PERM group: each element below VL computed, no mask (R173). -/
def permute (d : Reg) (f : Ctx → State → Nat → Nat) (c : Ctx) (s : State) : Eff :=
  .ok (putDense c s d (packV c.w (f c s) c.vl))

/-- The width check of the SORT, SPARSE and GATE groups: FMT 4, 5 or 12 (R119, R371, R300). -/
def wideOnly (f : Ctx → State → Eff) (c : Ctx) (s : State) : Eff :=
  if cfgFmt c.cfg = 4 ∨ cfgFmt c.cfg = 5 ∨ cfgFmt c.cfg = 12 then f c s else .deny s 2 (c.word.setWidth 64)

/-- The first of a list of sources that fails a check raises SORT-STATE with its number (R120, R371). -/
def checkSources (ok : VReg → Bool) (rs : List Reg) (f : Ctx → State → Eff) (c : Ctx) (s : State) : Eff :=
  match rs.find? fun r => !ok (srcV s r.toNat) with
  | some r => .deny s 24 (word r.toNat)
  | none => f c s

/-- The run check of R120 under the captured `vkey`. -/
def needRuns (rs : List Reg) (f : Ctx → State → Eff) (c : Ctx) (s : State) : Eff := checkSources (isRun c.key) rs f c s

/-- The elements of a Plait source within its extent (R119). -/
def runElems (c : Ctx) (s : State) (r : Reg) : List Nat := runOf (srcV s r.toNat) c.vl

end Sys2Proof.Machine
end

