-- ==== Sys2Proof/Machine/VectorMem.lean ====
section
/-! DEFINITION. Elements of vector memory instructions: addresses, page formats, decoding and encoding, faults, and the
one way a load or a store is performed (R28, R102 to R107, R147 to R156, R220 to R226). -/

namespace Sys2Proof.Machine

/-- What one element of a load obtains: its value, its flags, and the locations it read. -/
structure Got where
  val : Nat
  flags : Flags
  locs : List Nat

/-- What the page of the last byte of an element raises, where that is another page than its first byte's (R106, R150): a Format
Table entry that cannot be read or is invalid, or a packed format. -/
def endFault (c : Ctx) (s : State) (acc : Acc) (va n : Nat) : Option Nat :=
  let last := (va + (n - 1)) % 2 ^ 64
  if va / 4096 = last / 4096 then none
  else
    match fmtAt c s acc last with
    | .error e => some e
    | .ok (some e, _) => if isPacked e then some 26 else none
    | .ok (none, _) => none

/-- How a load reads a byte: at its slice or a replica (R237), always at the home (R247), or through the read-only buffer. -/
abbrev Reader := Nat → Byte

/-- Bytes of an element read and decoded; an uncorrectable error raises DATA-ERROR (R106). -/
def gather (s : State) (rd : Reader) (va : Nat) (locs : List Nat) (dec : List Byte → Nat × Flags) : Except EFault Got :=
  if locs.any fun l => s.errs.contains (lineOf l) then .error (27, va)
  else
    let r := dec (locs.map rd)
    .ok ⟨r.1, r.2, locs⟩

/-- A raw element: `w/8` bytes whatever the page's format (R226). -/
def rawLoad (c : Ctx) (s : State) (rd : Reader) (va : Nat) : Except EFault Got :=
  match vLocs c s .read va (c.w / 8) with
  | .error e => .error (e, va)
  | .ok locs => gather s rd va locs fun bs => (ofBytes bs, 0)

/-- An element at an address, decoded from its page's format (R103, R107, R151); a format with packed groups is FORMAT
here (DESIGN CHOICE where the base's page is not packed: R154 speaks of the base's page alone). An element that spans two pages
is decoded from the format of its first byte's page (DESIGN CHOICE). An element that meets several conditions of R106 raises the first of these: its first page's, its format's, its last page's, its
location's; the rule gives no order (DESIGN CHOICE; log entry 96). Under FMT 16 to 18, to which no conversion leads, the
value on a formatted page is the free number given. -/
def plainLoad (c : Ctx) (s : State) (rd : Reader) (fr : Nat) (va : Nat) : Except EFault Got :=
  match fmtAt c s .read va with
  | .error e => .error (e, va)
  | .ok (none, _) =>
    match endFault c s .read va (c.w / 8) with
    | some k => .error (k, va)
    | none => rawLoad c s rd va
  | .ok (some e, _) =>
    if isPacked e then .error (26, va)
    else
      match endFault c s .read va (fmtWidth e.fmt / 8), vLocs c s .read va (fmtWidth e.fmt / 8) with
      | some k, _ => .error (k, va)
      | none, .error k => .error (k, va)
      | none, .ok locs => gather s rd va locs fun bs =>
          if 16 ≤ cfgFmt c.cfg then (fr % 2 ^ c.w, 0)
          else convert e.fmt (cfgFmt c.cfg) (cfgRM c.cfg) (cfgSat c.cfg) (ofBytes bs)

/-- The value of a grouped-quantised position (R155): (q − ZP)·SCALE rounded into FMT. -/
def quantValue (F : FpFmt) (md : RMode) (q : Nat) (record : Nat) : Nat × Flags :=
  let scale := fpDecode fp16 (bits record 0 16)
  let z := (q : Int) - sgn 8 (bits record 16 8)
  let p := fmulExact (FVal.ofInt z) scale
  let r := fpRound F md false p.1
  (r.1, sigFlag [scale] ||| p.2 ||| r.2)

/-- Whether the slots of an S8SP group rise strictly in IDX and hold no VF of 3 (R153). -/
def slotsOk : List Nat → Bool
  | x :: y :: r => decide (bits x 6 2 ≠ 3) && decide (bits x 0 3 < bits y 0 3) && slotsOk (y :: r)
  | [x] => decide (bits x 6 2 ≠ 3)
  | [] => true

/-- The slots of an S8SP group from its bytes. -/
def slotsOf : List Byte → List Nat
  | a :: b :: r => (a.toNat + 256 * b.toNat) :: slotsOf r
  | _ => []

/-- The decoded value of a position of an S8SP group (R153, R155). -/
def sparseValue (T : Nat) (md : RMode) (slots : List Nat) (p : Nat) : Nat × Flags :=
  match slots.find? fun x => bits x 0 3 == p % 8 with
  | none => (0, 0)
  | some x =>
    let v := bits x 8 8
    let code := bits x 6 2
    convert (if code = 0 then 0 else if code = 1 then 8 else 9) T md false v

/-- The record of a quantised group, read as a plain access (R152): its locations, or the fault. -/
def recordLocs (c : Ctx) (s : State) (va : Nat) : Except EFault (List Nat) :=
  match translate s (coreOf s.gid) c.xl .read va with
  | .error f => .error (vCause .read f, va)
  | .ok p =>
    if p.fai ≠ 0 then .error (26, va)
    else
      match vLocs c s .read va 4 with
      | .error k => .error (k, va)
      | .ok ls => .ok ls

/-- An element of a page with packed groups (R152 to R155): position `p0 + i · stride` of the base's page. The trap value of an access
fault or DATA-ERROR is the address of the byte, group or record that meets it (DESIGN CHOICE: addr(i) of R106 is not defined for
a position). -/
def packedLoad (c : Ctx) (s : State) (rd : Reader) (B : Nat) (e : FmtEntry) (pg : Page) (stride : Int) (i : Nat) :
    Except EFault Got :=
  let base := pageBase B pg
  let off := B - base
  let p : Int := ((off / groupBytes e * groupPositions e : Nat) : Int) + (i : Int) * stride
  match fpFmt (cfgFmt c.cfg) with
  | none => .error (26, B)
  | some F =>
    if F.w = 8 ∨ off % groupBytes e ≠ 0 ∨ p < 0 ∨ ((2 ^ pg.size / groupBytes e * groupPositions e : Nat) : Int) ≤ p then
      .error (26, B)
    else
      let p := p.toNat
      let g := p / groupPositions e
      if e.fmt = 18 then
        let va := base + g * groupBytes e
        match vLocs c s .read va (groupBytes e) with
        | .error k => .error (k, va)
        | .ok locs =>
          if locs.any fun l => s.errs.contains (lineOf l) then .error (27, va)
          else
            let slots := slotsOf (locs.map rd)
            if slotsOk slots then
              (let r := sparseValue (cfgFmt c.cfg) (cfgRM c.cfg) slots p
               .ok ⟨r.1, r.2, locs⟩)
            else .error (26, va)
      else
        let va := base + (if e.fmt = 16 then p / 2 else p)
        match recordLocs c s (((base : Int) + e.moff + (g * e.mstride : Nat)) % ((2 ^ 64 : Nat) : Int)).toNat with
        | .error f => .error f
        | .ok rl =>
          match vLocs c s .read va 1 with
          | .error k => .error (k, va)
          | .ok ql =>
            gather s rd va (ql ++ rl) fun bs =>
              let b := (bs.headD 0).toNat
              let q := if e.fmt = 16 then bits b (4 * (p % 2)) 4 else b
              quantValue F (cfgRM c.cfg) q (ofBytes (bs.drop 1))

/-- Whether the index operand begins at a multiple of its group (R223). -/
def indexOk (c : Ctx) (b : Reg) : Bool := decide (b.toNat % (32 / c.w) = 0)

/-- The element loader of `vm.ld` and `vm.lds`, and of the loads that behave like them (R103, R107, R154); the stride in
positions or bytes is `x`, or unit. -/
def loadUnit (stride : Option Int) (rd : State → Reader) (fr : Nat → Nat) (c : Ctx) (s : State) (i : Nat) :
    Except EFault Got :=
  match baseFormat c s .read with
  | some (e, pg) =>
    if isPacked e then packedLoad c s (rd s) c.xa.toNat e pg (stride.getD 1) i
    else plainLoad c s (rd s) (fr i) (addrUnit c (stride.getD (unitBytes c s .read : Nat)) i)
  | none => plainLoad c s (rd s) (fr i) (addrUnit c (stride.getD (c.w / 8 : Nat)) i)

/-- The element loader of the gathers (R223, R226). -/
def loadIndexed (b : Reg) (rd : State → Reader) (fr : Nat → Nat) (c : Ctx) (s : State) (i : Nat) : Except EFault Got :=
  plainLoad c s (rd s) (fr i) (addrIndexed c s b i)

/-- The lowest index that faults, with its cause and trap value (R106). -/
def firstFault {α : Type} (f : Nat → Except EFault α) : List Nat → Option (Nat × EFault)
  | [] => none
  | i :: r =>
    match f i with
    | .error e => some (i, e)
    | .ok _ => firstFault f r

/-- The value of an element that does not fault. -/
def valOf (f : Nat → Except EFault Got) (i : Nat) : Nat :=
  match f i with
  | .ok g => g.val
  | .error _ => 0

/-- The flags of the elements performed. -/
def gotFlags (f : Nat → Except EFault Got) (is : List Nat) : Flags :=
  is.foldl (fun a i => match f i with
    | .ok g => a ||| g.flags
    | .error _ => a) 0

/-- The lines that the elements performed were read from. -/
def allLines (f : Nat → Except EFault Got) (is : List Nat) : List Nat :=
  linesOfLocs (is.flatMap fun i => match f i with
    | .ok g => g.locs
    | .error _ => [])

/-- The lines of device memory among them. -/
def gotLines (f : Nat → Except EFault Got) (is : List Nat) : List Nat := (allLines f is).filter fun l => isDevice (l * 128)

/-- A load's destination: elements of `is` computed (R97, R103); of the others those below the progress kept, which are loaded, and those
above it as they were before the instruction (R227). -/
def putLoaded (c : Ctx) (s : State) (d : Reg) (is : List Nat) (f : Nat → Nat) : State :=
  let old := fun i => if i < c.progress then (getV s d.toNat).bits else (srcV s d.toNat).bits
  putDense c s d (packV c.w (fun i => if is.contains i then f i else elem c.w (old i) i) c.vl)

/-- A load's destination at a fault at element `i`: elements below it kept, the active ones from it on free, VPI at the last
whole word below it (R28.2). -/
def putPartial (c : Ctx) (s : State) (d : Reg) (is : List Nat) (i : Nat) (f fr : Nat → Nat) : State :=
  let s := putLoaded c s d is fun j => if j < i then f j else fr j % 2 ^ c.w
  setV s d.toNat { getV s d.toNat with vpi := BitVec.ofNat 11 (i * c.w / 32) }

/-- How a load reads (R237, R247): at the home or near; whether a locked line makes it wait (R255); and its footprint F for
residency (R185), in bytes; no footprint: the lines enter no cache; and the clock of a line's value (R244). -/
structure ReadWay where
  home : Bool
  waits : Bool
  clock : State → Nat → Clock4
  foot : Ctx → State → List Nat → Option Nat

/-- Bytes and positions of the base page's format: those of a group where it is packed, else of an element and one. -/
def formatPitch (c : Ctx) (s : State) : Nat × Nat :=
  match baseFormat c s .read with
  | some (e, _) => if isPacked e then (groupBytes e, groupPositions e) else (unitBytes c s .read, 1)
  | none => (unitBytes c s .read, 1)

/-- F of a unit-stride load (R185): W is the width of the page's format. -/
def footUnit (c : Ctx) (s : State) (_ : List Nat) : Option Nat :=
  let p := formatPitch c s
  some (c.vl * p.1 / p.2)

/-- F of a strided load (R185): on a packed page the stride counts positions, scaled to bytes. -/
def footStride (c : Ctx) (s : State) (_ : List Nat) : Option Nat :=
  let p := formatPitch c s
  let S := c.xb.toInt.natAbs
  some (if c.vl = 0 then 0 else if p.2 = 1 then (c.vl - 1) * S + p.1 else ((c.vl - 1) * S + 1) * p.1 / p.2)

/-- F of a masked multicast read, which counts the lines requested (R185, R230). -/
def footLines (_ : Ctx) (_ : State) (lines : List Nat) : Option Nat := some (128 * lines.length)

/-- F of a gather (R185): the distinct lines of all its elements, whatever the mask. -/
def footGather (b : Reg) (c : Ctx) (s : State) (_ : List Nat) : Option Nat :=
  let of := fun i =>
    let va := addrIndexed c s b i
    match vLocs c s .read va (elemBytes c s .read va) with
    | .ok locs => linesOfLocs locs
    | .error _ => []
  some (128 * (toSet ((List.range c.vl).flatMap of)).length)

/-- A load served by the slice or replica of the strand's die. -/
def near (foot : Ctx → State → List Nat → Option Nat) : ReadWay :=
  ⟨false, true, fun s => nearClock s (dieOf s.gid), foot⟩

/-- A load served by the home. -/
def atHome (foot : Ctx → State → List Nat → Option Nat) : ReadWay := ⟨true, true, homeClock, foot⟩

/-- A line used by a load of the focus strand with footprint F (R185). -/
def useLine (home : Bool) (F : Nat) (s : State) (line : Nat) : State :=
  cacheLine s (if home then homeSlice line else servingSlice s (dieOf s.gid) line) line (decide (F ≤ s.t.vrthr.toNat)) true

/-- What reading lines leaves beside the values (R185, R238, R244): their clocks are noted, the caches hold or refresh them, and a
lagging replica of a line read at its home catches up. -/
def readLines (w : ReadWay) (c : Ctx) (old s : State) (lines : List Nat) : State :=
  let s := noteRead s (w.clock old) lines
  let s := match w.foot c old lines with
    | some F => lines.foldl (useLine w.home F) s
    | none => s
  if w.home then catchUp s (dieOf s.gid) lines else s

/-- The indices to be performed that stand below the lowest fault. -/
def belowFault {α : Type} (f : Nat → Except EFault α) (is : List Nat) : List Nat :=
  match firstFault f is with
  | none => is
  | some (i, _) => is.filter fun j => decide (j < i)

/-- The state in which no line that the elements read fails its check. -/
def errFree (f : State → Nat → Except EFault Got) (is : List Nat) (s : State) : State :=
  let lines := allLines (f { s with errs := [] }) is
  { s with errs := s.errs.filter fun l => !lines.contains l }

/-- Whether a load passes its fault point (R27): every element translates, and its page's format is in order. -/
def clears (f : State → Nat → Except EFault Got) (is : List Nat) (s : State) : Bool :=
  (firstFault (f (errFree f is s)) is).isNone

/-- A wait past the fault point, or before it (R27). -/
def waitIf (past : Bool) (s : State) (progress : Nat) : Eff := if past then .wait s progress else .hold s progress

/-- Where a partial performance of a queued entry stops (R27, R240): at the element that the turn names, where no line holds an element
below it and another from it on (R222). -/
def cutAt (s : State) (lines : List Nat → List Nat) (is : List Nat) : Option Nat :=
  (s.t.replay.bind fun _ => s.t.upto).bind fun u =>
    let low := is.filter fun i => decide (i < u)
    let high := is.filter fun i => decide (u ≤ i)
    if low.isEmpty || high.isEmpty || (lines low).any (lines high).contains then none else some u

/-- The elements below a stop. -/
def beforeCut (cut : Option Nat) (is : List Nat) : List Nat := cut.elim is fun u => is.filter fun i => decide (i < u)

/-- A vector load (R28, R103, R106): the lowest fault decides; elements below it are in the destination. Lines that an engine owns
are recalled first (R194, R235). One past its fault point may stop at an element that `stop` names. -/
def loadUpTo (stop : State → (List Nat → List Nat) → List Nat → Option Nat) (w : ReadWay) (d : Reg) (m : KReg)
    (f : (Nat → Nat) → Ctx → State → Nat → Except EFault Got) (c : Ctx) (s : State) : Eff :=
  let p := drawFam s
  let is := todo c s m
  let g0 := f p.1 c s
  let past := clears (f p.1 c) is s
  let cut := if past then stop s (gotLines g0) is else none
  let now := beforeCut cut is
  let lines := gotLines g0 (belowFault g0 now)
  if w.waits && blocked s lines then waitIf past s c.progress
  else
    let old := recallLines s lines
    let g := f p.1 c old
    let s := { old with free := p.2.free }
    match firstFault g now with
    | none =>
      let s := if 16 ≤ cfgFmt c.cfg then s else old
      let t := orFlags (readLines w c old (putLoaded c s d now (valOf g)) (gotLines g now)) (gotFlags g now)
      match cut with
      | none => .ok t
      | some u => .wait (setV t d.toNat { getV t d.toNat with vpi := BitVec.ofNat 11 (u * c.w / 32) }) u
    | some (i, e) =>
      let done := is.filter fun j => decide (j < i)
      .trap (orFlags (readLines w c old (putPartial c s d is i (valOf g) p.1) (gotLines g done)) (gotFlags g done)) e.1 (word e.2) i

/-- A vector load that may stop where the turn names an element. -/
def loadWith : ReadWay → Reg → KReg → ((Nat → Nat) → Ctx → State → Nat → Except EFault Got) → Ctx → State → Eff := loadUpTo cutAt

/-- A first-fault load under a mask (R227): a page fault or access fault above the lowest active element ends it, and the mask
keeps only the elements loaded. -/
def loadFirstFault (w : ReadWay) (d : Reg) (m : KReg) (f : (Nat → Nat) → Ctx → State → Nat → Except EFault Got) (c : Ctx)
    (s : State) : Eff :=
  let whole := loadUpTo (fun _ _ _ => none) w d m f c
  let p := drawFam s
  let is := todo c s m
  match firstFault (f p.1 c s) is with
  | none => whole s
  | some (i, e) =>
    let done := is.filter fun j => decide (j < i)
    let lines := gotLines (f p.1 c s) done
    if decide (m = 0) || done.isEmpty || !(e.1 == 25 || e.1 == 5) then whole s
    else if blocked s lines then .wait s c.progress
    else
      let old := recallLines s lines
      let g := f p.1 c old
      let s := if 16 ≤ cfgFmt c.cfg then { old with free := p.2.free } else old
      let k := srcK s m
      .ok (orFlags (readLines w c old (setK (putLoaded c s d done (valOf g)) m (packK (fun j => k.getLsbD j) i)) lines)
        (gotFlags g done))

/-- How an element's data is stored: bytes with their locations, and flags. -/
structure Put where
  bytes : List (Nat × Byte)
  flags : Flags

/-- A raw element stored (R104, R226). -/
def rawStore (c : Ctx) (s : State) (v : Nat) (va : Nat) : Except EFault Put :=
  match vLocs c s .write va (c.w / 8) with
  | .error e => .error (e, va)
  | .ok locs => .ok ⟨locs.zip (bytesOf (c.w / 8) v), 0⟩

/-- An element stored at an address, encoded into its page's format (R104, R107, R151); packed formats, of the last byte's page too,
refuse it (R106). One that spans two pages is encoded into the format of its first byte's page (DESIGN CHOICE). -/
def plainStore (c : Ctx) (s : State) (fr : Nat) (v : Nat) (va : Nat) : Except EFault Put :=
  match fmtAt c s .write va with
  | .error e => .error (e, va)
  | .ok (none, _) =>
    match endFault c s .write va (c.w / 8) with
    | some k => .error (k, va)
    | none => rawStore c s v va
  | .ok (some e, _) =>
    if isPacked e then .error (26, va)
    else
      match endFault c s .write va (fmtWidth e.fmt / 8), vLocs c s .write va (fmtWidth e.fmt / 8) with
      | some k, _ => .error (k, va)
      | none, .error k => .error (k, va)
      | none, .ok locs =>
        let r := if 16 ≤ cfgFmt c.cfg then (fr, 0) else convert (cfgFmt c.cfg) e.fmt (cfgRM c.cfg) (cfgSat c.cfg) v
        .ok ⟨locs.zip (bytesOf (fmtWidth e.fmt / 8) r.1), r.2⟩

/-- The bytes that the elements performed store, in index order (R104). -/
def putBytes (f : Nat → Except EFault Put) (is : List Nat) : List (Nat × Byte) :=
  is.flatMap fun i => match f i with
    | .ok p => p.bytes
    | .error _ => []

/-- The flags of the elements stored. -/
def putFlags (f : Nat → Except EFault Put) (is : List Nat) : Flags :=
  is.foldl (fun a i => match f i with
    | .ok p => a ||| p.flags
    | .error _ => a) 0

/-- The lowest element among those given with a byte in a line. -/
def lowestIn (f : Nat → Except EFault Put) (line : Nat) (is : List Nat) : Option Nat :=
  is.find? fun i => match f i with
    | .ok p => p.bytes.any fun b => lineOf b.1 == line
    | .error _ => false

/-- The writes of a vector store's elements at their homes (R104, R106, R222, R402): all of them where no home refuses; else
DATA-ERROR at the lowest element of a refused line, each other line written or not. `va` gives an element's address; `past` says whether
the instruction has passed its fault point. -/
def performStores (c : Ctx) (s : State) (past : Bool) (f : Nat → Except EFault Put) (va : Nat → Nat) (is : List Nat)
    (k : State → Eff) : Eff :=
  let ws := putBytes f is
  let locs := ws.map Prod.fst
  let lines := linesOfLocs locs
  let bad := refusedLines s locs lines
  if blocked s (lines.filter fun l => isDevice (l * 128)) then waitIf past s c.progress
  else if bad.isEmpty then k (homeScatter (recallLines s lines) (dieOf s.gid) ws)
  else
    let p := drawFam (recallLines s lines)
    let l := bad.getD (p.1 0 % bad.length) 0
    let kept := lines.filter fun x => !bad.contains x && p.1 (x + 1) % 2 == 1
    let s := homeScatter p.2 (dieOf s.gid) (ws.filter fun w => kept.contains (lineOf w.1))
    .deny s 27 (word (va ((lowestIn f l is).getD 0)))

/-- A vector store (R28, R104, R106): elements below the lowest fault are performed; one past its fault point may stop where the turn
names an element. -/
def storeWith (m : KReg) (va : Ctx → State → Nat → Nat) (f : (Nat → Nat) → Ctx → State → Nat → Except EFault Put)
    (c : Ctx) (s : State) : Eff :=
  let p := drawFam s
  let g := f p.1 c s
  let is := todo c s m
  let s' := if 16 ≤ cfgFmt c.cfg then p.2 else s
  match firstFault g is with
  | none =>
    let cut := cutAt s (fun js => linesOfLocs ((putBytes g js).map Prod.fst)) is
    let now := beforeCut cut is
    performStores c s' true g (va c s) now fun t =>
      let t := orFlags t (putFlags g now)
      cut.elim (.ok t) (.wait t)
  | some (i, e) =>
    let done := is.filter fun j => decide (j < i)
    performStores c s' false g (va c s) done fun t => .trap (orFlags t (putFlags g done)) e.1 (word e.2) i

/-- addr(i) of `vm.st`, and of the stores that behave like it (R102, R107). -/
def storeAddr (c : Ctx) (s : State) (i : Nat) : Nat := addrOf c (unitBytes c s .write) i

/-- Bytes as a strand of the die reads them now (R237). -/
def rdNear (s : State) : Reader := readByte s (dieOf s.gid)

/-- Bytes as their home holds them (R247). -/
def rdHome (s : State) : Reader := homeByte s

end Sys2Proof.Machine
end

