-- ==== Sys2Proof/Machine/MemOps.lean ====
section
/-! DEFINITION. The vector loads and stores (R102 to R107, R220 to R230, R247, R249, R257, R258). -/

namespace Sys2Proof.Machine

/-- An effect with its state changed. -/
def Eff.mapState (f : State → State) : Eff → Eff
  | .ok s => .ok (f s)
  | .wait s p => .wait (f s) p
  | .hold s p => .hold (f s) p
  | .trap s c tv p => .trap (f s) c tv p

/-- The check of an index operand (R223). -/
def withIndex (b : Reg) (f : Ctx → State → Eff) (c : Ctx) (s : State) : Eff :=
  if indexOk c b then f c s else .deny s 2 (c.word.setWidth 64)

/-- Every active index (R97). -/
def activeOf (c : Ctx) (s : State) (m : KReg) : List Nat := (List.range c.vl).filter (actOf s m)

/-- `vm.ld` (R103). -/
def execVmLd (d a : Reg) (m : KReg) : State → Out :=
  runVec (.vmLd d a m) false (loadWith (near footUnit) d m (loadUnit none rdNear))

/-- `vm.lds` (R103). -/
def execVmLds (d a b : Reg) (m : KReg) : State → Out :=
  runVec (.vmLds d a b m) false (loadWith (near footStride) d m fun fr c s => loadUnit (some c.xb.toInt) rdNear fr c s)

/-- `vm.ldx` (R223, R225, R226). -/
def execVmLdx (d a b : Reg) (m : KReg) : State → Out :=
  runVec (.vmLdx d a b m) false (withIndex b (loadWith (near (footGather b)) d m (loadIndexed b rdNear)))

/-- `vm.ldff` (R227). -/
def execVmLdff (d a : Reg) (m : KReg) : State → Out :=
  runVec (.vmLdff d a m) false (loadFirstFault (near footUnit) d m (loadUnit none rdNear))

/-- `vm.ldffx` (R223, R227). -/
def execVmLdffx (d a b : Reg) (m : KReg) : State → Out :=
  runVec (.vmLdffx d a b m) false (withIndex b (loadFirstFault (near (footGather b)) d m (loadIndexed b rdNear)))

/-- The read-only buffer's line of a core, where it holds it (R228). -/
def roLine (s : State) (core line : Nat) : Option (List Byte × Clock4) :=
  (s.robuf.find? fun p => p.1 == core && p.2.1 == line).map fun p => p.2.2

/-- A byte as the read-only path returns it: from the core's buffer, else from the home (R228). -/
def rdRo (s : State) : Reader := fun loc =>
  match roLine s (coreOf s.gid) (lineOf loc) with
  | some p => p.1.getD (loc % 128) 0
  | none => homeByte s loc

/-- The clock of a line's value as the read-only path returns it (R244). -/
def roClock (s : State) (line : Nat) : Clock4 := ((roLine s (coreOf s.gid) line).map Prod.snd).getD (homeClock s line)

/-- A line placed in a core's buffer of 256 lines; while it is full, some line leaves it (R228). -/
def fillRo (core : Nat) (s : State) (line : Nat) : State :=
  if (roLine s core line).isSome then s
  else
    let mine := s.robuf.filter fun p => p.1 == core
    let p := if mine.length < 256 then (0, s) else draw s
    let out := ((mine.map fun q => q.2.1).getD (p.1 % 256) 0)
    let kept := if mine.length < 256 then p.2.robuf else p.2.robuf.filter fun q => !(q.1 == core && q.2.1 == out)
    { p.2 with robuf := (core, (line, (lineBytes s line, homeClock s line))) :: kept }

/-- The state as the read-only path of the focus strand sees it (R228): a line that its core's buffer holds meets no error at its
home. -/
def roView (s : State) : State :=
  { s with errs := s.errs.filter fun l => (roLine s (coreOf s.gid) l).isNone }

/-- A load through the read-only buffer (R228, R249): a line that the buffer holds is not asked for; missing ones are read from
their homes, or from the host or a Wale peer, and fill it. -/
def loadReadOnly (d : Reg) (m : KReg) (c : Ctx) (s : State) : Eff :=
  let g := loadUnit none rdRo (fun _ => 0) c (roView s)
  let lines := allLines g (belowFault g (todo c s m))
  let missing := lines.filter fun l => (roLine s (coreOf s.gid) l).isNone
  let dev := missing.filter fun l => isDevice (l * 128)
  if blocked s dev then waitIf (clears (fun s => loadUnit none rdRo (fun _ => 0) c (roView s)) (todo c s m) s) s c.progress
  else
    let s := recallLines s missing
    (loadWith ⟨true, false, roClock, fun _ _ _ => none⟩ d m (loadUnit none rdRo) c (roView s)).mapState fun t =>
      let t := { t with errs := s.errs }
      let t := match footUnit c s lines with
        | some F => dev.foldl (useLine true F) t
        | none => t
      missing.foldl (fillRo (coreOf s.gid)) t

/-- `vm.ldnc` (R228). -/
def execVmLdnc (d a : Reg) (m : KReg) : State → Out := runVec (.vmLdnc d a m) false (loadReadOnly d m)

/-- The ticket returned to the sequence counter by the strand that holds it (R229). -/
def returnTicket (s : State) : State := if s.scOut = some s.gid then { s with scOut := none } else s

/-- A sequentially consistent access (R226, R229): alignment first; it waits while another strand holds the ticket; each element performed
draws one ticket and returns it. With a ticket that is already drawn it performs that one element. -/
def seqCst (cause : Nat) (m : KReg) (va : Ctx → State → Nat → Nat) (f : Ctx → State → Eff × Nat) (c : Ctx) (s : State) : Eff :=
  match (activeOf c s m).find? fun i => decide (va c s i % (c.w / 8) ≠ 0) with
  | some i => .deny (returnTicket s) cause (word (va c s i))
  | none =>
    let r := f c s
    if r.2 ≠ 0 ∧ s.scOut.any (fun g => g != s.gid) then .wait s c.progress
    else
      let drawn := if s.scOut = some s.gid then r.2 - 1 else r.2
      let done := fun t : State => returnTicket { t with scTicket := t.scTicket + BitVec.ofNat 64 drawn }
      match r.1 with
      | .wait t p => .wait (if p = c.progress then t else done t) p
      | .hold t p => .hold t p
      | e => e.mapState done

/-- Where a sequentially consistent access stops (R229): a strand that holds the ticket performs one element. -/
def oneElement (s : State) (is : List Nat) : Option Nat := if s.scOut = some s.gid then is.tail.head? else none

/-- The elements of a sequentially consistent load (R229), and how many of them are performed. -/
def loadSeq (d : Reg) (m : KReg) (c : Ctx) (s : State) : Eff × Nat :=
  let g := loadUnit none rdHome (fun _ => 0) c s
  let is := todo c s m
  (loadUpTo (fun s _ is => oneElement s is) (atHome footUnit) d m (loadUnit none rdHome) c s,
    (belowFault g (beforeCut (if (firstFault g is).isNone then oneElement s is else none) is)).length)

/-- `vm.ldsc` (R226, R229, R247). -/
def execVmLdsc (d a : Reg) (m : KReg) : State → Out :=
  runVec (.vmLdsc d a m) false (seqCst 4 m (fun c s i => addrOf c (unitBytes c s .read) i) (loadSeq d m))

/-- What a page of an element raises that needs plain bytes on every page it touches (R230, R257): FORMAT where an FAI is not 0. -/
def faiFault (c : Ctx) (s : State) (acc : Acc) (va n : Nat) : Option Nat :=
  let page := fun a => match fmtAt c s acc a with
    | .error e => some e
    | .ok (_, p) => if p.fai ≠ 0 then some 26 else none
  page va <|> page ((va + (n - 1)) % 2 ^ 64)

/-- Where an element of a masked multicast read lies (R230): a page with a format raises FORMAT with x[a]. -/
def locMulticast (c : Ctx) (s : State) (i : Nat) : Except EFault Got :=
  let va := addrOf c (c.w / 8) i
  match faiFault c s .read va (c.w / 8), vLocs c s .read va (c.w / 8) with
  | some 26, _ => .error (26, c.xa.toNat)
  | some e, _ => .error (e, va)
  | none, .error e => .error (e, va)
  | none, .ok locs => .ok ⟨0, 0, locs⟩

/-- An element of a masked multicast read, from the replies. -/
def loadMulticast (rd : Reader) (c : Ctx) (s : State) (i : Nat) : Except EFault Got :=
  match locMulticast c s i with
  | .error e => .error e
  | .ok g => gather s rd (addrOf c (c.w / 8) i) g.locs fun bs => (ofBytes bs, 0)

/-- The record in which a strand's multicast read holds a line, once its reply has come (R211). -/
def mcRecord (s : State) (line : Nat) : Option Record :=
  s.records.find? fun r => r.multicast && r.gid == s.gid && r.line == line && r.delivered

/-- The clock of a line's value in the strand's multicast record (R244). -/
def mcClock (s : State) (line : Nat) : Clock4 := ((mcRecord s line).map fun r => r.clock).getD Clock4.zero

/-- A byte of a line that a multicast record holds, else of the host or a Wale peer. -/
def rdMc (s : State) : Reader := fun loc =>
  match mcRecord s (lineOf loc) with
  | some r => r.bytes.getD (loc % 128) 0
  | none => homeByte s loc

/-- The multicast reads of lines asked for (R211, R230): one request for each line whose record is not reserved yet; replies
that are on the wire land. -/
def askLines (mask : BitVec 16) (lines : List Nat) (s : State) : State :=
  let asked := lines.filter fun l => !(s.records.any fun r => r.multicast && r.gid == s.gid && r.line == l)
  let s := asked.foldl (fun s l => multicastRequest s s.gid l mask) s
  lines.foldl (fun s l => landMulticast s l (clusterOf s.gid)) s

/-- The strand's multicast records of lines given up. -/
def dropMc (lines : List Nat) (s : State) : State :=
  { s with records := s.records.filter fun r => !(r.multicast && r.gid == s.gid && lines.contains r.line) }

/-- A masked multicast read (R230): the lines that hold an element to be performed are asked for, and each gives the value of its
reply. -/
def multicast (d : Reg) (m : KReg) (c : Ctx) (s : State) : Eff :=
  if decide (c.xa.toNat % 128 ≠ 0) && !(activeOf c s m).isEmpty then .deny s 4 c.xa
  else
    let g := locMulticast c s
    let lines := gotLines g (belowFault g (todo c s m))
    let past := (firstFault g (todo c s m)).isNone
    let s := askLines (c.xb.setWidth 16) lines s
    if !(lines.all fun l => (mcRecord s l).isSome) then waitIf past s c.progress
    else
      let errs := (s.errs.filter fun l => !lines.contains l) ++ lines.filter fun l => (mcRecord s l).any fun r => r.failed
      (loadWith ⟨true, false, mcClock, footLines⟩ d m (fun _ c s => loadMulticast (rdMc s) c s) c { s with errs := errs }).mapState fun t =>
        dropMc lines { t with errs := s.errs }

/-- `vm.ldmc` (R230). -/
def execVmLdmc (d a b : Reg) (m : KReg) : State → Out := runVec (.vmLdmc d a b m) false (multicast d m)

/-- `vm.ldraw` (R226). -/
def execVmLdraw (d a : Reg) (m : KReg) : State → Out :=
  runVec (.vmLdraw d a m) false (loadWith (near fun c _ _ => some (c.vl * (c.w / 8))) d m fun _ c s i =>
    rawLoad c s (rdNear s) (addrOf c (c.w / 8) i))

/-- The store of an element of a register. -/
def putElem (va : Ctx → State → Nat → Nat) (d : Reg) (fr : Nat → Nat) (c : Ctx) (s : State) (i : Nat) : Except EFault Put :=
  plainStore c s (fr i) (vElem c s d i) (va c s i)

/-- `vm.st` (R104). -/
def execVmSt (d a : Reg) (m : KReg) : State → Out := runVec (.vmSt d a m) false (storeWith m storeAddr (putElem storeAddr d))

/-- addr(i) of `vm.sts` (R102). -/
def strideAddr (c : Ctx) (_ : State) (i : Nat) : Nat := addrUnit c c.xb.toInt i

/-- `vm.sts` (R104). -/
def execVmSts (d a b : Reg) (m : KReg) : State → Out :=
  runVec (.vmSts d a b m) false (storeWith m strideAddr (putElem strideAddr d))

/-- addr(i) of a scatter (R223). -/
def scatterAddr (b : Reg) (c : Ctx) (s : State) (i : Nat) : Nat := addrIndexed c s b i

/-- `vm.stx` (R223, R225, R226). -/
def execVmStx (d a b : Reg) (m : KReg) : State → Out :=
  runVec (.vmStx d a b m) false (withIndex b (storeWith m (scatterAddr b) (putElem (scatterAddr b) d)))

/-- The elements of a sequentially consistent store performed one at a time in index order, each a write of its own (R229): the
state, those performed, and the first that its home refuses (R402). -/
def storeEach (f : Nat → Except EFault Put) : List Nat → State → State × List Nat × Option Nat
  | [], s => (s, [], none)
  | i :: r, s =>
    let ws := putBytes f [i]
    let lines := linesOfLocs (ws.map Prod.fst)
    if !(refusedLines s (ws.map Prod.fst) lines).isEmpty then (s, [], some i)
    else
      let t := storeEach f r (homeScatter (recallLines s lines) (dieOf s.gid) ws)
      (t.1, i :: t.2.1, t.2.2)

/-- A sequentially consistent store (R229), and how many of its elements draw a ticket. -/
def storeSeq (d : Reg) (m : KReg) (c : Ctx) (s : State) : Eff × Nat :=
  let p := drawFam s
  let g := putElem storeAddr d p.1 c s
  let is := todo c s m
  let fault := firstFault g is
  let cut := if fault.isNone then oneElement s is else none
  let done := belowFault g (beforeCut cut is)
  let s' := if 16 ≤ cfgFmt c.cfg then p.2 else s
  if blocked s ((linesOfLocs ((putBytes g done).map Prod.fst)).filter fun l => isDevice (l * 128)) then
    (waitIf fault.isNone s c.progress, 0)
  else
    let r := storeEach g done s'
    let t := orFlags r.1 (putFlags g r.2.1)
    match r.2.2, fault, cut with
    | some i, _, _ => (.deny t 27 (word (storeAddr c s i)), r.2.1.length + 1)
    | none, some (i, e), _ => (.trap t e.1 (word e.2) i, r.2.1.length)
    | none, none, some u => (.wait t u, r.2.1.length)
    | none, none, none => (.ok t, r.2.1.length)

/-- `vm.stsc` (R226, R229, R247). -/
def execVmStsc (d a : Reg) (m : KReg) : State → Out :=
  runVec (.vmStsc d a m) false (seqCst 6 m storeAddr (storeSeq d m))

/-- `vm.straw` (R226). -/
def execVmStraw (d a : Reg) (m : KReg) : State → Out :=
  runVec (.vmStraw d a m) false (storeWith m rawAddr fun _ c s i => rawStore c s (vElem c s d i) (rawAddr c s i))

/-- A link set or refreshed at the line's home; the least recently set of 256 entries is replaced (R257). -/
def setLink (s : State) (line : Nat) : State :=
  onSlice s (homeSlice line) fun k =>
    let rest := k.links.filter fun l => !(l.line == line && l.gid == s.gid)
    { k with links := (if 256 ≤ rest.length then rest.drop 1 else rest) ++ [⟨line, s.gid, s.t.gen⟩] }

/-- An element of a linked gather (R257). -/
def loadLinked (b : Reg) (c : Ctx) (s : State) (i : Nat) : Except EFault Got :=
  let va := addrIndexed c s b i
  match faiFault c s .read va (c.w / 8) with
  | some e => .error (e, va)
  | none => rawLoad c s (rdHome s) va

/-- A linked gather (R257): every device line it reads is linked. -/
def linkedGather (d b : Reg) (m : KReg) (c : Ctx) (s : State) : Eff :=
  let g := loadLinked b c s
  let lines := gotLines g (belowFault g (todo c s m))
  match loadWith (atHome (footGather b)) d m (fun _ c s => loadLinked b c s) c s with
  | .wait t p => .wait (if p = c.progress then t else (gotLines g ((todo c s m).filter fun i => decide (i < p))).foldl setLink t) p
  | .hold t p => .hold t p
  | e => e.mapState fun t => lines.foldl setLink t

/-- The strand's generation advanced where a push takes place (R257). -/
def advanceAtPush (s : State) : State :=
  if s.t.replay.isNone && decide (s.t.queue.length < 64) then { s with t := { s.t with gen := s.t.gen + 1 } } else s

/-- `vm.ldgl` (R257). -/
def execVmLdgl (d a b : Reg) (m : KReg) (s : State) : Out :=
  runVec (.vmLdgl d a b m) false (withIndex b (linkedGather d b m)) (advanceAtPush s)

/-- An element of a conditional scatter at the fault point (R258). -/
def putLinked (d b : Reg) (c : Ctx) (s : State) (i : Nat) : Except EFault Put :=
  let va := addrIndexed c s b i
  if va % (c.w / 8) ≠ 0 then .error (6, va)
  else
    match fmtAt c s .write va with
    | .error e => .error (e, va)
    | .ok (_, p) => if p.fai ≠ 0 then .error (26, va) else rawStore c s (vElem c s d i) va

/-- The line an element of a conditional scatter writes. -/
def putLine? (f : Nat → Except EFault Put) (i : Nat) : Nat :=
  match f i with
  | .ok p => lineOf ((p.bytes.headD (0, 0)).1)
  | .error _ => 0

/-- The line in which an element of a conditional scatter lies, aligned or not. -/
def linkedLine (b : Reg) (c : Ctx) (s : State) (i : Nat) : Option Nat :=
  ((locate s (coreOf s.gid) c.xl .write (addrIndexed c s b i)).toOption).map fun p => lineOf p.1

/-- Whether the strand's link of generation g on a line holds at its home (R257, R258). -/
def linkHolds (s : State) (g : BitVec 16) (line : Nat) : Bool :=
  isDevice (line * 128) && (sliceAt s (homeSlice line)).links.any fun l =>
    l.line == line && l.gid == s.gid && l.gen == g

/-- The progress of a conditional scatter: the elements of decided lines, and those among them that succeeded. -/
def decidedOf (p : Nat) (i : Nat) : Bool := bits p (4096 + i) 1 == 1
/-- Whether a decided element succeeded. -/
def successOf (p : Nat) (i : Nat) : Bool := bits p i 1 == 1
/-- The progress word from the two sets. -/
def decidedWord (dec suc : Nat → Bool) (vl : Nat) : Nat :=
  packNat 1 (fun i => if suc i then 1 else 0) vl + packNat 1 (fun i => if dec i then 1 else 0) vl * 2 ^ 4096

/-- A conditional scatter (R258). A line is decided by its link; an element of a line decided before a restore keeps its bit.
At VECTOR-PAGE-FAULT each line wholly below the fault is decided or not. -/
def conditionalScatter (d b : Reg) (m : KReg) (c : Ctx) (s : State) : Eff :=
  let g := putLinked d b c s
  let p0 := c.progress
  let act := activeOf c s m
  let is := act.filter fun i => !decidedOf p0 i
  let km := srcK s m
  let lines := linesOfLocs ((putBytes g (belowFault g is)).map Prod.fst)
  let past := (firstFault g is).isNone
  if blocked s (lines.filter fun l => isDevice (l * 128)) then waitIf past s c.progress
  else
  let s := recallLines s lines
  match firstFault g is with
  | none =>
    let won := is.filter fun i => linkHolds s c.gen (putLine? g i)
    performStores c s past g (scatterAddr b c s) won fun t =>
      .ok (setK t m (packK (fun i => km.getLsbD i && (if decidedOf p0 i then successOf p0 i else won.contains i)) c.vl))
  | some (i, e) =>
    if e.1 ≠ 25 then .deny s e.1 (word e.2)
    else
      let fam := drawFam s
      let high := is.filter fun j => decide (i ≤ j)
      let whole := fun j => !(high.any fun h => (linkedLine b c s h) == some (putLine? g j))
      let now := is.filter fun j => decide (j < i) && whole j && fam.1 (putLine? g j) % 2 == 1
      let won := now.filter fun j => linkHolds s c.gen (putLine? g j)
      let dec := fun j => decidedOf p0 j || now.contains j
      let suc := fun j => if decidedOf p0 j then successOf p0 j else won.contains j
      performStores c fam.2 past g (scatterAddr b c s) won fun t =>
        .trap (setK t m (packK (fun j => act.contains j && (!dec j || suc j)) c.vl)) 25 (word e.2) (decidedWord dec suc c.vl)

/-- `vm.stcx` (R258). -/
def execVmStcx (d a b : Reg) (m : KReg) : State → Out :=
  runVec (.vmStcx d a b m) false (withIndex b (conditionalScatter d b m))

end Sys2Proof.Machine
end

