-- ==== Sys2Proof/Machine/Matrix.lean ====
section
/-! DEFINITION. The matrix unit's arithmetic: operand placement, blocks of 32 products, sparse and grouped-quantised
terms, compression (R159, R160, R271 to R293). -/

namespace Sys2Proof.Machine

/-- Element `idx` of a register group read as one sequence at width w (R272). -/
def groupElem (w : Nat) (regs : Nat → VBits) (idx : Nat) : Nat :=
  elem w (regs (idx / (32768 / w))) (idx % (32768 / w))

/-- A power of two not below n, for 1 ≤ n ≤ 8 (R272). -/
def ceilPow2 (n : Nat) : Nat := if n ≤ 1 then 1 else if n ≤ 2 then 2 else if n ≤ 4 then 4 else 8

/-- One exact term of a block, with the NV it brings: a signalling input, or a zero factor with an infinite one (R159, R280). -/
def exactTerm (neg : Bool) (fs : List FVal) : FVal × Flags :=
  let p := fs.foldl (fun a f => (fmulExact a f).1) (.fin false 1 0 false)
  let isZ : FVal → Bool := fun v => match v with
    | .zero _ => true
    | _ => false
  let isI : FVal → Bool := fun v => match v with
    | .inf _ => true
    | _ => false
  (if neg then p.neg else p, sigFlag fs ||| flagIf (fs.any isZ && fs.any isI) flagNV)

/-- The finite terms among a block's terms. -/
def finTerms (ps : List FVal) : List (Bool × Nat × Int) :=
  ps.filterMap fun p => match p with
    | .fin s m e _ => some (s, m, e)
    | _ => none

/-- The largest ⌊log2⌋ of a list of finite values; the head's where there is one. -/
def maxLog : List (Bool × Nat × Int) → Int
  | [] => 0
  | [(_, m, e)] => floorLog m e
  | (_, m, e) :: r => max (floorLog m e) (maxLog r)

/-- The aligned magnitude ⌊|p| / 2^lo⌋ and whether bits fell below it (R159). -/
def alignTo (lo : Int) (m : Nat) (e : Int) : Nat × Bool :=
  if lo ≤ e then (m * 2 ^ (e - lo).toNat, false)
  else (m / 2 ^ (lo - e).toNat, decide (m % 2 ^ (lo - e).toNat ≠ 0))

/-- The block sum of R159 over exact terms. -/
def blockSum (ts : List (FVal × Flags)) : Nat × Flags :=
  let ps := ts.map Prod.fst
  let nv := ts.foldl (fun a t => a ||| t.2) 0
  let hasInf : Bool → Bool := fun s => ps.any fun p => decide (p = .inf s)
  let clash := hasInf false && hasInf true
  if ps.any FVal.isNan || clash then (fp32.nanPat, nv ||| flagIf clash flagNV)
  else if hasInf false then (fp32.infPat, nv)
  else if hasInf true then (fp32.signPat true + fp32.infPat, nv)
  else
    let fs := finTerms ps
    if fs.isEmpty then (fp32.signPat (!ps.isEmpty && ps.all fun p => decide (p = .zero true)), nv)
    else
      let lo := maxLog fs - 47
      let al := fs.map fun t => (t.1, alignTo lo t.2.1 t.2.2)
      let S : Int := (al.map fun t => if t.1 then -((t.2.1 : Nat) : Int) else ((t.2.1 : Nat) : Int)).sum
      let sticky := al.any fun t => t.2.2
      if S = 0 then (0, nv ||| flagIf sticky flagNX)
      else
        let (r, f) := fpRound fp32 .rne false (.fin (decide (S < 0)) S.natAbs lo sticky)
        (r, nv ||| f)

/-- The blocks of LAM = 1 over K indices from 0: 32 at a time, ascending (R160). -/
def exactBlocks (K : Nat) : List (Nat × Nat) :=
  (List.range (ceilDiv K 32)).map fun b => (32 * b, Nat.min 32 (K - 32 * b))

/-- The blocks of LAM = 1 among K indices `lo` to `hi - 1`, `lo` a multiple of 32 (R160). -/
def exactSpan (lo hi : Nat) : List (Nat × Nat) := (exactBlocks (hi - lo)).map fun b => (lo + b.1, b.2)

/-- Free block boundaries of LAM = 0 (R160): each block's length, 1 to 32, from a free number, and no block across a
multiple of `g` (R279; `g = 0`: no such bound); fuel bounds the count. -/
def freeCuts (pick : Nat → Nat) (g : Nat) : Nat → Nat → Nat → List (Nat × Nat)
  | 0, _, _ => []
  | n + 1, k, K =>
    if K ≤ k then [] else
      let l := Nat.min (pick n % 32 + 1) (K - k)
      let l := if g = 0 then l else Nat.min l (g - k % g)
      (k, l) :: freeCuts pick g n (k + l) K

/-- A free order of a list, each next member picked by a free number (R160). -/
def freeOrder (pick : Nat → Nat) : Nat → List (Nat × Nat) → List (Nat × Nat)
  | 0, xs => xs
  | n + 1, xs =>
    if xs.isEmpty then [] else
      let i := pick n % xs.length
      xs.getD i (0, 0) :: freeOrder pick n (xs.eraseIdx i)

/-- The blocks a product uses over K indices `lo` to `hi - 1`: R160's for LAM = 1, free ones for LAM = 0. -/
def blocksOf (lam : Bool) (pick : Nat → Nat) (g lo hi : Nat) : List (Nat × Nat) :=
  if lam then exactSpan lo hi
  else freeOrder (fun n => pick (2 * n + 1)) (hi - lo) (freeCuts (fun n => pick (2 * n)) g (hi - lo) lo hi)

/-- One accumulator element: block sums of the terms added to C in the order of the blocks (R160). -/
def accumulate (terms : Nat → List (FVal × Flags)) : List (Nat × Nat) → Nat → Nat × Flags
  | [], c => (c, 0)
  | (k, l) :: r, c =>
    let (s, f) := blockSum ((List.range l).flatMap fun i => terms (k + i))
    let (c', g) := fop2 fp32 .rne false .fadd c s
    let (c'', h) := accumulate terms r c'
    (c'', f ||| g ||| h)

/-- The product of two patterns of one format as a block term. -/
def prodTerm (F : FpFmt) (a b : Nat) : FVal × Flags := exactTerm false [fpDecode F a, fpDecode F b]

/-- One row of a tile product: element n < vl of the new C row (R273); `terms k n` are the exact terms of one K index
(one product, or the two of R280), `blocks n` the blocks of that element. -/
def tileRow (blocks : Nat → List (Nat × Nat)) (vl : Nat) (c : VBits) (terms : Nat → Nat → List (FVal × Flags)) :
    VBits × Flags :=
  let r : Nat → Nat × Flags := fun n => accumulate (fun k => terms k n) (blocks n) (elem 32 c n)
  (packV 32 (fun n => (r n).1) vl, flagsTo (fun n => (r n).2) vl)

/-- VAL of a slot (R274). -/
def slotVal (w slot : Nat) : Nat := bits slot 16 w

/-- The decompressed B[k][n] (R275): VAL of the lowest slot of the group with that IDX, or +0. -/
def sparseB (w N vl : Nat) (regs : Nat → VBits) (k n : Nat) : Nat :=
  let j := k / 8
  let slot : Nat → Nat := fun s => groupElem 32 regs ((j * N + s) * vl + n)
  match firstTo (fun s => bits (slot s) 0 3 == k % 8) N with
  | some s => slotVal w (slot s)
  | none => 0

/-- The rank of a magnitude in `vx.mcomp` (R293): NaNs above every number, else by absolute value. -/
def magRank (F : FpFmt) (x : Nat) : Nat :=
  if (fpDecode F x).isNan then 2 ^ F.w else bits x 0 (F.w - 1)

/-- Insertion into a list by descending rank, equal ranks to the lower position first. -/
def insertRank (rk : Nat → Nat) (p : Nat) : List Nat → List Nat
  | [] => [p]
  | q :: r => if rk q < rk p then p :: q :: r else q :: insertRank rk p r

/-- The kept positions of one group in ascending IDX (R293). -/
def keptPositions (F : FpFmt) (N : Nat) (vals : List Nat) : List Nat :=
  let order := (List.range vals.length).foldl (fun acc p => insertRank (fun q => magRank F (vals.getD q 0)) p acc) []
  let kept := order.take (Nat.min N vals.length)
  (List.range vals.length).filter fun p => kept.contains p

/-- Slot s of a group of `vx.mcomp` (R293, R276): the kept value and its position, or +0 at a padding index. -/
def compSlot (F : FpFmt) (N : Nat) (vals : List Nat) (s : Nat) : Nat :=
  let kept := keptPositions F N vals
  match kept[s]? with
  | some p => vals.getD p 0 % 2 ^ F.w * 2 ^ 16 + p
  | none => vals.length + (s - kept.length)

/-- Element e of the compressed group of `vx.mcomp`: column e mod VL, slot number e div VL (R274, R293). -/
def compElem (F : FpFmt) (N K vl : Nat) (b : Nat → Nat → Nat) (e : Nat) : Nat :=
  let n := e % vl
  let js := e / vl
  let j := js / N
  let vals := (List.range (Nat.min 8 (K - 8 * j))).map fun p => b (8 * j + p) n
  compSlot F N vals (js % N)

/-- The two terms of a grouped-quantised weight (R280). -/
def quantTerms (F : FpFmt) (scale : Nat) (zp : Int) (q : Nat) (a : Nat) : List (FVal × Flags) :=
  let S := fpDecode fp16 scale
  let A := fpDecode F a
  [exactTerm false [S, FVal.ofInt q, A], exactTerm true [S, FVal.ofInt zp, A]]

end Sys2Proof.Machine
end

