-- ==== Sys2Proof/Machine/AtomicOps.lean ====
section
/-! DEFINITION. The vector atomics and the updates at the bank ALUs (R231, R252 to R256). -/

namespace Sys2Proof.Machine

/-- The operations of the AMO group (R254). -/
inductive VAmo where
  | add | fadd | min | max | minu | maxu | and | or | xor | swap | cas
  deriving DecidableEq, Repr

/-- OP(M, V) at width w, with N for `amocas`, and its flags (R254). -/
def vamo (op : VAmo) (fmt : Nat) (md : RMode) (w M V N : Nat) : Nat × Flags :=
  match op with
  | .add => ((M + V) % 2 ^ w, 0)
  | .fadd => match fpFmt fmt with
    | some F => fop2 F md false .fadd M V
    | none => (0, 0)
  | .min => (if sgn w M ≤ sgn w V then M else V, 0)
  | .max => (if sgn w M ≤ sgn w V then V else M, 0)
  | .minu => (if M ≤ V then M else V, 0)
  | .maxu => (if M ≤ V then V else M, 0)
  | .and => (M &&& V, 0)
  | .or => (M ||| V, 0)
  | .xor => (M ^^^ V, 0)
  | .swap => (V, 0)
  | .cas => (if M = V then N else M, 0)

/-- The operand check of R252. -/
def amoCheck (op : VAmo) (b : Reg) (f : Ctx → State → Eff) (c : Ctx) (s : State) : Eff :=
  let fmt := cfgFmt c.cfg
  let ok := (op != .fadd && [2, 3, 4, 5].contains fmt) || [10, 11, 12].contains fmt
  if ok && indexOk c b then f c s else .deny s 2 (c.word.setWidth 64)

/-- What the read of a page's Format Table entry raises for an atomic, which ignores the entry itself (R147, R148). -/
def tableFault (s : State) (xl : Xlate) (p : Page) : Option Nat :=
  match pageFormat s xl.fmtb p with
  | .access => some 7
  | .dataErr => some 27
  | .plain | .format _ | .invalid => none

/-- The location of an atomic's element, or the first condition it meets (R253). -/
def amoLoc (c : Ctx) (s : State) (va : Nat) : Except EFault Nat :=
  if va % (c.w / 8) ≠ 0 then .error (6, va)
  else
    match translate s (coreOf s.gid) c.xl .write va with
    | .error .page => .error (25, va)
    | .error .dataErr => .error (27, va)
    | .error .access => .error (7, va)
    | .ok p =>
      match tableFault s c.xl p, locOf s p.pa with
      | some e, _ => .error (e, va)
      | none, none => .error (7, va)
      | none, some loc => if placeOf loc = .host then .error (7, va) else .ok loc

/-- What the sequential loop of R253 gives: memory as its elements leave it, each element's old value and the writes, in index order,
and the flags. -/
structure AmoRun where
  mem : State
  olds : List (Nat × Nat)
  writes : List (Nat × Byte)
  flags : Flags

/-- One element of the loop of R253: OP applied to what the elements before it left. -/
def amoStep (n : Nat) (op : Nat → Nat → Nat × Flags) (r : AmoRun) (e : Nat × Nat) : AmoRun :=
  let old := homeNat r.mem e.2 n
  let q := op e.1 old
  let bs := bytesOf n q.1
  let ws := (List.range n).zip bs |>.map fun p => (e.2 + p.1, p.2)
  ⟨pokeBytes r.mem e.2 bs, r.olds ++ [(e.1, old)], r.writes ++ ws, r.flags ||| q.2⟩

/-- The loop of R253 over elements with their locations. -/
def amoRun (s : State) (n : Nat) (op : Nat → Nat → Nat × Flags) (es : List (Nat × Nat)) : AmoRun :=
  es.foldl (amoStep n op) ⟨s, [], [], 0⟩

/-- The strand's line locks released (R253). -/
def unlock (s : State) : State := dropLocks s s.gid

/-- Whether a line among those given is locked by another strand's vector atomic. -/
def lockedByOther (s : State) (lines : List Nat) : Bool :=
  lines.any fun l => (sliceAt s (homeSlice l)).locks.any fun p => p.1 == l && p.2 != s.gid

/-- Whether every way of a line's set in its home slice holds a locked line (R255); a Basket line always has room. -/
def waysLocked (s : State) (line : Nat) : Bool :=
  let sl := homeSlice line
  decide (line * 128 < bskLoc) &&
    decide (cacheWays s sl ≤ ((sliceAt s sl).locks.filter fun p => setOf p.1 == setOf line && decide (p.1 * 128 < bskLoc)).length)

/-- Whether a strand's lock request was answered NACK (R255). -/
def lockNacked (s : State) : Bool :=
  s.wire.any fun w => match w with
    | .lockReply g _ granted => g == s.gid && !granted
    | _ => false

/-- The wire without that answer. -/
def dropNack (s : State) : State :=
  { s with wire := s.wire.filter fun w => match w with
    | .lockReply g _ granted => !(g == s.gid && !granted)
    | _ => true }

/-- Whether a lock of an atomic's lines is refused (R255): a NACK is on its way, or every way of a line's set holds a locked line that the
strand has not locked. -/
def lockRefused (s : State) (lines : List Nat) : Bool :=
  lockNacked s || lines.any fun l => !s.t.locks.contains l && waysLocked s l

/-- Elements with the locations that the fault point found. -/
def located (f : Nat → Except EFault Nat) (is : List Nat) : List (Nat × Nat) :=
  is.filterMap fun i => match f i with
    | .ok l => some (i, l)
    | .error _ => none

/-- A vector atomic (R253): nothing is performed on any fault; AMOR returns the old values in vs3. -/
def vectorAtomic (op : VAmo) (ret : Bool) (d b : Reg) (m : KReg) : Ctx → State → Eff :=
  amoCheck op b fun c s =>
    let f := fun i => amoLoc c s (addrIndexed c s b i)
    let is := activeOf c s m
    match firstFault f is with
    | some (_, e) => .deny (unlock s) e.1 (word e.2)
    | none =>
      let es := located f is
      let lines := (linesOfLocs (es.map Prod.snd)).filter fun l => isDevice (l * 128)
      if lockedByOther s lines then .wait s 0
      else if lockRefused s lines then .wait (unlock (dropNack s)) 0
      else
        let s := recallLines s lines
        match es.find? fun e => s.errs.contains (lineOf e.2) with
        | some e => .deny (unlock s) 27 (word (addrIndexed c s b e.1))
        | none =>
          let r := amoRun s (c.w / 8) (fun i M => vamo op (cfgFmt c.cfg) (cfgRM c.cfg) c.w M (vElem c s d i)
            (elem c.w (srcV s (d.toNat + 1)).bits i)) es
          let t := unlock (homeScatter s (dieOf s.gid) r.writes)
          let t := if ret then
              putDense c (catchUp (noteRead t (homeClock s) lines) (dieOf s.gid) lines) d (elemBits c s d m fun i => ((r.olds.find? fun p => p.1 == i).map Prod.snd).getD 0)
            else t
          .ok (orFlags t r.flags)

/-- The operations of the UPD group (R231). -/
inductive VUpd where
  | add | fadd | min | max | fmax | fmin
  deriving DecidableEq, Repr

/-- Whether an operation is an FP one. -/
def VUpd.isFp : VUpd → Bool
  | .fadd | .fmax | .fmin => true
  | .add | .min | .max => false

/-- OP(M, V) with its flags (R231). -/
def vupd (op : VUpd) (fmt : Nat) (md : RMode) (w M V : Nat) : Nat × Flags :=
  match op with
  | .add => ((M + V) % 2 ^ w, 0)
  | .min => (if sgn w M ≤ sgn w V then M else V, 0)
  | .max => (if sgn w M ≤ sgn w V then V else M, 0)
  | .fadd => match fpFmt fmt with
    | some F => fop2 F md false .fadd M V
    | none => (0, 0)
  | .fmax => match fpFmt fmt with
    | some F => fminmax F true M V
    | none => (0, 0)
  | .fmin => match fpFmt fmt with
    | some F => fminmax F false M V
    | none => (0, 0)

/-- The location of an update's element; a formatted page is FORMAT (R231). -/
def updLoc (c : Ctx) (s : State) (i : Nat) : Except EFault Nat :=
  let va := rawAddr c s i
  match fmtAt c s .write va with
  | .error e => .error (e, va)
  | .ok (_, p) =>
    if p.fai ≠ 0 then .error (26, va)
    else
      match locOf s p.pa with
      | none => .error (7, va)
      | some loc => .ok loc

/-- An update (R231): every line touched is read and written at its bank ALU as one write; elements below a fault are
performed (R28). -/
def update (op : VUpd) (d : Reg) (m : KReg) (c : Ctx) (s : State) : Eff :=
  let is := todo c s m
  if op.isFp && !([10, 11, 12].contains (cfgFmt c.cfg)) then .deny s 2 (c.word.setWidth 64)
  else if !(activeOf c s m).isEmpty && decide (c.xa.toNat % (c.w / 8) ≠ 0) then .deny s 6 c.xa
  else
    let f := updLoc c s
    let done := belowFault f is
    let s := if blocked s ((linesOfLocs ((located f done).map Prod.snd)).filter fun l => isDevice (l * 128)) then s
      else recallLines s (linesOfLocs ((located f done).map Prod.snd))
    let r := amoRun s (c.w / 8) (fun i M => vupd op (cfgFmt c.cfg) (cfgRM c.cfg) c.w M (vElem c s d i)) (located f done)
    let at' : Nat → Except EFault Put := fun i =>
      match f i with
      | .error e => .error e
      | .ok loc => .ok ⟨r.writes.filter fun p => decide (loc ≤ p.1) && decide (p.1 < loc + c.w / 8), 0⟩
    let bad := (linesOfLocs ((located f done).map Prod.snd)).filter fun l => s.errs.contains l
    match done.find? fun i => match f i with
        | .ok loc => bad.contains (lineOf loc)
        | .error _ => false with
    | some i =>
      let p := drawFam s
      let kept := (linesOfLocs (r.writes.map Prod.fst)).filter fun x => !bad.contains x && p.1 (x + 1) % 2 == 1
      let s := homeScatter p.2 (dieOf s.gid) (r.writes.filter fun w => kept.contains (lineOf w.1))
      .deny s 27 (word (rawAddr c s i))
    | none =>
      performStores c s (firstFault f is).isNone at' (rawAddr c s) done fun t =>
        let t := orFlags t r.flags
        match firstFault f is with
        | none => .ok t
        | some (i, e) => .trap t e.1 (word e.2) i

/-- `vm.amoadd` (R252 to R254). -/
def execVmAmoadd (d : Reg) (a b : Reg) (m : KReg) : State → Out :=
  runVec (.vmAmoadd d a b m) false (vectorAtomic .add false d b m)

/-- `vm.amofadd` (R252 to R254). -/
def execVmAmofadd (d : Reg) (a b : Reg) (m : KReg) : State → Out :=
  runVec (.vmAmofadd d a b m) false (vectorAtomic .fadd false d b m)

/-- `vm.amomin` (R252 to R254). -/
def execVmAmomin (d : Reg) (a b : Reg) (m : KReg) : State → Out :=
  runVec (.vmAmomin d a b m) false (vectorAtomic .min false d b m)

/-- `vm.amomax` (R252 to R254). -/
def execVmAmomax (d : Reg) (a b : Reg) (m : KReg) : State → Out :=
  runVec (.vmAmomax d a b m) false (vectorAtomic .max false d b m)

/-- `vm.amominu` (R252 to R254). -/
def execVmAmominu (d : Reg) (a b : Reg) (m : KReg) : State → Out :=
  runVec (.vmAmominu d a b m) false (vectorAtomic .minu false d b m)

/-- `vm.amomaxu` (R252 to R254). -/
def execVmAmomaxu (d : Reg) (a b : Reg) (m : KReg) : State → Out :=
  runVec (.vmAmomaxu d a b m) false (vectorAtomic .maxu false d b m)

/-- `vm.amoand` (R252 to R254). -/
def execVmAmoand (d : Reg) (a b : Reg) (m : KReg) : State → Out :=
  runVec (.vmAmoand d a b m) false (vectorAtomic .and false d b m)

/-- `vm.amoor` (R252 to R254). -/
def execVmAmoor (d : Reg) (a b : Reg) (m : KReg) : State → Out :=
  runVec (.vmAmoor d a b m) false (vectorAtomic .or false d b m)

/-- `vm.amoxor` (R252 to R254). -/
def execVmAmoxor (d : Reg) (a b : Reg) (m : KReg) : State → Out :=
  runVec (.vmAmoxor d a b m) false (vectorAtomic .xor false d b m)

/-- `vm.amoswap` (R252 to R254). -/
def execVmAmoswap (d : Reg) (a b : Reg) (m : KReg) : State → Out :=
  runVec (.vmAmoswap d a b m) false (vectorAtomic .swap false d b m)

/-- `vm.amocas` (R252 to R254). -/
def execVmAmocas (d : BitVec 4) (a b : Reg) (m : KReg) : State → Out :=
  runVec (.vmAmocas d a b m) false (vectorAtomic .cas false (evenReg d) b m)

/-- `vm.amoadd.r` (R252 to R254). -/
def execVmAmoaddR (d : Reg) (a b : Reg) (m : KReg) : State → Out :=
  runVec (.vmAmoaddR d a b m) false (vectorAtomic .add true d b m)

/-- `vm.amofadd.r` (R252 to R254). -/
def execVmAmofaddR (d : Reg) (a b : Reg) (m : KReg) : State → Out :=
  runVec (.vmAmofaddR d a b m) false (vectorAtomic .fadd true d b m)

/-- `vm.amomin.r` (R252 to R254). -/
def execVmAmominR (d : Reg) (a b : Reg) (m : KReg) : State → Out :=
  runVec (.vmAmominR d a b m) false (vectorAtomic .min true d b m)

/-- `vm.amomax.r` (R252 to R254). -/
def execVmAmomaxR (d : Reg) (a b : Reg) (m : KReg) : State → Out :=
  runVec (.vmAmomaxR d a b m) false (vectorAtomic .max true d b m)

/-- `vm.amominu.r` (R252 to R254). -/
def execVmAmominuR (d : Reg) (a b : Reg) (m : KReg) : State → Out :=
  runVec (.vmAmominuR d a b m) false (vectorAtomic .minu true d b m)

/-- `vm.amomaxu.r` (R252 to R254). -/
def execVmAmomaxuR (d : Reg) (a b : Reg) (m : KReg) : State → Out :=
  runVec (.vmAmomaxuR d a b m) false (vectorAtomic .maxu true d b m)

/-- `vm.amoand.r` (R252 to R254). -/
def execVmAmoandR (d : Reg) (a b : Reg) (m : KReg) : State → Out :=
  runVec (.vmAmoandR d a b m) false (vectorAtomic .and true d b m)

/-- `vm.amoor.r` (R252 to R254). -/
def execVmAmoorR (d : Reg) (a b : Reg) (m : KReg) : State → Out :=
  runVec (.vmAmoorR d a b m) false (vectorAtomic .or true d b m)

/-- `vm.amoxor.r` (R252 to R254). -/
def execVmAmoxorR (d : Reg) (a b : Reg) (m : KReg) : State → Out :=
  runVec (.vmAmoxorR d a b m) false (vectorAtomic .xor true d b m)

/-- `vm.amoswap.r` (R252 to R254). -/
def execVmAmoswapR (d : Reg) (a b : Reg) (m : KReg) : State → Out :=
  runVec (.vmAmoswapR d a b m) false (vectorAtomic .swap true d b m)

/-- `vm.amocas.r` (R252 to R254). -/
def execVmAmocasR (d : BitVec 4) (a b : Reg) (m : KReg) : State → Out :=
  runVec (.vmAmocasR d a b m) false (vectorAtomic .cas true (evenReg d) b m)

/-- `vm.updadd` (R231). -/
def execVmUpdadd (d a : Reg) (m : KReg) : State → Out := runVec (.vmUpdadd d a m) false (update .add d m)

/-- `vm.updfadd` (R231). -/
def execVmUpdfadd (d a : Reg) (m : KReg) : State → Out := runVec (.vmUpdfadd d a m) false (update .fadd d m)

/-- `vm.updmin` (R231). -/
def execVmUpdmin (d a : Reg) (m : KReg) : State → Out := runVec (.vmUpdmin d a m) false (update .min d m)

/-- `vm.updmax` (R231). -/
def execVmUpdmax (d a : Reg) (m : KReg) : State → Out := runVec (.vmUpdmax d a m) false (update .max d m)

/-- `vm.updfmax` (R231). -/
def execVmUpdfmax (d a : Reg) (m : KReg) : State → Out := runVec (.vmUpdfmax d a m) false (update .fmax d m)

/-- `vm.updfmin` (R231). -/
def execVmUpdfmin (d a : Reg) (m : KReg) : State → Out := runVec (.vmUpdfmin d a m) false (update .fmin d m)

end Sys2Proof.Machine
end

