-- ==== Sys2Proof/Machine/SyncOps.lean ====
section
/-! DEFINITION. Fences, barriers, sleeping and the copy group (R191 to R193, R232 to R234, R241, R249, R259 to R263). -/

namespace Sys2Proof.Machine

/-- Whether an instruction of the SYNC or COPY group is performed: km is 000 or bit 0 of the mask is 1 (R232, R260). -/
def groupOn (s : State) (m : KReg) : Bool := decide (m = 0) || (srcK s m).getLsbD 0

/-- An instruction performed under R260's condition, else complete with no effect. -/
def gated (m : KReg) (f : Ctx → State → Eff) (c : Ctx) (s : State) : Eff := if groupOn s m then f c s else .ok s

/-- `vm.fence` (R241). -/
def execVmFence (a : Reg) (m : KReg) : State → Out :=
  runVec (.vmFence a m) false (gated m fun _ s => .ok (performFence s a.toNat))

/-- The location of a barrier, or the fault it meets (R262). -/
def barrierLoc (c : Ctx) (s : State) (acc : Acc) : Except Nat Nat :=
  let va := c.xa.toNat
  let wr := decide (acc = .write)
  if va % 16 ≠ 0 then .error (if wr then 6 else 4)
  else
    match fmtAt c s acc va with
    | .error e => .error e
    | .ok (_, p) =>
      if p.fai ≠ 0 then .error 26
      else
        match locOf s p.pa with
        | none => .error (if wr then 7 else 5)
        | some loc => if isDevice loc then .ok loc else .error (if wr then 7 else 5)

/-- The arrival at a barrier's home (R262): one write of ARRIVED and PHASE. -/
def arrive (s : State) (die loc : Nat) : State :=
  let s := recallLine s (lineOf loc)
  let expected := homeNat s loc 4
  let A := homeNat s (loc + 4) 4 + 1
  let P := homeNat s (loc + 8) 4
  let full := decide (Nat.max expected 1 ≤ A)
  homeWrite s die (loc + 4) (bytesOf 4 (if full then 0 else A) ++ bytesOf 4 (if full then P + 1 else P)) none

/-- `vm.fenceb` (R251, R262): the fence, then the arrival as a release. -/
def fenceBarrier (b : Reg) (c : Ctx) (s : State) : Eff :=
  match barrierLoc c s .write with
  | .error e => .deny s e c.xa
  | .ok loc =>
    if blocked s [lineOf loc] then .wait s 0
    else if s.errs.contains (lineOf loc) then .deny s 27 c.xa
    else .ok (arrive (release (performFence s b.toNat)) (dieOf s.gid) loc)

/-- `vm.fenceb` (R262). -/
def execVmFenceb (a b : Reg) (m : KReg) : State → Out := runVec (.vmFenceb a b m) false (gated m (fenceBarrier b))

/-- The answer to a strand's barrier wait, where it has come (R263): the line's clock as it was answered. -/
def phaseAnswer (s : State) (gid loc : Nat) : Option Clock4 :=
  s.wire.findSome? fun w => match w with
    | .phase g l _ clock => if g = gid ∧ l = loc then some clock else none
    | _ => none

/-- The wire without a strand's answered barrier wait. -/
def dropPhase (s : State) (gid loc : Nat) : State :=
  { s with wire := s.wire.filter fun w => match w with
    | .phase g l _ _ => !(g == gid && l == loc)
    | _ => true }

/-- Whether a strand's barrier wait is held at its slice, or was answered NACK and waits to be resent (R263). -/
def bwaitSent (s : State) (gid loc : Nat) : Bool :=
  ((sliceAt s (homeSlice (lineOf loc))).deferred.any fun d => match d with
    | .bwait g l _ => g == gid && l == loc
    | _ => false) || s.wire.any fun w => match w with
    | .nackBwait g _ _ _ => g == gid
    | _ => false

/-- The request of a barrier wait at its home, where PHASE does not differ (R263): held, or answered NACK. -/
def deferBwait (s : State) (gid loc : Nat) (phase : BitVec 32) (backoff : Nat) : State :=
  let sl := homeSlice (lineOf loc)
  let k := sliceAt s sl
  if k.deferred.length < 32 then onSlice s sl fun k => { k with deferred := k.deferred ++ [.bwait gid loc phase] }
  else
    { onSlice s sl (fun k => { k with nacks := k.nacks + 1 }) with wire := s.wire ++ [.nackBwait gid loc phase backoff] }

/-- A barrier wait (R263): once its request is sent, its answer alone decides. The answer is an acquire at SYSTEM scope with the clock
that the line had (R251). -/
def barrierWait (c : Ctx) (s : State) : Eff :=
  match barrierLoc c s .read with
  | .error e => .deny s e c.xa
  | .ok loc =>
    let line := lineOf loc
    let want : BitVec 32 := c.xb.setWidth 32
    match phaseAnswer s s.gid loc with
    | some clock => .ok (acquireWith (dropPhase s s.gid loc) clock)
    | none =>
      if bwaitSent s s.gid loc || blocked s [line] then .wait s 0
      else if s.errs.contains line then .deny s 27 c.xa
      else
        let s := recallLine s line
        if BitVec.ofNat 32 (homeNat s (loc + 8) 4) ≠ want then .ok (acquireWith s (homeClock s line))
        else .wait (deferBwait s s.gid loc want 64) 0

/-- `vm.bwait` (R263). -/
def execVmBwait (a b : Reg) (m : KReg) : State → Out := runVec (.vmBwait a b m) false (gated m barrierWait)

/-- The location of an armed word, or its fault at the fault point (R259). -/
def armedLoc (c : Ctx) (s : State) (va : Nat) : Except EFault Nat :=
  if va % 4 ≠ 0 then .error (4, va)
  else
    match fmtAt c s .read va with
    | .error e => .error (e, va)
    | .ok (_, p) =>
      if p.fai ≠ 0 then .error (26, va)
      else
        match locOf s p.pa with
        | none => .error (5, va)
        | some loc => .ok loc

/-- Address of armed word i (R259). -/
def armedAddr (c : Ctx) (s : State) (d i : Nat) : Nat := (c.xa.toNat + elem 32 (srcV s d).bits i) % 2 ^ 64

/-- The element at which a pass over the armed words meets an uncorrectable error. -/
def sleepError (s : State) (locs : List (Nat × Nat)) : Option Nat :=
  (locs.find? fun p => s.errs.contains (lineOf p.2)).map Prod.fst

/-- A strand that sleeps no more (R259). -/
def Strand.awake (t : Strand) : Strand := { t with wake := false }

/-- A sleep on a set of words (R259): its fault point, then one pass over the armed words; the next pass is made when the entry is tried
again, under the translations that it holds (R367). A word whose line a vector atomic holds, or an engine owns, is read after it (R194,
R255). -/
def gcSleep (d : BitVec 4) (all : Bool) (m : KReg) (c : Ctx) (s : State) : Eff :=
  let r := (evenReg d).toNat
  if 1024 < c.vl then .deny s 2 (c.word.setWidth 64)
  else
    let is := activeOf c s m
    let f := fun i => armedLoc c s (armedAddr c s r i)
    match firstFault f is with
    | some (_, e) => .deny { s with t := s.t.awake } e.1 (word e.2)
    | none =>
      let locs := located f is
      let lines := (linesOfLocs (locs.map Prod.snd)).filter fun l => isDevice (l * 128)
      if blocked s lines then .wait s 0
      else
        let s := recallLines s lines
        match sleepError s locs with
        | some i => .deny { s with t := s.t.awake } 27 (word (armedAddr c s r i))
        | none =>
          let S := (locs.filter fun p => decide (homeNat s p.2 4 = elem 32 (srcV s (r + 1)).bits p.1)).map Prod.fst
          let met := if all then decide (S.length = is.length) else !S.isEmpty
          let s := catchUp (noteRead s (homeClock s) lines) (dieOf s.gid) lines
          if met || decide (c.vl = 0) || s.t.wake || s.t.preempt.isSome then
            .ok (setK { s with t := s.t.awake } m (packK (fun i => S.contains i) c.vl))
          else .wait s 0

/-- `vm.gcsleep` (R259). -/
def execVmGcsleep (d : BitVec 4) (a : Reg) (b : BitVec 1) (m : KReg) : State → Out :=
  runVec (.vmGcsleep d a b m) false (gcSleep d (b == 1) m)

/-- A core's read-only buffer emptied (R228). -/
def emptyRo (s : State) (core : Nat) : State := { s with robuf := s.robuf.filter fun p => p.1 != core }

/-- `vm.rofence` (R249). -/
def execVmRofence (m : KReg) : State → Out :=
  runVec (.vmRofence m) false (gated m fun _ s => .ok (emptyRo (performFence s 3) (coreOf s.gid)))

/-- Whether a copy of a strand runs on a tag. -/
def copyRuns (s : State) (gid tag : Nat) : Bool := s.copies.any fun j => j.gid == gid && j.tag == tag

/-- Whether a copy of a strand runs on a tag of a mask. -/
def anyRuns (s : State) (gid : Nat) (M : Word) : Bool := s.copies.any fun j => j.gid == gid && M.getLsbD j.tag

/-- The lowest tag of a set. -/
def lowestTag (w : Word) : Nat := (firstTo (fun i => w.getLsbD i) 64).getD 0

/-- A copy as its descriptor's 64 bytes give it (R192); a rejected descriptor makes a copy that fails. -/
def copyOf (s : State) (c : Ctx) (tag : Nat) (bs : List Byte) : CopyJob :=
  let f := fun off n => recField bs off n
  let ctl := f 40 8
  { gid := s.gid
    tag := tag
    src := word (f 0 8)
    dst := word (f 8 8)
    rowlen := f 16 4
    rows := f 20 4
    sstride := word (f 24 8)
    dstride := word (f 32 8)
    fill := bits ctl 0 2 == 1
    alloc := bits ctl 2 1 == 1
    bad := decide (c.xa.toNat % 64 ≠ 0) || decide (f 16 4 = 0) || decide (f 20 4 = 0) || decide (2 ≤ bits ctl 0 2)
      || decide (ctl / 8 ≠ 0) || decide (f 48 16 ≠ 0)
    xl := c.xl
    started := false
    pos := 0
    got := []
    missed := s.t.unfenced
    held := []
    pages := []
    outcome := none }

/-- `vm.cp` (R233). -/
def copyStartBody (c : Ctx) (s : State) : Eff :=
  let n := c.xb.toNat
  if 64 ≤ n then .deny s 2 (c.word.setWidth 64)
  else if copyRuns s s.gid n then .hold s 0
  else
    let s := { s with t := { s.t with ctags := putBit s.t.ctags n false } }
    if s.t.cfault.getLsbD n then .deny s 28 (word n)
    else
      match locateBytes s (coreOf s.gid) c.xl .read c.xa.toNat 64 with
      | .error .page => .deny s 25 c.xa
      | .error .access => .deny s 5 c.xa
      | .error .dataErr => .deny s 27 c.xa
      | .ok locs =>
        let lines := (linesOfLocs locs).filter fun l => isDevice (l * 128)
        if blocked s lines then .hold s 0
        else if locs.any fun l => s.errs.contains (lineOf l) then .deny s 27 c.xa
        else
          let s := recallLines s lines
          .ok { s with copies := s.copies ++ [copyOf s c n (locs.map (rdNear s))] }

/-- `vm.cp` (R232, R233). -/
def execVmCp (a b : Reg) (m : KReg) : State → Out := runVec (.vmCp a b m) false (gated m copyStartBody)

/-- The COPY group's instructions that write an x register: 0 where they are not performed (R232). -/
def gatedX (d : Reg) (m : KReg) (f : Ctx → State → Eff) (c : Ctx) (s : State) : Eff :=
  if groupOn s m then f c s else .ok (setX s d 0)

/-- `vm.cpwany` and `vm.cpwall` (R234). -/
def copyWait (all : Bool) (d : Reg) (c : Ctx) (s : State) : Eff :=
  let M := c.xa
  let got := s.t.ctags &&& M
  let met := if all then decide (got = M) else decide (M = 0) || decide (got ≠ 0)
  let bad := s.t.cfault &&& got
  if !met then .hold s 0
  else if bad ≠ 0 then .deny s 28 (word (lowestTag bad))
  else .ok (setX s d got)

/-- `vm.cpwany` (R234). -/
def execVmCpwany (d a : Reg) (m : KReg) : State → Out := runVec (.vmCpwany d a m) true (gatedX d m (copyWait false d))

/-- `vm.cpwall` (R234). -/
def execVmCpwall (d a : Reg) (m : KReg) : State → Out := runVec (.vmCpwall d a m) true (gatedX d m (copyWait true d))

/-- `vm.cpffr` (R234). -/
def execVmCpffr (d a : Reg) (m : KReg) : State → Out :=
  runVec (.vmCpffr d a m) true
    (gatedX d m fun c s => .ok (setX { s with t := { s.t with cfault := s.t.cfault &&& ~~~c.xa } } d (s.t.cfault &&& c.xa)))

/-- `vm.cpclr` (R234). -/
def copyClear (c : Ctx) (s : State) : Eff :=
  let bad := s.t.cfault &&& c.xa
  if anyRuns s s.gid c.xa then .hold s 0
  else if bad ≠ 0 then .deny s 28 (word (lowestTag bad))
  else .ok { s with t := { s.t with ctags := s.t.ctags &&& ~~~c.xa } }

/-- `vm.cpclr` (R234). -/
def execVmCpclr (a : Reg) (m : KReg) : State → Out := runVec (.vmCpclr a m) false (gated m copyClear)

end Sys2Proof.Machine
end

