-- ==== Sys2Proof/Machine/MsgOps.lean ====
section
/-! DEFINITION. Pushing registers to a peer (R264 to R266, R357). -/

namespace Sys2Proof.Machine

/-- What stands in the way of a push's next register (R264, R357). -/
inductive PeerState where
  | ready | busy | gone
  deriving DecidableEq, Repr

/-- Whether a context has not ended: it runs on some strand or is suspended. -/
def contextLives (s : State) (order : Nat) : Bool :=
  ((s.gid :: s.peers.map Prod.fst).any fun g => (strandAt s g).task.any fun k => k.order == order) ||
    s.suspended.any fun c => c.saved.task.any fun k => k.order == order

/-- Whether the peer's context takes part in the push (R264, R357): before the first grant whatever context holds the strand,
a strand whose context is force-saved answering NACK; then the bound one, NACK while it is suspended and PEER once it has ended. -/
def peerState (s : State) (peer : Nat) : PeerState :=
  match s.t.bound with
  | none =>
    if (strandAt s peer).task.isSome then .ready
    else if s.suspended.any fun c => c.forced && c.last == peer then .busy
    else .gone
  | some o =>
    if (strandAt s peer).task.any (fun k => k.order == o) then .ready else if contextLives s o then .busy else .gone

/-- Whether the peer grants a register to a pusher (R264): EMPTY, promised to no other, at most 16 pending after it, and a spare of the peer
core's shared pool is free. -/
def grantable (s : State) (gid peer reg : Nat) : Bool :=
  let t := strandAt s peer
  let mine := t.granted.contains (reg, gid)
  (t.pending[reg % 32]'(Nat.mod_lt reg (by decide))).isNone && !(t.granted.any fun p => p.1 == reg && p.2 != gid) &&
    decide (corePending s (coreOf peer) + (if mine then 0 else 1) ≤ 16) && (mine || decide (0 < poolFree s (coreOf peer)))

/-- The push messages of a strand's register taken off the wire. -/
def dropPush (s : State) (gid : Nat) : State :=
  { s with wire := s.wire.filter fun w => match w with
    | .pushAsk g _ _ _ _ | .pushGrant g _ _ _ _ _ | .pushPeer g _ => g != gid
    | _ => true }

/-- A whole register arrived at the peer: FE is FULL (R264). -/
def deliverPush (s : State) (gid peer reg : Nat) (p : VReg) : State :=
  let t := strandAt s peer
  dropPush (putStrand s peer { t with
    pending := t.pending.set (reg % 32) (some p) (Nat.mod_lt reg (by decide))
    granted := t.granted.filter fun q => !(q == (reg, gid)) }) gid

/-- The register that a push delivers: VL elements, inactive ones zero (R264). -/
def pushedReg (c : Ctx) (s : State) (m : KReg) (n : Nat) : VReg :=
  denseReg c.w c.vl (packV c.w (fun i => if actOf s m i then elem c.w (srcV s n).bits i else 0) c.vl)

/-- The registers of a push from number j on (R264). -/
def pushFrom (c : Ctx) (d b : Reg) (m : KReg) : Nat → Nat → State → Eff
  | 0, _, s => .ok { s with t := { s.t with bound := none } }
  | n + 1, j, s =>
    let peer := c.xa.toNat
    match peerState s peer with
    | .gone => .trap { s with t := { s.t with bound := none } } 30 (word (peer % 2048)) j
    | .busy => .hold s j
    | .ready =>
      if grantable s s.gid peer (d.toNat + j) then
        let s := { s with t := { s.t with bound := (strandAt s peer).task.map fun k => k.order } }
        pushFrom c d b m n (j + 1) (deliverPush s s.gid peer (d.toNat + j) (pushedReg c s m (b.toNat + j)))
      else .hold s j

/-- A push (R264). Its G comes from the captured `vcfg`, so the check that its registers are multiples of G is made with the operands,
as R272 makes C's, and traps as R28 says: the model's choice, since R264 cites R40, whose words the front end checks (R57). -/
def pushBody (d b : Reg) (m : KReg) (c : Ctx) (s : State) : Eff :=
  let g := cfgG c.cfg
  if d.toNat % g ≠ 0 ∨ b.toNat % g ≠ 0 then .deny s 2 (c.word.setWidth 64)
  else if 2048 ≤ c.xa.toNat ∨ c.xa.toNat = s.gid then .deny s 30 (word (c.xa.toNat % 2048))
  else pushFrom c d b m (g - c.progress) c.progress s

/-- `vx.push` (R264). -/
def execVxPush (d a b : Reg) (m : KReg) : State → Out := runVec (.vxPush d a b m) false (pushBody d b m)

/-- A take (R265). -/
def takeBody (d : Reg) (_ : Ctx) (s : State) : Eff :=
  match s.t.pending[d.toNat] with
  | none => .wait s 0
  | some p => .ok (setV { s with t := { s.t with pending := s.t.pending.set d.toNat none } } d.toNat p)

/-- `vx.take` (R265). -/
def execVxTake (d : Reg) : State → Out := runVec (.vxTake d) false (takeBody d)

/-- `vx.fe` (R265). -/
def execVxFe (d : Reg) : State → Out :=
  runVec (.vxFe d) true fun _ s =>
    .ok (setX s d (word (packNat 1 (fun j => if (s.t.pending[j % 32]'(Nat.mod_lt j (by decide))).isSome then 1 else 0) 32)))

end Sys2Proof.Machine
end

