-- ==== Sys2Proof/Machine/MatOps.lean ====
section
/-! DEFINITION. The MAT group: tile products, tile loads, compression, long products and the unfolding unit
(R271 to R283, R287 to R297). -/

namespace Sys2Proof.Machine

/-- The illegal-instruction trap of an operand check (R272, R288). -/
def matIllegal (c : Ctx) (s : State) : Eff := .deny s 2 (c.word.setWidth 64)

/-- Whether two register groups share a register. -/
def overlaps (x n y m : Nat) : Bool := decide (x < y + m) && decide (y < x + n) && decide (n ≠ 0) && decide (m ≠ 0)

/-- Whether FMT is 8, 9, 10 or 11 (R272). -/
def tileFmt (c : Ctx) : Bool := [8, 9, 10, 11].contains (cfgFmt c.cfg)

/-- K of a tile whose A begins at a register (R272). -/
def tileK (c : Ctx) (s : State) (a : Reg) : Nat := (srcV s a.toNat).len.toNat * 32 / c.w

/-- The operand conditions of R272 with a B of `nB` registers from `b` on. -/
def tileOk (c : Ctx) (s : State) (d a b nB : Nat) : Bool :=
  let g := cfgG c.cfg
  tileFmt c && decide (c.vl ≤ 1024) && decide (a % g = 0) && decide (d % g = 0) &&
    ((List.range g).all fun r => decide ((srcV s (a + r)).len = (srcV s a).len)) && decide (1 ≤ (srcV s a).len.toNat) &&
    decide (nB ≤ 8) && decide (b % ceilPow2 nB = 0) && !overlaps d g a g && !overlaps d g b nB

/-- Element k of row r of A (R272). -/
def tileA (c : Ctx) (s : State) (a : Reg) (r k : Nat) : Nat := elem c.w (srcV s (a.toNat + r)).bits k

/-- A row of C over the K indices `lo` to `hi - 1` (R159, R160, R273): `b k n x` are the terms of A element x with B[k][n]. -/
def spanRow (lam : Bool) (pick : Nat → Nat) (gs lo hi vl : Nat) (c : VBits) (a : Nat → Nat)
    (b : Nat → Nat → Nat → List (FVal × Flags)) : VBits × Flags :=
  tileRow (fun n => blocksOf lam (fun i => pick (n * 2 ^ 17 + i)) gs lo hi) vl c fun k n => b k n (a k)

/-- Rows of C computed and put, with their flags: DENSE with LEN VL (R273). -/
def putRows (c : Ctx) (d : Nat) (row : State → Nat → VBits × Flags) : Nat → State → State
  | 0, s => s
  | r + 1, s =>
    let t := putRows c d row r s
    let p := row s r
    orFlags (setV t (d + r) (denseWords c.vl p.1)) p.2

/-- The free numbers of a product whose LAM is 0. -/
def lamDraw (c : Ctx) (s : State) : (Nat → Nat) × State := if cfgLam c.cfg then (fun _ => 0, s) else drawFam s

/-- A tile product with B[k][n] given (R273, R275). -/
def tileProduct (d a : Reg) (b : Nat → Nat → Nat) (K : Nat) (c : Ctx) (s : State) : Eff :=
  match fpFmt (cfgFmt c.cfg) with
  | none => matIllegal c s
  | some F =>
    let p := lamDraw c s
    .ok (putRows c d.toNat (fun s r =>
      spanRow (cfgLam c.cfg) (fun i => p.1 (r * 2 ^ 27 + i)) 0 0 K c.vl (srcV s (d.toNat + r)).bits (tileA c s a r)
        fun k n x => [prodTerm F x (b k n)]) (cfgG c.cfg) p.2)

/-- Registers of a dense B (R272). -/
def denseCount (K vl w : Nat) : Nat := ceilDiv (K * vl * w) 32768

/-- Registers of a compressed B (R274). -/
def sparseCount (K N vl : Nat) : Nat := ceilDiv (ceilDiv K 8 * N * vl) 1024

/-- `vx.mmac` (R273, R289). -/
def mmacBody (d a b : Reg) (c : Ctx) (s : State) : Eff :=
  let K := tileK c s a
  if tileOk c s d.toNat a.toNat b.toNat (denseCount K c.vl c.w) then
    tileProduct d a (fun k n => groupElem c.w (fun j => (srcV s (b.toNat + j)).bits) (k * c.vl + n)) K c s
  else matIllegal c s

/-- `vx.mmac` (R289). -/
def execVxMmac (d a b : Reg) : State → Out := runVec (.vxMmac d a b) false (mmacBody d a b)

/-- `vx.mmacs` (R274, R275, R290): the B group begins at register 8·e. -/
def mmacsBody (d a : Reg) (e n : BitVec 2) (c : Ctx) (s : State) : Eff :=
  let K := tileK c s a
  let N := 2 ^ n.toNat
  if tileOk c s d.toNat a.toNat (8 * e.toNat) (sparseCount K N c.vl) then
    tileProduct d a (sparseB c.w N c.vl fun j => (srcV s (8 * e.toNat + j)).bits) K c s
  else matIllegal c s

/-- `vx.mmacs` (R290). -/
def execVxMmacs (d a : Reg) (e n : BitVec 2) : State → Out := runVec (.vxMmacs d a e n) false (mmacsBody d a e n)

/-- Registers `d` to `d + n - 1` put. -/
def putGroup (d : Nat) (f : Nat → VReg) : Nat → State → State
  | 0, s => s
  | n + 1, s => setV (putGroup d f n s) (d + n) (f n)

/-- `vx.mzero` (R291): that vd is a multiple of G is checked with the operands, as R272 does for C; where R57 would have the front end
check it, the place is the model's choice. -/
def mzeroBody (d : Reg) (c : Ctx) (s : State) : Eff :=
  let g := cfgG c.cfg
  if d.toNat % g = 0 ∧ c.vl ≤ 1024 then .ok (putGroup d.toNat (fun _ => denseWords c.vl 0) g s) else matIllegal c s

/-- `vx.mzero` (R291). -/
def execVxMzero (d : Reg) : State → Out := runVec (.vxMzero d) false (mzeroBody d)

/-- Element `e = r · VL + i` of a tile load (R292). -/
def tileElem (fr : Nat → Nat) (c : Ctx) (s : State) (e : Nat) : Except EFault Got :=
  loadUnit none rdNear (fun i => fr (e / c.vl * c.vl + i)) (rowCtx c (e / c.vl)) s (e % c.vl)

/-- Row r of a tile load: elements the progress covers are kept, elements below `lim` loaded, the others free. -/
def tileRowReg (c : Ctx) (s : State) (d r lim : Nat) (f fr : Nat → Nat) : VReg :=
  denseReg c.w c.vl (packV c.w (fun i =>
    let e := r * c.vl + i
    if e < c.progress then elem c.w (getV s (d + r)).bits i else if e < lim then f e else fr e % 2 ^ c.w) c.vl)

/-- A tile load (R278, R292): that vd is a multiple of G is checked with the operands, as in `mzeroBody`, by the model's choice. -/
def tileLoad (d : Reg) (c : Ctx) (s : State) : Eff :=
  let g := cfgG c.cfg
  if d.toNat % g ≠ 0 then matIllegal c s
  else
    let p := drawFam s
    let is := (List.range (g * c.vl)).filter fun e => decide (c.progress ≤ e)
    let lines := gotLines (tileElem p.1 c s) is
    let locked := blocked s lines
    let past := clears (tileElem p.1 c) is s
    let s := if locked then s else recallLines s lines
    let p := (p.1, { s with free := p.2.free })
    let f := tileElem p.1 c s
    let rowsOf : Nat → Nat → Nat → VReg := fun lim r n =>
      if r < n then tileRowReg c s d.toNat r lim (valOf f) p.1 else denseReg c.w c.vl 0
    let fin : State → Nat → List Nat → Eff := fun t n done =>
      .ok (orFlags (readLines (near footUnit) c s { putGroup d.toNat (fun r => rowsOf (g * c.vl) r n) g t with
        t := { (putGroup d.toNat (fun r => rowsOf (g * c.vl) r n) g t).t with vtrows := BitVec.ofNat 4 n } }
        (gotLines f done)) (gotFlags f done))
    if locked then waitIf past s c.progress
    else
      match firstFault f is with
      | none => fin (if 16 ≤ cfgFmt c.cfg then p.2 else s) g is
      | some (i, e) =>
        let r := i / c.vl
        if c.xb.getLsbD 63 && decide (1 ≤ r) && (e.1 == 25 || e.1 == 5) then
          fin (if 16 ≤ cfgFmt c.cfg then p.2 else s) r (is.filter fun j => decide (j < r * c.vl))
        else
          let done := is.filter fun j => decide (j < i)
          let t := putGroup d.toNat (fun q => { tileRowReg c s d.toNat q i (valOf f) p.1 with
            vpi := BitVec.ofNat 11 (if q < r then ceilDiv (c.vl * c.w) 32 else if q = r then i % c.vl * c.w / 32 else 0) }) g p.2
          .trap (orFlags (readLines (near footUnit) c s t (gotLines f done)) (gotFlags f done)) e.1 (word e.2) i

/-- `vx.mtld` (R292). -/
def execVxMtld (d a b : Reg) : State → Out := runVec (.vxMtld d a b) false (tileLoad d)

/-- `vx.mcomp` (R293). Its registers take the VPI that R24 gives every completed producer. -/
def mcompBody (d : BitVec 2) (b : Reg) (c : Ctx) (s : State) : Eff :=
  let K := bits c.xa.toNat 0 16
  let code := bits c.xa.toNat 16 2
  let N := 2 ^ code
  let src := denseCount K c.vl c.w
  let nB := sparseCount K N c.vl
  match fpFmt (cfgFmt c.cfg) with
  | none => matIllegal c s
  | some F =>
    if decide (1 ≤ K) && decide (K ≤ 32768) && decide (code ≤ 2) && tileFmt c && decide (c.vl ≤ 1024) && decide (src ≤ 8) &&
        decide (b.toNat % ceilPow2 src = 0) && decide (nB ≤ 8) then
      let B := fun k n => groupElem c.w (fun j => (srcV s (b.toNat + j)).bits) (k * c.vl + n)
      let total := ceilDiv K 8 * N * c.vl
      .ok (putGroup (8 * d.toNat) (fun t =>
        let len := Nat.min 1024 (total - 1024 * t)
        { denseWords len (packV 32 (fun i => compElem F N K c.vl B (1024 * t + i)) len) with
          vpi := BitVec.ofNat 11 (ceilDiv (c.vl * c.w) 32) }) nB s)
    else matIllegal c s

/-- `vx.mcomp` (R293). -/
def execVxMcomp (d : BitVec 2) (a b : Reg) : State → Out := runVec (.vxMcomp d a b) false (mcompBody d b)

/-- A 64-byte descriptor read as raw bytes through the strand's translation (R294, R296), or its fault. -/
def readDesc (c : Ctx) (s : State) : Except Nat (List Byte) :=
  if c.xa.toNat % 64 ≠ 0 then .error 4
  else
    match vLocs c s .read c.xa.toNat 64 with
    | .error e => .error e
    | .ok locs => if locs.any fun l => s.errs.contains (lineOf l) then .error 27 else .ok (locs.map (rdNear s))

/-- The unfolding descriptor of 64 bytes (R281). -/
def unfoldOf (bs : List Byte) : Unfold :=
  let f := fun off n => recField bs off n
  { xbase := word (f 0 8), h := f 8 2, w := f 10 2, c := f 12 2, oh := f 14 2, ow := f 16 2, kh := f 18 1, kw := f 19 1
    sh := f 20 1, sw := f 21 1, dh := f 22 1, dw := f 23 1, ph := f 24 1, pw := f 25 1, fmt := f 26 1, pad := f 28 2
    rpitch := f 32 4, ppitch := f 36 4 }

/-- Whether an unfolding descriptor is in range, its reserved bytes zero (R281). -/
def unfoldOk (bs : List Byte) : Bool :=
  let u := unfoldOf bs
  ([u.h, u.w, u.c, u.oh, u.ow, u.kh, u.kw, u.sh, u.sw, u.dh, u.dw].all fun n => decide (n ≠ 0)) &&
    [8, 9, 10, 11].contains u.fmt && decide (recField bs 27 1 = 0) && decide (recField bs 30 2 = 0) &&
    decide (recField bs 40 24 = 0)

/-- Whether an address translates into the Basket aperture (R281). -/
def inBasket (c : Ctx) (s : State) (va : Nat) : Bool :=
  match locate s (coreOf s.gid) c.xl .read va with
  | .ok (loc, _) => decide (placeOf loc = .basket)
  | .error _ => false

/-- Whether an older long product of the focus strand waits in its pending frame (R296, R351). -/
def gemmFramed (s : State) : Bool :=
  s.frames.any fun p => (s.t.task.any fun k => k.ctx == p.1) && p.2.entries.any fun e => match e.instr with
    | .vxMgemm _ _ => !e.done
    | _ => false

/-- `vx.munf` (R281, R296); at VL = 0 it reads nothing (R23). -/
def munfBody (c : Ctx) (s : State) : Eff :=
  if c.vl = 0 then .ok s
  else if gemmFramed s || blocked s (descLines c s 64) then .hold s 0
  else
  let s := recallLines s (descLines c s 64)
  match readDesc c s with
  | .error e => .deny s e c.xa
  | .ok bs =>
    if unfoldOk bs && inBasket c s (unfoldOf bs).xbase.toNat then .ok { s with t := { s.t with unfold := some (unfoldOf bs) } }
    else .deny s 26 c.xa

/-- `vx.munf` (R296). -/
def execVxMunf (a : Reg) : State → Out := runVec (.vxMunf a) false munfBody

/-- The descriptor of `vx.mgemm` (R294). -/
structure Gemm where
  abase : Nat
  bbase : Nat
  apitch : Int
  bpitch : Int
  k : Nat
  mrow0 : Nat
  au : Bool

/-- The descriptor from its bytes. -/
def gemmOf (bs : List Byte) : Gemm :=
  let f := fun off n => recField bs off n
  ⟨f 0 8, f 8 8, sgn 32 (f 16 4), sgn 32 (f 20 4), f 24 4, f 28 4, bits (f 32 4) 0 1 == 1⟩

/-- Whether K and the reserved fields of the descriptor are in order (R295). -/
def gemmOk (bs : List Byte) : Bool :=
  decide (1 ≤ recField bs 24 4) && decide (recField bs 24 4 ≤ 32768) && decide (recField bs 32 4 < 2) &&
    decide (recField bs 36 28 = 0)

/-- A plain element that a matrix stream fetches: each page it touches must have FAI 0 (R148, R150, R295). -/
def fetchPlain (c : Ctx) (s : State) (va : Nat) : Except EFault Got :=
  match faiFault c s .read va (c.w / 8) with
  | some e => .error (e, va)
  | none => rawLoad c s (rdNear s) va

/-- A[m][k] of the unfolded A (R282): padding and rows past the last are not fetched. -/
def fetchUnfolded (c : Ctx) (s : State) (u : Unfold) (m k : Nat) : Except EFault Got :=
  if u.oh * u.ow ≤ m then .ok ⟨0, 0, []⟩
  else
    let kk := k / u.c
    let h : Int := (m / u.ow * u.sh + kk / u.kw * u.dh : Nat) - (u.ph : Int)
    let x : Int := (m % u.ow * u.sw + kk % u.kw * u.dw : Nat) - (u.pw : Int)
    if 0 ≤ h ∧ h < u.h ∧ 0 ≤ x ∧ x < u.w then
      fetchPlain c s ((u.xbase.toNat + h.toNat * u.rpitch + x.toNat * u.ppitch + k % u.c * (c.w / 8)) % 2 ^ 64)
    else .ok ⟨u.pad % 2 ^ c.w, 0, []⟩

/-- A[r][k] of a long product (R295). A product that resumes from its frame after the slot has been cleared (R283) meets R295's check of the
slot again and raises the illegal-instruction trap (DEDUCED; log entry 94). -/
def fetchA (c : Ctx) (s : State) (D : Gemm) (r k : Nat) : Except EFault Got :=
  if D.au then
    match s.t.unfold with
    | some u => fetchUnfolded c s u (D.mrow0 + r) k
    | none => .error (2, c.word.toNat)
  else fetchPlain c s (wrapVa (D.abase + r * D.apitch + (k * (c.w / 8) : Nat)))

/-- What B[k][n] brings to a product: the locations read, and its terms with an element of A. -/
structure BVal where
  locs : List Nat
  terms : Nat → List (FVal × Flags)

/-- Locations read with the terms they give, or DATA-ERROR. -/
def fetched (s : State) (va : Nat) (locs : List Nat) (f : List Byte → Nat → List (FVal × Flags)) : Except EFault BVal :=
  if locs.any fun l => s.errs.contains (lineOf l) then .error (27, va) else .ok ⟨locs, f (locs.map (rdNear s))⟩

/-- The value of a position of an S8SP group as a factor (R153, R275). -/
def sparseFactor (slots : List Nat) (p : Nat) : FVal :=
  match slots.find? fun x => bits x 0 3 == p with
  | none => .zero false
  | some x =>
    match bits x 6 2 with
    | 0 => FVal.ofInt (sgn 8 (bits x 8 8))
    | 1 => match fpFmt 8 with
      | some F => fpDecode F (bits x 8 8)
      | none => .zero false
    | _ => match fpFmt 9 with
      | some F => fpDecode F (bits x 8 8)
      | none => .zero false

/-- B[k][n] on a page with packed groups (R279, R280, R295): position n·KP + k from BBASE. -/
def fetchPacked (c : Ctx) (s : State) (F : FpFmt) (D : Gemm) (e : FmtEntry) (pg : Page) (k n : Nat) : Except EFault BVal :=
  let gp := groupPositions e
  let pos := n * (ceilDiv D.k gp * gp) + k
  let gva := (D.bbase + pos / gp * groupBytes e) % 2 ^ 64
  let va := gva + (if e.fmt = 18 then 0 else if e.fmt = 16 then pos % gp / 2 else pos % gp)
  if (D.bbase - pageBase D.bbase pg) % groupBytes e ≠ 0 ∨ D.bpitch ≠ 0 then .error (26, va)
  else
    match fmtAt c s .read va with
    | .error x => .error (x, va)
    | .ok (fe, p) =>
      if fe ≠ some e then .error (26, va)
      else if e.fmt = 18 then
        match vLocs c s .read gva (groupBytes e) with
        | .error x => .error (x, gva)
        | .ok locs =>
          if locs.any fun l => s.errs.contains (lineOf l) then .error (27, gva)
          else
            let slots := slotsOf (locs.map (rdNear s))
            if slotsOk slots then .ok ⟨locs, fun a => [exactTerm false [sparseFactor slots (pos % 8), fpDecode F a]]⟩
            else .error (26, gva)
      else
        let g := (gva - pageBase gva p) / groupBytes e
        match recordLocs c s (wrapVa (pageBase gva p + e.moff + (g * e.mstride : Nat))) with
        | .error x => .error x
        | .ok rl =>
          match vLocs c s .read va 1 with
          | .error x => .error (x, va)
          | .ok ql =>
            fetched s va (ql ++ rl) fun bs a =>
              let b := (bs.headD 0).toNat
              let q := if e.fmt = 16 then bits b (4 * (pos % 2)) 4 else b
              let r := ofBytes (bs.drop 1)
              quantTerms F (bits r 0 16) (sgn 8 (bits r 16 8)) q a

/-- B[k][n] of a long product (R295). -/
def fetchB (c : Ctx) (s : State) (F : FpFmt) (D : Gemm) (k n : Nat) : Except EFault BVal :=
  let va := wrapVa (D.bbase + k * D.bpitch + (n * (c.w / 8) : Nat))
  match fmtAt c s .read D.bbase with
  | .error x => .error (x, va)
  | .ok (none, _) =>
    match fetchPlain c s va with
    | .error x => .error x
    | .ok g => .ok ⟨g.locs, fun a => [prodTerm F a g.val]⟩
  | .ok (some e, pg) => if isPacked e then fetchPacked c s F D e pg k n else .error (26, va)

/-- The coordinates (r, k) of A and (k, n) of B that a step fetches, in this order. -/
def stepFaults (c : Ctx) (s : State) (F : FpFmt) (D : Gemm) (rows lo hi : Nat) : Option EFault :=
  let ks := (List.range (hi - lo)).map fun i => lo + i
  let as := (List.range rows).flatMap fun r => ks.map fun k => (r, k)
  let bs := ks.flatMap fun k => (List.range c.vl).map fun n => (k, n)
  match as.findSome? fun p => (match fetchA c s D p.1 p.2 with
      | .error e => some e
      | .ok _ => none) with
  | some e => some e
  | none => bs.findSome? fun p => match fetchB c s F D p.1 p.2 with
      | .error e => some e
      | .ok _ => none

/-- The device lines a step reads. -/
def stepLines (c : Ctx) (s : State) (F : FpFmt) (D : Gemm) (rows lo hi : Nat) : List Nat :=
  let ks := (List.range (hi - lo)).map fun i => lo + i
  let as := (List.range rows).flatMap fun r => ks.flatMap fun k => match fetchA c s D r k with
    | .ok g => g.locs
    | .error _ => []
  let bs := ks.flatMap fun k => (List.range c.vl).flatMap fun n => match fetchB c s F D k n with
    | .ok g => g.locs
    | .error _ => []
  linesOfLocs ((as ++ bs).filter isDevice)

/-- The group size that the blocks of an LAM = 0 product do not cross: of a quantised B (R279); 0 is none. -/
def gemmGroup (c : Ctx) (s : State) (D : Gemm) : Nat :=
  match fmtAt c s .read D.bbase with
  | .ok (some e, _) => if e.fmt = 16 ∨ e.fmt = 17 then e.gs else 0
  | _ => 0

/-- One or more K blocks applied to the accumulator (R277): C[r] over their K indices. -/
def gemmBlock (c : Ctx) (s : State) (F : FpFmt) (D : Gemm) (pick : Nat → Nat) (lo hi r : Nat) (acc : VBits) : VBits × Flags :=
  spanRow (cfgLam c.cfg) (fun i => pick (r * 2 ^ 27 + i)) (gemmGroup c s D) lo hi c.vl acc
    (fun k => match fetchA c s D r k with
      | .ok g => g.val
      | .error _ => 0)
    fun k n x => match fetchB c s F D k n with
      | .ok g => g.terms x
      | .error _ => []

/-- The progress of a long product: the step, and the descriptor as it was read. -/
def gemmProgress (step : Nat) (desc : List Byte) : Nat := step + 2048 * ofBytes desc

/-- How many steps from `step` on, at most `n`, can be fetched now. -/
def readySteps (c : Ctx) (s : State) (F : FpFmt) (D : Gemm) (g step : Nat) : Nat → Nat
  | 0 => 0
  | n + 1 =>
    let k := readySteps c s F D g step n
    let lo := 32 * (step + k)
    let hi := Nat.min D.k (lo + 32)
    if k = n && decide (lo < D.k) && (stepFaults c s F D g lo hi).isNone && !blocked s (stepLines c s F D g lo hi) then n + 1 else k

/-- How many steps are summed together (R160): one where LAM is 1; else some of those that can be fetched, so that block boundaries
and the order of the blocks are free across them. -/
def stepsTogether (c : Ctx) (s : State) (F : FpFmt) (D : Gemm) (g step fuel : Nat) (pick : Nat → Nat) : Nat :=
  if cfgLam c.cfg then 1 else 1 + pick (2 ^ 40) % readySteps c s F D g step fuel

/-- The steps of a long product from step `n` on (R277, R295); `fuel` bounds the steps taken now. -/
def gemmFrom (c : Ctx) (F : FpFmt) (D : Gemm) (desc : List Byte) (d : Nat) : Nat → Nat → State → Eff
  | 0, step, s => .hold s (gemmProgress step desc)
  | fuel + 1, step, s =>
    let g := cfgG c.cfg
    let lo := 32 * step
    let hi := Nat.min D.k (lo + 32)
    let mark : State → Nat → State := fun s n => setV s d { getV s d with vpi := BitVec.ofNat 11 n }
    if blocked s (stepLines c s F D g lo hi) then .hold s (gemmProgress step desc)
    else
      let s := recallLines s (stepLines c s F D g lo hi)
      match stepFaults c s F D g lo hi with
      | some e => .trap (mark s step) e.1 (word e.2) (gemmProgress step desc)
      | none =>
        let p := lamDraw c s
        let n := stepsTogether c s F D g step (fuel + 1) p.1
        let hi := Nat.min D.k (lo + 32 * n)
        let t := putRows c d (fun t r => gemmBlock c s F D p.1 lo hi r (getV t (d + r)).bits) g p.2
        let t := noteRead t (nearClock t (dieOf t.gid)) (stepLines c s F D g lo hi)
        if D.k ≤ hi then .ok t else gemmFrom c F D desc d fuel (step + n) (mark t (step + n))

/-- The checks of a long product's descriptor, in the order of R295. -/
def gemmChecks (d : Reg) (c : Ctx) (s : State) (bs : List Byte) : Option Nat :=
  let D := gemmOf bs
  let unf := if D.au then
      match s.t.unfold with
      | none => some 2
      | some u => if u.fmt ≠ cfgFmt c.cfg ∨ u.kh * u.kw * u.c ≠ D.k then some 26 else none
    else none
  if !gemmOk bs then some 26
  else
    match unf with
    | some e => some e
    | none => if tileFmt c && decide (c.vl ≤ 1024) && decide (d.toNat % cfgG c.cfg = 0) then none else some 2

/-- A long product (R277, R295), taking at most `fuel` steps now. -/
def mgemmBody (fuel : Nat) (d : Reg) (c : Ctx) (s : State) : Eff :=
  let run := fun (bs : List Byte) (step : Nat) =>
    match fpFmt (cfgFmt c.cfg) with
    | some F => gemmFrom c F (gemmOf bs) bs d.toNat fuel step s
    | none => matIllegal c s
  if c.vl = 0 then
    (if tileFmt c && decide (d.toNat % cfgG c.cfg = 0) then
      .ok (putGroup d.toNat (fun _ => denseWords 0 0) (cfgG c.cfg) s)
     else matIllegal c s)
  else if c.progress = 0 then
    if blocked s (descLines c s 64) then .hold s 0
    else
    let s := recallLines s (descLines c s 64)
    match readDesc c s with
    | .error e => .deny s e c.xa
    | .ok bs =>
      match gemmChecks d c s bs with
      | some 2 => matIllegal c s
      | some e => .deny s e c.xa
      | none => run bs 0
  else run (bytesOf 64 (c.progress / 2048)) (c.progress % 2048)

/-- `vx.mgemm` (R295): every step in one turn. -/
def execVxMgemm (d a : Reg) : State → Out := runVec (.vxMgemm d a) false (mgemmBody 1024 d)

end Sys2Proof.Machine
end

