-- ==== Sys2Proof/Machine/ConfigOps.lean ====
section
/-! DEFINITION. The CFG group, which the front end executes itself (R22, R31, R98 to R101). -/

namespace Sys2Proof.Machine

/-- A grant of `vl` with SHARE ← NEXT, then the hint (R98, R99): the hint never changes the share it comes with. -/
def grantVl (s : State) (d a b : Reg) : State :=
  let vl := Nat.min (getX s a).toNat (cfgVlmax s.t.vcfg)
  let hint : BitVec 8 := (getX s b).setWidth 8
  let s1 := { s with t := { s.t with vl := BitVec.ofNat 13 vl, share := s.t.nextShare } }
  let s2 :=
    if b = 0 ∨ hint = 0 ∨ hint = s.t.weight then s1
    else redivide { s1 with t := { s1.t with weight := hint } } (coreOf s.gid)
  retire (setX s2 d (word vl))

/-- `va.setvl` (R98). -/
def execVaSetvl (d a b : Reg) (s : State) : Out := .next (grantVl s d a b)

/-- `va.setvl.p` (R31, R98): the pre-emption point. -/
def execVaSetvlP (d a b : Reg) (s : State) : Out :=
  .next (
    if s.t.preempt.isNone then grantVl s d a b
    else if !s.t.queue.isEmpty then stall s
    else if pushBusy s s.t && !preemptSure s then grantVl s d a b
    else if preemptWaits s then stallSure s
    else takePreempt s s.t.pc)

/-- `va.setcfg` (R46, R100). -/
def execVaSetcfg (d a : Reg) (s : State) : Out :=
  let x := getX s a
  .next (
    if cfgLegal x then
      let new : Cfg := x.setWidth 12
      let vl := Nat.min s.t.vl.toNat (cfgVlmax new)
      retire (setX { s with t := { s.t with vcfg := new, vl := BitVec.ofNat 13 vl } } d (s.t.vcfg.setWidth 64))
    else illegal s (wordOf (.vaSetcfg d a)))

/-- `va.setkey` (R47, R101). -/
def execVaSetkey (d a : Reg) (s : State) : Out :=
  let x := getX s a
  .next (
    if keyLegal x then retire (setX { s with t := { s.t with vkey := x.setWidth 6 } } d (s.t.vkey.setWidth 64))
    else illegal s (wordOf (.vaSetkey d a)))

end Sys2Proof.Machine
end

