-- ==== Sys2Proof/Machine/ClaimOps.lean ====
section
/-! DEFINITION. The CLAIM group (R313, R314, R318 to R325). -/

namespace Sys2Proof.Machine

/-- The CLAIM trap: nothing is changed at the slice, `stval` is x[a] (R319). -/
def claimTrap (c : Ctx) (s : State) : Eff := .deny s 31 c.xa

/-- A reference answered DONE: the slot, the result, and the acquire with the entry's clock (R251, R320, R323). -/
def answerRef (s : State) (slot : Nat) (d : Reg) (slice entry : Nat) (gen : BitVec 24) (value : Word) (clock : Clock4) : State :=
  acquireWith (setX (putSlot s slot (.ref slice entry gen value)) d (value ||| 2)) clock

/-- `vx.claim` (R320). -/
def claimBody (d : Reg) (c : Ctx) (s : State) : Eff :=
  match freeSlot s.t.claims with
  | none => .ok (setX s d 3)
  | some i =>
    match slathClaim s s.gid c.xa c.xb with
    | (.maker h, t) => .ok (setX (putSlot t i (.maker h)) d h)
    | (.waiter h, t) => .ok (setX (putSlot t i (.future h)) d (h ||| 1))
    | (.done slice e gen v clk, t) => .ok (answerRef t i d slice e gen v clk)
    | (.busy, t) | (.held, t) | (.nack, t) | (.claim, t) => .ok (setX t d 3)

/-- `vx.claim` (R320). -/
def execVxClaim (d a b : Reg) : State → Out := runVec (.vxClaim d a b) true (claimBody d)

/-- `vx.fulfil` (R321): a release at SYSTEM scope, then the step at the entry. -/
def fulfilBody (c : Ctx) (s : State) : Eff :=
  match slotOf s c.xa true false with
  | none => claimTrap c s
  | some i =>
    if c.xb.toNat % 8 ≠ 0 ∨ canonical c.xb.toNat = false then claimTrap c s
    else
      let s := fenceAt s 5
      match slathFulfil s s.gid c.xa c.xb with
      | none => claimTrap c s
      | some t => .ok (putSlot t i .free)

/-- `vx.fulfil` (R321). -/
def execVxFulfil (a b : Reg) : State → Out := runVec (.vxFulfil a b) false fulfilBody

/-- `vx.abandon` (R322): a stale handle is dropped from the list, and CLAIM is raised. -/
def abandonBody (c : Ctx) (s : State) : Eff :=
  match slotOf s c.xa true true with
  | none => claimTrap c s
  | some i =>
    match slathAbandon s s.gid c.xa with
    | some t => .ok (putSlot t i .free)
    | none => claimTrap c (putSlot s i .free)

/-- `vx.abandon` (R322). -/
def execVxAbandon (a : Reg) : State → Out := runVec (.vxAbandon a) false abandonBody

/-- The answer that a strand's held future load of a handle has received (R316, R317). -/
def slathAnswer (s : State) (gid : Nat) (h : Word) : Option (Word × Clock4 × Bool) :=
  s.wire.findSome? fun w => match w with
    | .slath g f a k c => if g = gid ∧ f = handleBase h then some (a, k, c) else none
    | _ => none

/-- The wire without a strand's answered future load of a handle. -/
def dropSlath (s : State) (gid : Nat) (h : Word) : State :=
  { s with wire := s.wire.filter fun w => match w with
    | .slath g f _ _ _ => !(g == gid && f == handleBase h)
    | _ => true }

/-- Whether a strand's future load of a handle was answered NACK and waits to be resent (R316). -/
def fldNacked (s : State) (gid : Nat) (h : Word) : Bool :=
  s.wire.any fun w => match w with
    | .nackFld g f _ => g == gid && f == handleBase h
    | _ => false

/-- Whether an answer to a future load of a strand is in flight (R354). -/
def answerInFlight (s : State) (gid : Nat) : Bool :=
  s.wire.any fun w => match w with
    | .slath g _ _ _ _ => g == gid
    | _ => false

/-- What a future load's answer does (R323): DONE gives a reference, MAKER a claim handle. -/
def answerFld (d : Reg) (i : Nat) (c : Ctx) (s : State) (a : SlathAns) : Eff :=
  match a with
  | .done slice e gen v clk => .ok (answerRef s i d slice e gen v clk)
  | .maker h => .ok (setX (putSlot s i (.maker h)) d h)
  | .held | .busy | .waiter _ => .hold s 0
  | .nack => .hold { s with wire := s.wire ++ [.nackFld s.gid (handleBase c.xa) 64] } 0
  | .claim => claimTrap c s

/-- `vx.fld` (R314, R316, R323). -/
def fldBody (d : Reg) (c : Ctx) (s : State) : Eff :=
  match slotOf s c.xa false true with
  | none => claimTrap c s
  | some i =>
    match slathAnswer s s.gid c.xa with
    | some (a, clock, trap) =>
      let t := dropSlath s s.gid c.xa
      if trap then claimTrap c t
      else if bits a.toNat 0 3 = 2 then
        answerFld d i c t (.done (handleSlice c.xa) (handleEntry c.xa) (handleGen c.xa) (handleBase a) clock)
      else answerFld d i c t (.maker a)
    | none =>
      if fldNacked s s.gid c.xa then .hold s 0
      else
        let r := slathFld s s.gid c.xa
        answerFld d i c r.2 r.1

/-- `vx.fld` (R323). -/
def execVxFld (d a : Reg) : State → Out := runVec (.vxFld d a) true (fldBody d)

/-- `vx.fprobe` (R324). -/
def fprobeBody (d : Reg) (c : Ctx) (s : State) : Eff :=
  if handleTag c.xa = 0x5C ∨ handleTag c.xa = 0x5D then .ok (setX s d (slathProbe s s.gid c.xa)) else claimTrap c s

/-- `vx.fprobe` (R324). -/
def execVxFprobe (d a : Reg) : State → Out := runVec (.vxFprobe d a) true (fprobeBody d)

/-- The step of `vx.release` on the reference in a slot (R314, R325): one whose entry an uncorrectable error freed is given up
without the slice; any other stale one raises CLAIM. -/
def releaseSlot (s : State) (i : Nat) : Option State :=
  match s.t.claims.getD i .free with
  | .ref slice n gen _ =>
    if (sliceAt s slice).lost.contains (n, gen) then some (putSlot s i .free)
    else (slathRelease s slice n gen).map fun t => putSlot t i .free
  | _ => none

/-- `vx.release` (R325). -/
def releaseBody (c : Ctx) (s : State) : Eff :=
  match (refSlotOf s c.xa).bind (releaseSlot s) with
  | some t => .ok t
  | none => claimTrap c s

/-- `vx.release` (R325). -/
def execVxRelease (a : Reg) : State → Out := runVec (.vxRelease a) false releaseBody

end Sys2Proof.Machine
end

