-- ==== Sys2Proof/Machine/TaskOps.lean ====
section
/-! DEFINITION. The TASK group: spawning, edges, grouped launches, yielding, levels, the end of a task (R114, R285, R298,
R334 to R337). -/

namespace Sys2Proof.Machine

/-- Nodes that a die's ready pool holds, those of grouped launches among them (R285, R332). -/
def poolCount (s : State) (die : Nat) : Nat :=
  (s.launches.map fun l => (l.nodes.filter fun n => n.1 == die).length).sum +
    ((s.blocks.filter fun b => b.1 / 4 == die).map fun b => (b.2.nodes.filter fun n => decide (n.status < 2)).length).sum

/-- Whether a node index of a die's pool is taken. -/
def nodeTaken (s : State) (die idx : Nat) : Bool := s.launches.any fun l => l.nodes.contains (die, idx)

/-- The lowest free node index of a die's pool of 4,096 (R332). -/
def freeNode (s : State) (die : Nat) : Option Nat :=
  if 4096 ≤ poolCount s die then none else firstTo (fun i => !nodeTaken s die i) 4096

/-- A node placed in a die's pool: its index, and the generation advanced (R334). -/
def takeNode (s : State) (die idx : Nat) : State :=
  { s with nodeGen := sput 0 s.nodeGen (die * 4096 + idx) (sget 0 s.nodeGen (die * 4096 + idx) + 1) }

/-- The handle of a node (R334). -/
def nodeHandle (s : State) (die idx : Nat) : Word :=
  word (idx + die * 2 ^ 12 + (sget 0 s.nodeGen (die * 4096 + idx)).toNat * 2 ^ 16 + 0x5E * 2 ^ 56)

/-- Whether a value has handle form (R335). -/
def handleForm (h : Word) : Bool :=
  decide (bits h.toNat 56 8 = 0x5E) && decide (bits h.toNat 40 16 = 0) && decide (bits h.toNat 14 2 = 0)

/-- The launch of a current handle (R335). -/
def launchOfHandle (s : State) (h : Word) : Option Launch :=
  let idx := bits h.toNat 0 12
  let die := bits h.toNat 12 2
  if handleForm h && decide ((sget 0 s.nodeGen (die * 4096 + idx)).toNat = bits h.toNat 16 24) then
    s.launches.find? fun l => l.nodes.contains (die, idx)
  else none

/-- The dispatch order and id of the task on the focus strand. -/
def taskTag (s : State) : Option (Nat × BitVec 32) := s.t.task.map fun k => (k.order, k.id)

/-- `vx.spawn` (R334); at VL = 0 it touches no memory and writes zero (R23). -/
def spawnBody (d : Reg) (c : Ctx) (s : State) : Eff :=
  if c.vl = 0 then .ok (setX s d 0)
  else if c.xa.toNat % 64 ≠ 0 then .deny s 4 c.xa
  else if blocked s (descLines c s 256) then .hold s 0
  else
    let s := recallLines s (descLines c s 256)
    match vLocs c s .read c.xa.toNat 256 with
    | .error e => .deny s e c.xa
    | .ok locs =>
      if locs.any fun l => s.errs.contains (lineOf l) then .deny s 27 c.xa
      else
        let s := performFence s 3
        let r := locs.map (rdNear s)
        let die := dieOf s.gid
        if recValid r = false ∨ 3 < topScope (levelsOf r) then .ok (setX s d 1)
        else
          match freeNode s die with
          | none => .ok (setX s d 0)
          | some idx =>
            let s := takeNode s die idx
            let l : Launch :=
              { key := s.nextKey, image := r, queue := none, xl := some c.xl, spawner := taskTag s, hold := recHold r == 1
                edges := [], nodes := [(die, idx)], ready := [], doneClock := Clock4.zero, clock := clockAt s (dieOf s.gid), place := none, started := []
                ended := [] }
            .ok (setX { s with launches := s.launches ++ [l], nextKey := s.nextKey + 1 } d (nodeHandle s die idx))

/-- `vx.spawn` (R334). -/
def execVxSpawn (d a : Reg) : State → Out := runVec (.vxSpawn d a) true (spawnBody d)

/-- The effect of `vx.dep` and its result (R335). -/
def depResult (s : State) (S P : Word) : Bool × State :=
  match launchOfHandle s S with
  | none => (false, s)
  | some l =>
    if l.hold = false ∨ l.spawner = none ∨ l.spawner ≠ taskTag s then (false, s)
    else if P = 0 then (true, putLaunch s { l with hold := false })
    else
      match launchOfHandle s P with
      | some p =>
        let live := l.edges.filter fun k => (launchOf s k).isSome
        if p.hold ∨ 4 ≤ live.length then (false, s) else (true, putLaunch s { l with edges := live ++ [p.key] })
      | none => (handleForm P, s)

/-- `vx.dep` (R335). -/
def execVxDep (d a b : Reg) : State → Out :=
  runVec (.vxDep d a b) true fun c s =>
    let r := depResult s c.xa c.xb
    .ok (setX r.2 d (if r.1 then 1 else 0))

/-- The grouped-launch block of a strand, die · 4 + block (R285). -/
def blockOf (gid : Nat) : Nat := dieOf gid * 4 + clusterOf gid % 8 / 2

/-- `vx.glaunch` (R269, R285, R298): the fence, then the request, accepted while the block's queue has room; at VL = 0 neither
(R23). -/
def glaunchBody (c : Ctx) (s : State) : Eff :=
  if c.vl = 0 then .ok s
  else if c.xa.toNat % 64 ≠ 0 then .deny s 4 c.xa
  else
    let s := performFence s 3
    let k := blockAt s (blockOf s.gid)
    if 8 ≤ k.queue.length then .wait s 0
    else
      let q : GRequest := ⟨c.xa, c.xl, (s.t.task.map fun t => t.prio).getD 0, s.t.weight.toNat, s.gid⟩
      .ok (putBlock s (blockOf s.gid) { k with queue := k.queue ++ [q] })

/-- `vx.glaunch` (R298). -/
def execVxGlaunch (a : Reg) : State → Out := runVec (.vxGlaunch a) false glaunchBody

/-- `vx.lvl` (R337). -/
def execVxLvl (d a : Reg) : State → Out :=
  runVec (.vxLvl d a) true fun c s =>
    .ok (setX s d (word (match s.t.task with
      | some k => lvlResult (k.levels.map BitVec.toNat) k.index k.total c.xa.toNat
      | none => lvlResult [] 0 0 c.xa.toNat)))

/-- Whether some strand of a core passes a test. -/
def onCore (core : Nat) (f : Nat → Bool) : Bool := (List.range 4).any fun j => f (core * 4 + j)

/-- Whether a launch whose node is ready on a core's die waits for a strand of the core (R336): one of them could take a task of it. -/
def waitsFor (l : Launch) (core : Nat) : Bool := (l.ready.any fun p => p.1 == core / 128) && onCore core (couldTake l)

/-- Whether a node of a grouped launch waits on a core's die at a priority (R285, R336). -/
def glaunchWaits (s : State) (core prio : Nat) : Bool :=
  s.blocks.any fun p => p.1 / 4 == core / 128 && p.2.nodes.any fun n =>
    n.status == 0 && p.2.served.any fun v => v.serial == n.serial && decide (prio ≤ v.req.prio)

/-- Whether `vx.yield` finds a ready node of priority at least the task's own (R336), a suspended context's among them (R356). -/
def readyWaits (s : State) : Bool :=
  let prio := (s.t.task.map fun k => k.prio).getD 0
  let core := coreOf s.gid
  (s.launches.any fun l => decide (prio ≤ recPrio l.image) && waitsFor l core) ||
    (s.suspended.any fun c => (c.saved.task.any fun k => decide (prio ≤ k.prio)) && onCore core (mayResume s c)) ||
    glaunchWaits s core prio

/-- `vx.yield` (R336). -/
def execVxYield (s : State) : Out :=
  whenDrained (fun s =>
    if preemptSure s || (s.t.task.isSome && (s.t.preempt.isSome || readyWaits s) && !pushBusy s s.t) then
      (if preemptWaits s then stallSure s else takePreempt s (s.t.pc + 4))
    else retire s) s

/-- `vx.end` (R114, R115). -/
def execVxEnd (s : State) : Out :=
  .next (
    if s.t.task.isNone then illegal s (wordOf .vxEnd)
    else if !s.t.queue.isEmpty || copiesOpen s s.gid || closeLocked s s.gid then stall s
    else if s.t.cfault ≠ 0 then scalarTrap s 28 (word (lowestTag s.t.cfault))
    else endTaskOn s s.gid false 0)

end Sys2Proof.Machine
end

