-- ==== Sys2Proof/Machine/SysOps.lean ====
section
/-! DEFINITION. The SYS group and the returns from traps (R347 to R358, R379 to R387). -/

namespace Sys2Proof.Machine

/-- The context-table entry of the focus strand's task. -/
def ctxOfFocus (s : State) : Nat := (s.t.task.map fun k => k.ctx).getD 0

/-- The watchdog period in arithmetic clocks, from WDOG of the context descriptor (R348, R358). -/
def watchdogPeriod (s : State) (t : Strand) : Nat := (descRead s t.sdescNow 6 2).getD 0 * 100 * s.handle.clockMhz

/-- The focus strand's watchdog reloaded (R358): it runs while STATE is ACTIVE. -/
def reloadWatchdog (s : State) : State :=
  let n := watchdogPeriod s s.t
  { s with t := { s.t with watchdog := if n ≠ 0 ∧ s.t.ctxState = .active then s.clock + n else n } }

/-- A strand with its vector and mask state as after a pre-emption (R32). -/
def clearVectors (t : Strand) : Strand :=
  { t with
    v := Vector.replicate 32 VReg.zero
    k := Vector.replicate 8 0
    pending := Vector.replicate 32 none
    granted := []
    queue := []
    replay := none
    place := 0
    bound := none
    wake := false
    unfold := none }

/-- The focus strand's context leaves it with a saved strand and the images of its frames (R354, R356, R380): the strand
becomes idle, the generation advances, the lanes are divided again. -/
def leaveStrand (s : State) (forced : Bool) (bound : Option Nat) (seeds : List (Nat × Nat)) (records : List Record)
    (saved : Strand) : State :=
  let saved := { saved with gen := s.t.gen + 1, reservation := none, preempt := none, ctxState := if forced then .forced else .preempted }
  let c : Suspended := ⟨ctxOfFocus s, seeds, forced, bound, s.gid, s.clock, records, saved⟩
  let idle := { idleStrand s.t saved.ctxState with gen := s.t.gen + 1 }
  redivide { s with t := idle, suspended := s.suspended ++ [c] } (coreOf s.gid)

/-- A scalar frame as the strand leaves: `vcp` and `vshare` are not in it and stay as they are (R20, R29, R32). -/
def framedStrand (t saved : Strand) : Strand :=
  { clearVectors saved with pend := t.pend, vcpPc := t.vcpPc, weight := t.weight, sbaseNow := t.sbaseNow, sdescNow := t.sdescNow }

/-- The context gives its strand up (R356, R380). -/
def giveUp (s : State) : State :=
  let s := latch s
  let bound := if s.t.pend then some s.gid else none
  if !areaOk s s.t.sbaseNow s.t.sdescNow then contextLost s 128
  else
    match s.t.ctxState, s.scalarFrames.find? fun p => p.ctx == ctxOfFocus s with
    | .preempted, some p =>
      leaveStrand { s with scalarFrames := s.scalarFrames.filter fun q => q.ctx != ctxOfFocus s } false bound [(0, p.seed)] []
        (framedStrand s.t p.saved)
    | _, _ =>
      match writeImage s s.t.sbaseNow.toNat 4096 with
      | none => contextLost s 128
      | some (s, seed) =>
        match descWrite s s.t.sdescNow 8 [stateByte .preempted s.t.pend] with
        | none => contextLost s 128
        | some s => leaveStrand s false bound [(0, seed)] [] (framedStrand s.t { s.t with pc := s.t.pc + 4 })

/-- `vx.save` (R56, R380). A code of 128 or more is illegal at the operand check, as a vector instruction's operand is (R28): `vcp.PC` is
its address and `xepc` the next instruction's. -/
def execVxSave (a : Reg) (s : State) : Out :=
  let code := (getX s a).toNat
  .next (
    if !privileged s then illegal s (wordOf (.vxSave a))
    else if !s.t.queue.isEmpty || copiesOpen s s.gid then stall s
    else if 128 ≤ code then
      vectorTrap s (retire s) (pushEntry s (.vxSave a)) [] 2 ((wordOf (.vxSave a)).setWidth 64) (s.t.pc + 4)
    else if s.t.task.isNone then retire s
    else if saveLocked s || closeLocked s s.gid then stall s
    else if code = 0 then giveUp s
    else failTaskOn s s.gid false code)

/-- A frame reloaded (R219, R352): its entries at the head of the queue, its mappings, its records, PEND 0, and the binding of its
push (R357). -/
def reloadFrame (s : State) (f : Frame) : State :=
  let s := f.vregs.foldl (fun s p => setV s p.1 p.2) s
  let s := f.kregs.foldl (fun s p => setK s (BitVec.ofNat 3 p.1) p.2) s
  { s with
    t := { s.t with queue := f.entries, place := 0, pend := false, bound := f.entries.head?.bind fun e => e.bound }
    records := s.records ++ f.records
    frames := s.frames.filter fun p => p.1 != ctxOfFocus s }

/-- `vx.restore` on an empty queue (R348, R352, R355, R358, R381): a frame that is not the one written, or that meets an
uncorrectable error, is not loaded. -/
def restoreNow (s : State) : State :=
  let s := reloadWatchdog (latch s)
  if !s.t.pend then retire s
  else if !areaOk s s.t.sbaseNow s.t.sdescNow then contextLost s 128
  else
    match s.frames.find? fun p => p.1 == ctxOfFocus s with
    | none => contextLost s 130
    | some p =>
      if !imageOk s (s.t.sbaseNow.toNat + 0x1000) p.2.seed then contextLost s 130
      else
        let s := reloadFrame s p.2
        match descWrite s s.t.sdescNow 8 [stateByte s.t.ctxState false] with
        | none => contextLost s 128
        | some s => retire s

/-- `vx.restore` (R56, R381). -/
def execVxRestore (s : State) : Out :=
  if !privileged s then .next (illegal s (wordOf .vxRestore))
  else whenDrained (fun s => if saveLocked s then stall s else restoreNow s) s

/-- `vx.vdrain` (R382). -/
def execVxVdrain (s : State) : Out := whenDrained retire s

/-- The scope that `vx.icinv` takes from x[a] (R383). -/
def icScope (x : Word) : Nat := if x.toNat ≤ 1 then 1 else Nat.min 4 x.toNat

/-- Whether a core lies within a scope of another core. -/
def coreWithin (scope core other : Nat) : Bool :=
  match scope with
  | 1 => core == other
  | 2 => core / 16 == other / 16
  | 3 => core / 128 == other / 128
  | _ => true

/-- Instruction caches within a scope of a core emptied. -/
def dropIcache (s : State) (scope core : Nat) : State :=
  { s with icache := s.icache.filter fun p => !coreWithin scope core p.1 }

/-- `vx.icinv` (R383). -/
def execVxIcinv (a : Reg) : State → Out :=
  runVec (.vxIcinv a) false fun c s => .ok (dropIcache (performFence s (icScope c.xa)) (icScope c.xa) (coreOf s.gid))

/-- Whether an invalidation matches a TLB entry (R365, R384): `va` none names every address, `asid` none every ASID. -/
def invMatches (va asid : Option Nat) (e : TlbEntry) : Bool :=
  (match va with
   | none => true
   | some a => e.vpage == a / 2 ^ (12 + 9 * e.level)) &&
  (match asid with
   | none => true
   | some n => !e.global && e.asid == n)

/-- The translation that an entry holds marked as removed where an invalidation matches it. -/
def markStale (va asid : Option Nat) (e : QEntry) : QEntry :=
  { e with held := e.held.map fun h => if invMatches va asid h then { h with stale := true } else h }

/-- What an invalidation does to a strand (R259, R384): the translations that its entries hold are marked; a `vm.gcsleep` that waits at
the head with an armed page that matches is woken. -/
def invalidateStrand (va asid : Option Nat) (t : Strand) : Strand :=
  let asleep := t.queue.head?.any fun e => !e.done && e.held.any (invMatches va asid) && match e.instr with
    | .vmGcsleep _ _ _ _ => true
    | _ => false
  { t with wake := t.wake || asleep, queue := t.queue.map (markStale va asid) }

/-- The pages that a copy has translated marked as removed where an invalidation matches them. -/
def stalePages (va asid : Option Nat) (j : CopyJob) : CopyJob :=
  { j with pages := j.pages.map fun p => if pageUnder j p va asid then { p with stale := true } else p }

/-- The invalidation throughout the package (R384, R393): TLB entries, sleepers, and every write applied at every guest; what runs
under a translation that it removes is marked. -/
def tlbInvalidate (s : State) (va asid : Option Nat) : State :=
  let s := { s with
    tlbs := s.tlbs.filter fun e => !invMatches va asid e
    copies := s.copies.map (stalePages va asid)
    t := invalidateStrand va asid s.t }
  let s := (s.peers.map Prod.fst).foldl (fun s g => putStrand s g (invalidateStrand va asid (strandAt s g))) s
  [0, 1, 2, 3].foldl drainUpdates s

/-- Whether an access runs under a translation that an invalidation of an address and an ASID has removed (R384): of a copy, or of an
instruction of some strand that has translated and is not complete. -/
def staleUnder (s : State) (va asid : Option Nat) : Bool :=
  copyUnder s va asid || (s.gid :: s.peers.map Prod.fst).any fun g =>
    (strandAt s g).queue.any fun e => !e.done && e.held.any fun h => h.stale && invMatches va asid h

/-- `vx.tlbinv` (R56, R384): the invalidation, then the wait for every access under a translation that it removed. -/
def execVxTlbinv (a b : Reg) (s : State) : Out :=
  if !privileged s && s.t.replay.isNone then .next (illegal s (wordOf (.vxTlbinv a b)))
  else
    runVec (.vxTlbinv a b) false
      (fun c s =>
        let va := if a = 0 then none else some c.xa.toNat
        let asid := if b = 0 then none else some (c.xb.toNat % 2 ^ 16)
        let s := if c.progress = 0 then tlbInvalidate s va asid else s
        if staleUnder s va asid then .wait s 1 else .ok s) s

/-- `vx.wdpet` (R385). -/
def execVxWdpet : State → Out := runVec .vxWdpet false fun _ s => .ok (reloadWatchdog s)

/-- What a return adds on this device (R387): from STATE PREEMPTED the context becomes ACTIVE and its scalar frame is
discarded; `f` is the standard return. -/
def returnWith (f : State → State) (s : State) : State :=
  if s.t.ctxState = .preempted ∧ s.t.task.isSome then
    if physLocked s s.t.sdescNow.toNat 64 then stall s
    else
    match descWrite s s.t.sdescNow 8 [stateByte .active s.t.pend] with
    | none => contextLost s 128
    | some s => f { s with
        t := { s.t with
          ctxState := .active
          watchdog := if s.t.watchdog = 0 then 0 else s.clock + s.t.watchdog }
        scalarFrames := s.scalarFrames.filter fun p => p.ctx != ctxOfFocus s }
  else f s

/-- A return retired: `minstret` counts it; the pc is the return's. -/
def counted (s : State) : State := retireTo s s.t.pc

/-- `sret` (R387): illegal in user mode, and in supervisor mode with TSR. -/
def execSret (s : State) : Out :=
  .next (
    if s.t.mode = .user ∨ (s.t.mode = .supervisor ∧ s.t.mstatus.getLsbD 22) then illegal s (wordOf .sret)
    else returnWith (fun s => counted (leaveTrapS s)) s)

/-- `mret` (R387): illegal below machine mode. -/
def execMret (s : State) : Out :=
  .next (if s.t.mode ≠ .machine then illegal s (wordOf .mret) else returnWith (fun s => counted (leaveTrapM s)) s)

/-- The firmware's answer to an ecall from supervisor mode (R350): a0 = −1, and the return to the instruction after it. -/
def execEcallFromS (s : State) : Out :=
  if s.t.firmware && s.t.mcause == 9 then
    .next (returnWith (fun s => leaveTrapM (setX { s with t := { s.t with mepc := s.t.mepc + 4 } } 10 0xFFFFFFFFFFFFFFFF)) s)
  else .next s

end Sys2Proof.Machine
end

