-- ==== Sys2Proof/Machine/ScalarOps.lean ====
section
/-! DEFINITION. The scalar instructions of RV64I, M, A, Zba, Zbb, Zifencei (R35, R36, R182, R242, R360). -/

namespace Sys2Proof.Machine

/-- Sign extension of a 32-bit result. -/
def sx32 (x : BitVec 32) : Word := x.signExtend 64

/-- The low 32 bits. -/
def lo32 (x : Word) : BitVec 32 := x.setWidth 32

/-- The low 32 bits, zero-extended. -/
def zx32 (x : Word) : Word := (lo32 x).setWidth 64

/-- A truth value as a word. -/
def ofBool (b : Bool) : Word := if b then 1 else 0

/-- Quotients and remainders of the M extension: division by zero gives all ones, and the dividend as remainder; the signed
overflow gives the dividend, and remainder 0. -/
def divS {n : Nat} (x y : BitVec n) : BitVec n := if y = 0 then BitVec.allOnes n else x.sdiv y
/-- Unsigned division of the M extension. -/
def divU {n : Nat} (x y : BitVec n) : BitVec n := if y = 0 then BitVec.allOnes n else x / y
/-- Signed remainder of the M extension. -/
def remS {n : Nat} (x y : BitVec n) : BitVec n := if y = 0 then x else x.srem y
/-- Unsigned remainder of the M extension. -/
def remU {n : Nat} (x y : BitVec n) : BitVec n := if y = 0 then x else x % y

/-- The high half of an exact product. -/
def highHalf (p : Int) : Word := BitVec.ofInt 64 (p / ((2 ^ 64 : Nat) : Int))

/-- A register-register operation of RV64I, M, Zba or Zbb. -/
def alu (op : AluOp) (x y : Word) : Word :=
  let s := y.toNat % 64
  let s5 := y.toNat % 32
  match op with
  | .add => x + y
  | .sub => x - y
  | .sll => x <<< s
  | .slt => ofBool (x.slt y)
  | .sltu => ofBool (x.ult y)
  | .xor => x ^^^ y
  | .srl => x >>> s
  | .sra => x.sshiftRight s
  | .or => x ||| y
  | .and => x &&& y
  | .addw => sx32 (lo32 x + lo32 y)
  | .subw => sx32 (lo32 x - lo32 y)
  | .sllw => sx32 (lo32 x <<< s5)
  | .srlw => sx32 (lo32 x >>> s5)
  | .sraw => sx32 ((lo32 x).sshiftRight s5)
  | .mul => x * y
  | .mulh => highHalf (x.toInt * y.toInt)
  | .mulhsu => highHalf (x.toInt * y.toNat)
  | .mulhu => highHalf (x.toNat * y.toNat)
  | .div => divS x y
  | .divu => divU x y
  | .rem => remS x y
  | .remu => remU x y
  | .mulw => sx32 (lo32 x * lo32 y)
  | .divw => sx32 (divS (lo32 x) (lo32 y))
  | .divuw => sx32 (divU (lo32 x) (lo32 y))
  | .remw => sx32 (remS (lo32 x) (lo32 y))
  | .remuw => sx32 (remU (lo32 x) (lo32 y))
  | .addUw => zx32 x + y
  | .sh1add => (x <<< 1) + y
  | .sh2add => (x <<< 2) + y
  | .sh3add => (x <<< 3) + y
  | .sh1addUw => (zx32 x <<< 1) + y
  | .sh2addUw => (zx32 x <<< 2) + y
  | .sh3addUw => (zx32 x <<< 3) + y
  | .andn => x &&& ~~~y
  | .orn => x ||| ~~~y
  | .xnor => ~~~(x ^^^ y)
  | .min => if x.slt y then x else y
  | .max => if x.slt y then y else x
  | .minu => if x.ult y then x else y
  | .maxu => if x.ult y then y else x
  | .rol => x.rotateLeft s
  | .ror => x.rotateRight s
  | .rolw => sx32 ((lo32 x).rotateLeft s5)
  | .rorw => sx32 ((lo32 x).rotateRight s5)

/-- A register-immediate operation; the immediate is sign-extended. -/
def aluImm (op : ImmOp) (x i : Word) : Word :=
  match op with
  | .addi => x + i
  | .slti => ofBool (x.slt i)
  | .sltiu => ofBool (x.ult i)
  | .xori => x ^^^ i
  | .ori => x ||| i
  | .andi => x &&& i
  | .addiw => sx32 (lo32 x + lo32 i)

/-- A shift by an immediate amount. -/
def shiftImm (op : ShiftOp) (x : Word) (n : Nat) : Word :=
  match op with
  | .slli => x <<< n
  | .srli => x >>> n
  | .srai => x.sshiftRight n
  | .rori => x.rotateRight n
  | .slliUw => zx32 x <<< n

/-- A word shift by an immediate amount. -/
def shiftWImm (op : ShiftWOp) (x : BitVec 32) (n : Nat) : Word :=
  match op with
  | .slliw => sx32 (x <<< n)
  | .srliw => sx32 (x >>> n)
  | .sraiw => sx32 (x.sshiftRight n)
  | .roriw => sx32 (x.rotateRight n)

/-- Trailing zeros of an n-bit pattern; n where it is 0. -/
def trailing (n x : Nat) : Nat := (firstTo (fun i => decide (bits x i 1 = 1)) n).getD n

/-- The number of ones among n bits. -/
def ones (n x : Nat) : Nat := countTo (fun i => decide (bits x i 1 = 1)) n

/-- A unary operation of Zbb. -/
def unary (op : UnOp) (x : Word) : Word :=
  match op with
  | .clz => word (64 - bitLen x.toNat)
  | .ctz => word (trailing 64 x.toNat)
  | .cpop => word (ones 64 x.toNat)
  | .clzw => word (32 - bitLen (lo32 x).toNat)
  | .ctzw => word (trailing 32 x.toNat)
  | .cpopw => word (ones 32 x.toNat)
  | .sextB => (x.setWidth 8).signExtend 64
  | .sextH => (x.setWidth 16).signExtend 64
  | .zextH => (x.setWidth 16).setWidth 64
  | .orcB => word (ofBytes ((bytesOf 8 x.toNat).map fun b => if b = 0 then 0 else 0xFF))
  | .rev8 => word (ofBytes (bytesOf 8 x.toNat).reverse)

/-- Whether a branch is taken. -/
def taken (op : BranchOp) (x y : Word) : Bool :=
  match op with
  | .beq => decide (x = y)
  | .bne => decide (x ≠ y)
  | .blt => x.slt y
  | .bge => !x.slt y
  | .bltu => x.ult y
  | .bgeu => !x.ult y

/-- A jump to a target, with the link written: cause 0 where the target is not a multiple of 4 (R36). -/
def jumpTo (s : State) (rd : Reg) (target : Word) : State :=
  if target.toNat % 4 ≠ 0 then scalarTrap s 0 target else retireTo (setX s rd (s.t.pc + 4)) target

/-- A 12-bit immediate, sign-extended. -/
def imm12 (i : BitVec 12) : Word := i.signExtend 64

/-- The cause of an ecall by mode. -/
def ecallCause (m : Mode) : Nat :=
  match m with
  | .user => 8
  | .supervisor => 9
  | .machine => 11

/-- The ordinary instructions of RV64I, M, Zba and Zbb (R35, R36). -/
def scalarStep (op : ScalarOp) (s : State) : State :=
  match op with
  | .lui rd u => retire (setX s rd ((u ++ 0#12).signExtend 64))
  | .auipc rd u => retire (setX s rd (s.t.pc + (u ++ 0#12).signExtend 64))
  | .jal rd off => jumpTo s rd (s.t.pc + (off ++ 0#1).signExtend 64)
  | .jalr rd rs1 i => jumpTo s rd ((getX s rs1 + imm12 i) &&& ~~~1#64)
  | .branch op rs1 rs2 off =>
    if taken op (getX s rs1) (getX s rs2) then jumpTo s 0 (s.t.pc + (off ++ 0#1).signExtend 64) else retire s
  | .opImm op rd rs1 i => retire (setX s rd (aluImm op (getX s rs1) (imm12 i)))
  | .shift op rd rs1 n => retire (setX s rd (shiftImm op (getX s rs1) n.toNat))
  | .shiftW op rd rs1 n => retire (setX s rd (shiftWImm op (lo32 (getX s rs1)) n.toNat))
  | .op op rd rs1 rs2 => retire (setX s rd (alu op (getX s rs1) (getX s rs2)))
  | .unary op rd rs1 => retire (setX s rd (unary op (getX s rs1)))
  | .ecall => scalarTrap s (ecallCause s.t.mode) 0
  | .ebreak => scalarTrap s 3 (if Config.breakpointAddress then s.t.pc else 0)

/-- SCALAR_INSTRUCTION (R35). -/
def execScalarInstruction (op : ScalarOp) (s : State) : Out := .next (scalarStep op s)

/-- A word that the decode check refuses (R57): the illegal-instruction trap with the word. -/
def execReservedWord (w : InstrWord) (s : State) : Out := .next (illegal s w)

/-- `fence` (R36, R242): the scalar accesses before it have been performed; it does not wait for the vector queue. -/
def execScalarFence (_ _ _ : BitVec 4) (_ _ : Reg) (s : State) : Out := .next (retire s)

/-- `fence.i` (R36, R383): the vector queue drains, then the core's instruction cache is emptied. -/
def execFenceI (_ : BitVec 12) (_ _ : Reg) (s : State) : Out :=
  whenDrained (fun s => retire (dropIcache s 1 (coreOf s.gid))) s

/-- `sfence.vma` (R36, R368): the entries of the core's L1 TLB and its cluster's L2 TLB. -/
def execSfenceVma (rs1 rs2 : Reg) (s : State) : Out :=
  let va := if rs1 = 0 then none else some (getX s rs1).toNat
  let asid := if rs2 = 0 then none else some ((getX s rs2).toNat % 2 ^ 16)
  let near : TlbEntry → Bool := fun e =>
    if e.l2 then e.core == clusterOfCore (coreOf s.gid) else e.core == coreOf s.gid
  if s.t.mode = .user ∨ (s.t.mode = .supervisor ∧ s.t.mstatus.getLsbD 20) then
    .next (illegal s (wordOf (.sfenceVma rs1 rs2)))
  else whenDrained (fun s => retire { s with tlbs := s.tlbs.filter fun e => !(near e && invMatches va asid e) }) s

/-- An interrupt that is pending and enabled, whatever SIE holds: it ends `wfi` (R344). -/
def wakePending (s : State) : Bool := (pendingIntr s).any fun c => intrEnabled s c

/-- `wfi` (R36, R344): the scalar stream stops until an interrupt is pending; illegal in user mode, and in supervisor mode
under TW, where it would not complete at once. -/
def execWfi (s : State) : Out :=
  .next (
    if wakePending s then retire s
    else if s.t.mode = .user ∨ (s.t.mode = .supervisor ∧ s.t.mstatus.getLsbD 21) then illegal s (wordOf .wfi)
    else retire { s with t := { s.t with waiting := true } })

/-- The translation of a scalar data access: MPRV makes a machine-mode access act in the mode of MPP. -/
def xlateData (s : State) : Xlate :=
  if s.t.mode = .machine ∧ s.t.mstatus.getLsbD 17 then { xlateNow s with mode := mppOf s.t.mstatus } else xlateNow s

/-- The cause of a scalar access whose translation fails (R364). -/
def sCause (acc : Acc) (f : XFault) : Nat :=
  match f, acc with
  | .dataErr, _ => 27
  | .page, .fetch => 12
  | .page, .read => 13
  | .page, .write => 15
  | .access, .fetch => 1
  | .access, .read => 5
  | .access, .write => 7

/-- Whether a scalar load of a location hits its core's scalar L1 (R182). -/
def hitsL1 (s : State) (loc : Nat) : Bool := isDevice loc && s.l1.contains (coreOf s.gid, lineOf loc)

/-- Whether a scalar fill of a line waits for an invalidation of it, or for a write that waits for one, on the die that serves it (R183). -/
def fillWaits (s : State) (die line : Nat) : Bool :=
  (s.invals.any fun p => p.2 == line && (p.1 / 8 == die || p.1 / 8 == homeDie line)) || s.waits.any fun w => w.line == line

/-- A scalar data access of `n` bytes: misalignment, translation, the range check; then what it does at the location. Its walk waits for a
locked PTE, and the access for a line that a vector atomic holds (R255); one that an engine owns is recalled (R194). A load that hits the
scalar L1 (`l1`) asks no slice (R182). -/
def scalarAccess (s : State) (acc : Acc) (l1 : Bool) (misaligned n : Nat) (va : Word) (f : State → Nat → State) : State :=
  if va.toNat % n ≠ 0 then scalarTrap s misaligned va
  else if walkWaits s (coreOf s.gid) (xlateData s) va.toNat then stall s
  else
    match locate s (coreOf s.gid) (xlateData s) acc va.toNat with
    | .error e => scalarTrap s (sCause acc e) va
    | .ok (loc, _) =>
      if !isDevice loc || (l1 && hitsL1 s loc) then f s loc
      else if blocked s [lineOf loc] then stall s
      else f (recallLine s (lineOf loc)) loc

/-- Bytes of a load. -/
def loadBytes : LoadKind → Nat
  | .lb | .lbu => 1
  | .lh | .lhu => 2
  | .lw | .lwu => 4
  | .ld => 8

/-- The value of a load from its bytes. -/
def loadValue (k : LoadKind) (n : Nat) : Word :=
  match k with
  | .lb => (BitVec.ofNat 8 n).signExtend 64
  | .lh => (BitVec.ofNat 16 n).signExtend 64
  | .lw => (BitVec.ofNat 32 n).signExtend 64
  | .ld | .lbu | .lhu | .lwu => word n

/-- What a scalar load leaves in the caches (R182, R183, R185): a hit refreshes the scalar L1's line; a miss inserts the line in the slice
that serves it, at high priority, and fills the L1. -/
def scalarFill (s : State) (line : Nat) : State :=
  let s := if s.l1.contains (coreOf s.gid, line) then s else cacheLine s (servingSlice s (dieOf s.gid) line) line true true
  fillL1 s (coreOf s.gid) line

/-- A scalar load's value and what it leaves (R182, R244): the line's clock is noted and the caches hold it. -/
def finishLoad (k : LoadKind) (rd : Reg) (s : State) (loc : Nat) : State :=
  let v := loadValue k (ofBytes (readBytes s (dieOf s.gid) loc (loadBytes k)))
  let line := lineOf loc
  retire (setX (if isDevice loc then scalarFill (noteScalar s (nearClock s (dieOf s.gid)) [line]) line else s) rd v)

/-- A scalar load (R36, R147, R182, R183, R360): a hit is served by the scalar L1; a miss waits for an outstanding invalidation of its
line. -/
def scalarLoadStep (k : LoadKind) (rd rs1 : Reg) (imm : BitVec 12) (s : State) : State :=
  let va := getX s rs1 + imm12 imm
  scalarAccess s .read true 4 (loadBytes k) va fun s loc =>
    let s := awaitScalar s (lineOf loc)
    if hitsL1 s loc then finishLoad k rd s loc
    else if isDevice loc && fillWaits s (dieOf s.gid) (lineOf loc) then stall s
    else if readFails s loc (loadBytes k) then scalarTrap s 27 va
    else finishLoad k rd s loc

/-- SCALAR_LOAD (R182). -/
def execScalarLoad (k : LoadKind) (rd rs1 : Reg) (imm : BitVec 12) (s : State) : Out :=
  .next (scalarLoadStep k rd rs1 imm s)

/-- Bytes of a store. -/
def storeBytes : StoreKind → Nat
  | .sb => 1
  | .sh => 2
  | .sw => 4
  | .sd => 8

/-- What a strand's scalar store at a device location has replaced, kept until its next `vm.fence` (R248), after the store; what an earlier one
replaced in the line stands where nothing else has written the line since. -/
def noteUnfenced (s : State) (loc n : Nat) (t : State) : State :=
  let line := lineOf loc
  if !isDevice loc then t
  else
    let before := match s.t.unfenced.find? fun u => u.line == line && u.stamp == (lineAt s line).stamp with
      | some u => u.old
      | none => []
    let new := ((List.range n).map fun i => (loc + i, homeByte s (loc + i))).filter fun p => !(before.any fun q => q.1 == p.1)
    { t with t := { t.t with
      unfenced := ⟨line, (lineAt t line).stamp, before ++ new⟩ :: t.t.unfenced.filter fun u => u.line != line } }

/-- A write performed for a scalar store: the strand's own reservation on the line may survive it or not. -/
def scalarWrite (s : State) (loc : Nat) (bs : List Byte) : State :=
  let held := decide (s.t.reservation = some (lineOf loc))
  let t := noteUnfenced s loc bs.length (homeWrite s (dieOf s.gid) loc bs (some (coreOf s.gid)))
  if held then
    let p := draw t
    if p.1 % 2 = 1 then { p.2 with t := { p.2.t with reservation := some (lineOf loc) } } else p.2
  else t

/-- A store that its home refuses, or that the host or a Wale peer answers with an error: the trap is pending until an
instruction boundary (R360). A refused write has performed nothing; after an error reply it may have been performed or not. -/
def refusedStore (s : State) (loc : Nat) (bs : List Byte) (va : Word) : State :=
  if isDevice loc then { s with t := addStoreTrap s.t 27 va }
  else
    let p := draw s
    let u := if p.1 % 2 = 1 then pokeBytes p.2 loc bs else p.2
    { u with t := addStoreTrap u.t 7 va }

/-- A scalar store (R36, R182, R360, R402). -/
def scalarStoreStep (k : StoreKind) (rs1 rs2 : Reg) (imm : BitVec 12) (s : State) : State :=
  let va := getX s rs1 + imm12 imm
  scalarAccess s .write false 6 (storeBytes k) va fun s loc =>
    let bs := bytesOf (storeBytes k) (getX s rs2).toNat
    retire (if readFails s loc (storeBytes k) then refusedStore s loc bs va else scalarWrite s loc bs)

/-- SCALAR_STORE (R182). -/
def execScalarStore (k : StoreKind) (rs1 rs2 : Reg) (imm : BitVec 12) (s : State) : Out :=
  .next (scalarStoreStep k rs1 rs2 imm s)

/-- The new value of an atomic memory operation at width w. -/
def amoValue (op : AmoOp) (w M V : Nat) : Nat :=
  match op with
  | .lr => M
  | .sc | .swap => V
  | .add => (M + V) % 2 ^ w
  | .xor => M ^^^ V
  | .and => M &&& V
  | .or => M ||| V
  | .min => if sgn w M ≤ sgn w V then M else V
  | .max => if sgn w M ≤ sgn w V then V else M
  | .minu => if M ≤ V then M else V
  | .maxu => if M ≤ V then V else M

/-- A result of width 32 or 64 as a register holds it. -/
def amoResult (dword : Bool) (n : Nat) : Word := if dword then word n else (BitVec.ofNat 32 n).signExtend 64

/-- An atomic at its location (R182, R242): rl releases before it; aq acquires the clock of the value that it read, for the strand's
scalar accesses alone. -/
def amoAt (op : AmoOp) (dword aq rl : Bool) (rd rs2 : Reg) (va : Word) (s : State) (loc : Nat) : State :=
  let n := if dword then 8 else 4
  let w := 8 * n
  let line := lineOf loc
  let V := (getX s rs2).toNat % 2 ^ w
  let pre : State → State := fun s =>
    let s := if rl then release s else s
    if isDevice loc then noteScalar s (homeClock s) [line] else s
  let post : State → State := fun s =>
    let s := if aq then acquireScalar s else s
    retire (if isDevice loc then catchUp s (dieOf s.gid) [line] else s)
  match op with
  | .lr =>
    if readFails s loc n then scalarTrap s 27 va
    else
      let s := cacheLine s (homeSlice line) line true true
      post (setX { pre s with t := { (pre s).t with reservation := some line } } rd (amoResult dword (homeNat s loc n)))
  | .sc =>
    let held := decide (s.t.reservation = some line)
    let s := { s with t := { s.t with reservation := none } }
    if !held then post (setX (pre s) rd 1)
    else if readFails s loc n then post (refusedStore (setX (pre s) rd 1) loc (bytesOf n V) va)
    else post (setX (homeWrite (pre s) (dieOf s.gid) loc (bytesOf n V) none) rd 0)
  | op =>
    if readFails s loc n then scalarTrap s 27 va
    else
      let M := homeNat s loc n
      post (setX (homeWrite (pre s) (dieOf s.gid) loc (bytesOf n (amoValue op w M V)) none) rd (amoResult dword M))

/-- SCALAR_AMO: LR, SC and the atomic memory operations (R35, R36, R182, R242). -/
def execScalarAmo (op : AmoOp) (dword aq rl : Bool) (rd rs1 rs2 : Reg) (s : State) : Out :=
  let va := getX s rs1
  .next (scalarAccess s (if op = .lr then .read else .write) false (if op = .lr then 4 else 6) (if dword then 8 else 4) va
    (amoAt op dword aq rl rd rs2 va))

end Sys2Proof.Machine
end

