-- ==== Sys2Proof/Machine/CsrOps.lean ====
section
/-! DEFINITION. The control and status registers: which exist, who may reach them, what a read gives and a write takes
(R19, R20, R29, R35, R36, R44 to R49, R59, R185, R213, R344, R350). -/

namespace Sys2Proof.Machine

/-- A word from numbered fields is cut to a mask. -/
def maskTo (m : Nat) (v : Word) : Word := v &&& word m

/-- A word whose masked bits come from `v`, the others from `w`. -/
def mergeBits (m : Nat) (w v : Word) : Word := (w &&& ~~~word m) ||| (v &&& word m)

/-- SIE, SPIE, SPP, SUM and MXR: the fields of `sstatus` that a strand writes (R36, R350). -/
def sstatusMask : Nat := 0xC0122

/-- SIE, MIE, SPIE, MPIE, SPP, MPRV, SUM, MXR, TVM, TW, TSR: the fields of `mstatus` besides MPP. -/
def mstatusMask : Nat := 0x7E01AA

/-- Causes whose delegation bits are writable (R59, R350). -/
def medelegMask : Nat := 0x10000FF00B3FF

/-- Interrupts 1, 5 and 9 (R344). -/
def sintMask : Nat := 0x222

/-- The value of `mstatus` with a new value written: the fields the device has; a reserved MPP keeps the old one. -/
def mstatusWrite (w v : Word) : Word :=
  let n := mergeBits mstatusMask w v
  if bits v.toNat 11 2 = 2 then n else mergeBits 0x1800 n v

/-- What a read of `mstatus` gives: UXL and SXL are 2 (R35, R36). -/
def mstatusRead (w : Word) : Word := w ||| 0xA00000000

/-- What a read of `sstatus` gives: its fields of `mstatus`, and UXL 2. -/
def sstatusRead (w : Word) : Word := maskTo sstatusMask w ||| 0x200000000

/-- `mip`: SSIP, and STIP from `stimecmp` (R344). -/
def mipRead (s : State) : Word := word (((pendingIntr s).map fun c => 2 ^ c).sum)

/-- `vcp` (R20): E, and the PC of the oldest entry, or of the latest instruction to leave an empty queue. -/
def vcpRead (s : State) : Word :=
  match s.t.queue with
  | e :: _ => maskTo 0x1FFFFFFFFFFFFFC e.pc
  | [] => maskTo 0x1FFFFFFFFFFFFFC s.t.vcpPc ||| 1

/-- `vshare` (R29). -/
def vshareRead (t : Strand) : Word := word (t.share.toNat + t.nextShare.toNat * 2 ^ 4 + t.weight.toNat * 2 ^ 8)

/-- The injection interval of a core's node in a plane (R213). -/
def intervalOf (s : State) (core g : Nat) : Nat :=
  (routerAt s (routerNo (core / 128) g (nodeOfCore (core % 128)))).k

/-- `wthr` (R49, R214): the planes whose node is throttled, and the largest interval among them. -/
def wthrRead (s : State) : Word :=
  let ks := (List.range 8).map fun g => (g, intervalOf s (coreOf s.gid) g)
  let th := ks.filter fun p => decide (2 ≤ p.2)
  word ((th.map fun p => 2 ^ p.1).sum + (th.map Prod.snd).foldl Nat.max 0 * 2 ^ 8)

/-- Rank of a mode. -/
def modeRank (m : Mode) : Nat :=
  match m with
  | .user => 0
  | .supervisor => 1
  | .machine => 3

/-- Whether a counter may be read in the current mode (R36): bit n of `mcounteren` below machine mode, and of `scounteren`
in user mode. -/
def counterOk (t : Strand) (n : Nat) : Bool :=
  match t.mode with
  | .machine => true
  | .supervisor => t.mcounteren.getLsbD n
  | .user => t.mcounteren.getLsbD n && t.scounteren.getLsbD n

/-- `mcycle` as it reads: it counts arithmetic clocks unless inhibited (R36). -/
def cycleRead (s : State) : Word := if s.t.mcountinhibit.getLsbD 0 then s.t.mcycle else s.t.mcycle + word s.clock

/-- What the field of `mcycle` holds for a value, the inhibition being as given. -/
def cycleField (s : State) (stop : Bool) (v : Word) : Word := if stop then v else v - word s.clock

/-- A value where a condition holds. -/
def csrIf (b : Bool) (v : Word) : Option Word := if b then some v else none

/-- The user-level CSRs (R36, R44): their values, or `none` for a number that names none. -/
def csrReadU (s : State) (n : Nat) : Option Word :=
  match n with
  | 0x800 => some (s.t.vstat.setWidth 64)
  | 0x801 => some (s.t.vrthr.setWidth 64)
  | 0xC00 => csrIf (counterOk s.t 0) (cycleRead s)
  | 0xC01 => csrIf (counterOk s.t 1) s.time
  | 0xC02 => csrIf (counterOk s.t 2) s.t.minstret
  | 0xCC0 => some (s.t.vl.setWidth 64)
  | 0xCC1 => some (s.t.vcfg.setWidth 64)
  | 0xCC2 => some (s.t.vkey.setWidth 64)
  | 0xCC3 => some (s.t.vmcnt.setWidth 64)
  | 0xCC4 => some (s.t.vtrows.setWidth 64)
  | 0xCC5 => some (vcpRead s)
  | 0xCC6 => some (vshareRead s.t)
  | 0xCC7 => some s.t.ctags
  | 0xCC8 => some (wthrRead s)
  | _ => none

/-- The supervisor-level CSRs. -/
def csrReadS (s : State) (n : Nat) : Option Word :=
  match n with
  | 0x100 => some (sstatusRead s.t.mstatus)
  | 0x104 => some (s.t.mie &&& s.t.mideleg)
  | 0x105 => some s.t.stvec
  | 0x106 => some (s.t.scounteren.setWidth 64)
  | 0x10A => some s.t.senvcfg
  | 0x140 => some s.t.sscratch
  | 0x141 => some s.t.sepc
  | 0x142 => some s.t.scause
  | 0x143 => some s.t.stval
  | 0x144 => some (mipRead s &&& s.t.mideleg)
  | 0x14D => csrIf (decide (s.t.mode = .machine) || s.t.mcounteren.getLsbD 1) s.t.stimecmp
  | 0x180 => csrIf (!(decide (s.t.mode = .supervisor) && s.t.mstatus.getLsbD 20)) 0
  | 0x5C0 => some s.t.fmtb
  | 0x5C1 => some s.t.datp
  | 0x5C2 => some s.t.sbase
  | 0x5C3 => some s.t.sdesc
  | _ => none

/-- The machine-level CSRs; `mhpmcounter`, `mhpmevent`, `pmpcfg` and `pmpaddr` read 0 (R36). -/
def csrReadM (s : State) (n : Nat) : Option Word :=
  match n with
  | 0x300 => some (mstatusRead s.t.mstatus)
  | 0x301 => some 0x8000000000941101
  | 0x302 => some s.t.medeleg
  | 0x303 => some s.t.mideleg
  | 0x304 => some s.t.mie
  | 0x305 => some s.t.mtvec
  | 0x306 => some (s.t.mcounteren.setWidth 64)
  | 0x30A => some (s.t.menvcfg ||| 0x8000000000000000)
  | 0x320 => some (s.t.mcountinhibit.setWidth 64)
  | 0x340 => some s.t.mscratch
  | 0x341 => some s.t.mepc
  | 0x342 => some s.t.mcause
  | 0x343 => some s.t.mtval
  | 0x344 => some (mipRead s)
  | 0xB00 => some (cycleRead s)
  | 0xB02 => some s.t.minstret
  | 0xF11 | 0xF12 | 0xF13 | 0xF15 => some 0
  | 0xF14 => some (word s.gid)
  | n =>
    if (0x323 ≤ n ∧ n ≤ 0x33F) ∨ (0xB03 ≤ n ∧ n ≤ 0xB1F) ∨ (0x3B0 ≤ n ∧ n ≤ 0x3EF) ∨
      (0x3A0 ≤ n ∧ n ≤ 0x3AF ∧ n % 2 = 0) then some 0 else none

/-- The value of the CSR with a number, where the strand has it and its mode may reach it (R45). -/
def csrRead (s : State) (n : Nat) : Option Word :=
  if modeRank s.t.mode < bits n 8 2 then none
  else
    match bits n 8 2 with
    | 0 => csrReadU s n
    | 1 => csrReadS s n
    | 3 => csrReadM s n
    | _ => none

/-- A strand with its CSRs changed. -/
def putT (s : State) (t : Strand) : State := { s with t := t }

/-- `datp` written: a reserved MODE leaves it unchanged (R49). -/
def putDatp (t : Strand) (v : Word) : Strand :=
  if bits v.toNat 60 4 = 0 ∨ bits v.toNat 60 4 = 10 then { t with datp := v } else t

/-- `fmtb` written: V and BASE (R49). -/
def putFmtb (t : Strand) (v : Word) : Strand := { t with fmtb := maskTo 0xFFFFFFFFFFF801 v }

/-- The supervisor-level CSRs written; others are unchanged. A reserved MODE written to `stvec` or `mtvec` loses its bit 1, which the WARL field of
the Privileged specification leaves open (R35, DESIGN CHOICE; log entry 95). -/
def csrPutS (t : Strand) (n : Nat) (v : Word) : Strand :=
  match n with
  | 0x100 => { t with mstatus := mergeBits sstatusMask t.mstatus v }
  | 0x104 => { t with mie := mergeBits (t.mideleg.toNat &&& sintMask) t.mie v }
  | 0x105 => { t with stvec := v &&& ~~~2#64 }
  | 0x106 => { t with scounteren := v.setWidth 3 }
  | 0x10A => { t with senvcfg := maskTo 1 v }
  | 0x140 => { t with sscratch := v }
  | 0x141 => { t with sepc := v &&& ~~~3#64 }
  | 0x142 => { t with scause := v }
  | 0x143 => { t with stval := v }
  | 0x144 => if t.mideleg.getLsbD 1 then { t with ssip := v.getLsbD 1 } else t
  | 0x14D => { t with stimecmp := v }
  | 0x5C0 => putFmtb t v
  | 0x5C1 => putDatp t v
  | 0x5C2 => { t with sbase := maskTo 0xFFFFFFFFFFF000 v }
  | 0x5C3 => { t with sdesc := maskTo 0xFFFFFFFFFFFFC0 v }
  | _ => t

/-- The user-level and machine-level CSRs written; others are unchanged. -/
def csrPutM (s : State) (n : Nat) (v : Word) : Strand :=
  let t := s.t
  match n with
  | 0x800 => { t with vstat := v.setWidth 5 }
  | 0x801 => { t with vrthr := v.setWidth 48 }
  | 0x300 => { t with mstatus := mstatusWrite t.mstatus v }
  | 0x302 => { t with medeleg := maskTo medelegMask v }
  | 0x303 => { t with mideleg := maskTo sintMask v }
  | 0x304 => { t with mie := maskTo sintMask v }
  | 0x305 => { t with mtvec := v &&& ~~~2#64 }
  | 0x306 => { t with mcounteren := v.setWidth 3 }
  | 0x30A => { t with menvcfg := maskTo 1 v }
  | 0x320 => { t with mcountinhibit := (maskTo 5 v).setWidth 3, mcycle := cycleField s (v.getLsbD 0) (cycleRead s) }
  | 0x340 => { t with mscratch := v }
  | 0x341 => { t with mepc := v &&& ~~~3#64 }
  | 0x342 => { t with mcause := v }
  | 0x343 => { t with mtval := v }
  | 0x344 => { t with ssip := v.getLsbD 1 }
  | 0xB00 => { t with mcycle := cycleField s (t.mcountinhibit.getLsbD 0) v }
  | 0xB02 => { t with minstret := v }
  | _ => t

/-- A CSR written. -/
def csrPut (s : State) (n : Nat) (v : Word) : Strand := if bits n 8 2 = 1 then csrPutS s.t n v else csrPutM s n v

/-- The operand of a Zicsr instruction: a register, or the five-bit immediate. -/
def csrSrc (s : State) (op : CsrOp) (src : Reg) : Word :=
  match op with
  | .rw | .rs | .rc => getX s src
  | .rwi | .rsi | .rci => src.setWidth 64

/-- What a Zicsr instruction writes, from the old value and its operand. -/
def csrNew (op : CsrOp) (old v : Word) : Word :=
  match op with
  | .rw | .rwi => v
  | .rs | .rsi => old ||| v
  | .rc | .rci => old &&& ~~~v

/-- A Zicsr instruction performed (R35, R45): illegal for a CSR that does not exist or that the mode may not reach, and for a
write to a read-only one; the write takes effect after the counters have counted the instruction. -/
def csrStep (n : Nat) (op : CsrOp) (rd src : Reg) (w : InstrWord) (s : State) : State :=
  match csrRead s n with
  | none => illegal s w
  | some old =>
    if csrWrites op src then
      (if bits n 10 2 = 3 then illegal s w
       else
         let t := retire (setX s rd old)
         putT t (csrPut t n (csrNew op old (csrSrc s op src))))
    else retire (setX s rd old)

/-- A read of `vstat`, `vmcnt` or `vtrows` (R19): it waits for every older vector instruction. -/
def execCsrReadWait (csr : WaitCsr) (op : CsrOp) (rd : Reg) (s : State) : Out :=
  whenDrained (csrStep (waitCsrNum csr).toNat op rd 0 (wordOf (.csrReadWait csr op rd))) s

/-- A write of `vstat` (R19, R45, R48). -/
def execCsrWriteVstat (op : CsrOp) (rd src : Reg) (s : State) : Out :=
  whenDrained (csrStep 0x800 op rd src (wordOf (.csrWriteVstat op rd src))) s

/-- A write of `vrthr` (R19, R185): it waits until every older vector instruction has passed its fault point. -/
def execCsrWriteVrthr (op : CsrOp) (rd src : Reg) (s : State) : Out :=
  .next (if s.t.queue.all fun e => e.passed then csrStep 0x801 op rd src (wordOf (.csrWriteVrthr op rd src)) s else stall s)

/-- A write of `datp` (R19, R45.6): it waits for the queue and for every copy of the strand. -/
def execCsrWriteDatp (op : CsrOp) (rd src : Reg) (s : State) : Out :=
  if privileged s && copiesOpen s s.gid then .next (stall s)
  else whenDrained (csrStep 0x5C1 op rd src (wordOf (.csrWriteDatp op rd src))) s

/-- A write of `fmtb` (R19, R148). -/
def execCsrWriteFmtb (op : CsrOp) (rd src : Reg) (s : State) : Out :=
  whenDrained (csrStep 0x5C0 op rd src (wordOf (.csrWriteFmtb op rd src))) s

/-- Every other Zicsr instruction (R35, R36, R45). -/
def execCsrWrite (csr : BitVec 12) (op : CsrOp) (rd src : Reg) (s : State) : Out :=
  .next (csrStep csr.toNat op rd src (wordOf (.csrWrite csr op rd src)) s)

end Sys2Proof.Machine
end

