-- ==== Sys2Proof/Machine/Rim.lean ====
section
/-! DEFINITION. The Rim of a core: a ring of eight stations, one per lane group (R181, R218). -/

namespace Sys2Proof.Machine

/-- Whether a move goes toward increasing station numbers: the shorter way, and where both are equally long that one (R218). -/
def rimUp (src dest : Nat) : Bool := decide ((dest + 8 - src) % 8 ≤ 4)

/-- A station's neighbour in a direction. -/
def rimNext (n : Nat) (up : Bool) : Nat := if up then (n + 1) % 8 else (n + 7) % 8

/-- An element group of a strand sent from one station to another (R218); one already there has arrived. -/
def Rim.send (r : Rim) (gid src dest : Nat) : Rim :=
  let m : RimMove := ⟨src % 8, src % 8, dest % 8, rimUp (src % 8) (dest % 8), gid, r.next⟩
  if m.src = m.dest then { r with next := r.next + 1, arrived := m :: r.arrived }
  else { r with next := r.next + 1, moves := r.moves ++ [m] }

/-- The moves of one clock: each station passes one element group to each neighbour (R218); `busy` are the links taken. Of two groups of
different station pairs that want one link the oldest goes first, which the rule leaves open (DESIGN CHOICE; log entry 102). -/
def rimMoves : List (Nat × Bool) → List RimMove → List RimMove
  | _, [] => []
  | busy, m :: r =>
    if busy.contains (m.here, m.up) then m :: rimMoves busy r
    else { m with here := rimNext m.here m.up } :: rimMoves ((m.here, m.up) :: busy) r

/-- One arithmetic clock of a Rim (R218). -/
def Rim.clock (r : Rim) : Rim :=
  let ms := rimMoves [] r.moves
  { r with
    moves := ms.filter fun m => m.here != m.dest
    arrived := (ms.filter fun m => m.here == m.dest).reverse ++ r.arrived }

/-- An element group sent round the Rim of a core. -/
def rimSend (s : State) (core gid src dest : Nat) : State := putRim s core ((rimAt s core).send gid src dest)

/-- One arithmetic clock of a core's Rim. -/
def rimClock (s : State) (core : Nat) : State := putRim s core (rimAt s core).clock

end Sys2Proof.Machine
end

