-- ==== Sys2Proof/Machine/IssueOps.lean ====
section
/-! DEFINITION. The issue policy: which element group each lane group issues, and which instruction each shared unit of a core takes
next (R21, R25, R26, R34, R135, R181, R214, R218, R220, R271, R339). -/

namespace Sys2Proof.Machine

/-- The lowest-numbered unissued element group of an entry in a lane group (R339). -/
def unissued (e : QEntry) (g : Nat) : Option Nat :=
  firstTo (fun j => decide (j % 8 = g) && !e.issued.getLsbD j) (groupCount e)

/-- Elements of an entry not yet issued (R339). -/
def elementsLeft (e : QEntry) : Nat :=
  let n := 1024 / cfgW e.vcfg
  sumTo (fun j => if e.issued.getLsbD j then 0 else Nat.min n (e.vl.toNat - j * n)) (groupCount e)

/-- Whether an entry is a memory instruction: its major opcode is custom-1 (R50). -/
def isMemory (e : QEntry) : Bool := e.word.toNat % 128 == 0x2B

/-- A candidate of the issue policy (R339). -/
structure Candidate where
  gid : Nat
  /-- place of its entry in the queue, and the element group or the step -/
  place : Nat
  group : Nat
  /-- clocks for which it has been issuable -/
  waited : Nat
  overShare : Bool
  throttled : Bool
  left : Nat
  deriving DecidableEq, Repr

/-- The oldest entry from a place on that has an unissued element group in a lane group, where that group is covered and the entry has
its spares: element groups of a strand in a lane group issue in program order (R339). -/
def findGroup (s : State) (g : Nat) : Nat → List QEntry → List QEntry → Option (Nat × Nat × QEntry)
  | _, _, [] => none
  | i, older, e :: r =>
    match (if e.done || unitOf s e != .lanes then none else unissued e g) with
    | some j => if covered s older e j && hasSpares s older e then some (i, j, e) else none
    | none => findGroup s g (i + 1) (older ++ [e]) r

/-- Whether a core is throttled in a plane, and in some plane (R214). -/
def planeThrottled (s : State) (core g : Nat) : Bool := decide (2 ≤ intervalOf s core g)
/-- Whether a core is throttled in some plane. -/
def anyThrottled (s : State) (core : Nat) : Bool := (List.range 8).any (planeThrottled s core)

/-- The plane of element group j of an access that R181 places directly: of the line that holds it. -/
def groupPlane (base j : Nat) : Nat := planeOf (lineOf base + j)

/-- Whether an element group of a memory instruction that the lane groups issue needs a plane that is throttled at the core (R181,
R214). -/
def needsThrottled (s : State) (core : Nat) (e : QEntry) (j : Nat) : Bool :=
  match directOf s e with
  | some B => planeThrottled s core (groupPlane B j)
  | none => anyThrottled s core

/-- Whether an instruction that a unit takes whole fetches from memory: one of custom-1, a tile load or a long product. -/
def fetches (e : QEntry) : Bool :=
  isMemory e || match e.instr with
    | .vxMtld _ _ _ | .vxMgemm _ _ => true
    | _ => false

/-- The lines that the next step of a long product fetches, where its descriptor can be read (R277). -/
def gemmLines (s : State) (e : QEntry) : Option (List Nat) :=
  let c := ctxOfEntry s e
  let lo := 32 * stepsDone e
  match (if e.progress = 0 then (readDesc c s).toOption else some (bytesOf 64 (e.progress / 2048))), fpFmt (cfgFmt c.cfg) with
  | some bs, some F => some (stepLines c s F (gemmOf bs) (cfgG c.cfg) lo (Nat.min (gemmOf bs).k (lo + 32)))
  | _, _ => none

/-- The lines that an instruction fetches which a unit takes whole. -/
def wholeLines (s : State) (e : QEntry) : Option (List Nat) :=
  match e.instr with
  | .vxMgemm _ _ => gemmLines s e
  | _ => entryLines s e

/-- Whether such an instruction needs a throttled plane (R214, R339). -/
def wholeThrottled (s : State) (core : Nat) (e : QEntry) : Bool :=
  fetches e && match wholeLines s e with
    | some ls => ls.any fun l => isDevice (l * 128) && planeThrottled s core (planeOf l)
    | none => anyThrottled s core

/-- Elements not yet issued in a strand's oldest incomplete instruction (R339). -/
def oldestLeft (t : Strand) : Nat := ((t.queue.find? fun q => !q.done).map elementsLeft).getD 0

/-- The clocks for which an element group, or a step, of an entry has been issuable (R34, R339). -/
def waitedFor (clock : Nat) (e : QEntry) (j : Nat) : Nat := clock - ((e.since.find? fun p => p.1 == j).map Prod.snd).getD clock

/-- A strand's candidate in a lane group (R339). -/
def candidateOf (s : State) (core g gid : Nat) : Option Candidate :=
  let t := strandAt s gid
  let f := focusOn s gid
  (findGroup f g 0 [] t.queue).map fun (i, j, e) =>
    { gid := gid, place := i, group := j, waited := waitedFor s.clock e j
      overShare := decide (t.share.toNat ≤ sget 0 s.issuedNow gid)
      throttled := isMemory e && needsThrottled f core e j
      left := oldestLeft t }

/-- Whether candidate `a` comes before candidate `b` by the keys of R339; of two of one strand, for a unit that two kinds of work share, the
older comes first (DESIGN CHOICE: no key says). -/
def issuesBefore (a b : Candidate) : Bool :=
  let oa := decide (64 ≤ a.waited)
  let ob := decide (64 ≤ b.waited)
  if oa != ob then oa
  else if oa && a.waited != b.waited then decide (b.waited < a.waited)
  else if a.overShare != b.overShare then b.overShare
  else if a.throttled != b.throttled then b.throttled
  else if a.left != b.left then decide (a.left < b.left)
  else decide (a.gid < b.gid) || (a.gid == b.gid && decide (a.place < b.place))

/-- The first of a list of candidates by the keys of R339. -/
def firstIssue (cs : List Candidate) : Option Candidate :=
  cs.foldl (fun acc c => match acc with
    | some b => if issuesBefore c b then some c else some b
    | none => some c) none

/-- The candidate that a lane group of a core issues (R339). -/
def chooseIssue (s : State) (core g : Nat) : Option Candidate :=
  firstIssue ((strandsOf core).filterMap (candidateOf s core g))

/-- An entry with an element group marked as issued. -/
def markIssued (j : Nat) (e : QEntry) : QEntry := { e with issued := e.issued ||| BitVec.ofNat 32 (2 ^ j) }

/-- An entry from which on an element group, or a step, counts as waiting: now, where it has not counted yet. -/
def startWait (clock j : Nat) (e : QEntry) : QEntry :=
  if e.since.any fun p => p.1 == j then e else { e with since := e.since ++ [(j, clock)] }

/-- A strand's candidate begins to wait (R34, R339). -/
def noteIssuable (s : State) (c : Candidate) : State :=
  let t := strandAt s c.gid
  putStrand s c.gid { t with queue := t.queue.modify c.place (startWait s.clock c.group) }

/-- Whether an instruction stores. -/
def isStore (i : Instr) : Bool :=
  match i with
  | .vmSt _ _ _ | .vmSts _ _ _ _ | .vmStx _ _ _ _ | .vmStsc _ _ _ | .vmStraw _ _ _ | .vmStcx _ _ _ _ | .vmUpdadd _ _ _ | .vmUpdfadd _ _ _
  | .vmUpdmin _ _ _ | .vmUpdmax _ _ _ | .vmUpdfmax _ _ _ | .vmUpdfmin _ _ _ => true
  | _ => false

/-- The messages between a lane group and the port of a line's plane (R181, R218): the request, or the store's data, and of a read the
reply. -/
def lineMoves (core gid g : Nat) (store : Bool) (s : State) (line : Nat) : State :=
  if !isDevice (line * 128) then s
  else
    let s := rimSend s core gid g (planeOf line)
    if store then s else rimSend s core gid (planeOf line) g

/-- The lines that one element group of a memory instruction touches. -/
def groupLines (s : State) (e : QEntry) (j : Nat) : List Nat :=
  let n := 1024 / cfgW e.vcfg
  (entryLines s { e with vl := BitVec.ofNat 13 (Nat.min e.vl.toNat ((j + 1) * n)), progress := Nat.max e.progress (j * n) }).getD []

/-- The source element that a permutation moves to element i, of the five that move elements over the Rim (R173, R174). -/
def permFrom (c : Ctx) (s : State) (i : Instr) (n : Nat) : Option Nat :=
  match i with
  | .vpSlideup _ _ _ => if c.xa.toNat ≤ n then some (n - c.xa.toNat) else none
  | .vpSlidedn _ _ _ => some (n + c.xa.toNat)
  | .vpPerm _ a _ => some (vElem c s a n)
  | .vpRotg _ _ _ => some (rotgFrom c.w c.vl c.xa.toNat n)
  | .vpBcast _ _ _ => some c.xa.toNat
  | _ => none

/-- The element groups that a permutation sends round the Rim (R173, R218): one move for each pair of a source and a destination group. -/
def permMoves (s : State) (core gid : Nat) (e : QEntry) : State :=
  let c := ctxOfEntry s e
  let n := 1024 / cfgW e.vcfg
  let pairs := (List.range c.vl).filterMap fun i => (permFrom c s e.instr i).bind fun k =>
    if k < c.vl then some (k / n, i / n) else none
  (pairs.foldl (fun acc p => if acc.contains p then acc else acc ++ [p]) []).foldl
    (fun s p => rimSend s core gid (p.1 % 8) (p.2 % 8)) s

/-- What an issued element group sends round the Rim of its core (R181, R218): of a direct access its request or data, and its reply; of a
push its data, to its own lane group's port (DESIGN CHOICE: R218 names no port). -/
def issueMove (s : State) (core g : Nat) (c : Candidate) (e : QEntry) : State :=
  match e.instr, directOf (focusOn s c.gid) e with
  | .vxPush _ _ _ _, _ => rimSend s core c.gid g g
  | _, some B => lineMoves core c.gid g (isStore e.instr) s (lineOf B + c.group)
  | _, none => s

/-- What an instruction sends round the Rim that a unit takes whole: the lines of a sorted access, between each element group's lane group
and their ports, and what a permutation moves (R173, R218, R221). -/
def wholeMoves (s : State) (core gid : Nat) (e : QEntry) : State :=
  let f := focusOn s gid
  match unitOf f e with
  | .sorter => (List.range (groupCount e)).foldl (fun s j =>
      (groupLines f e j).foldl (lineMoves core gid (j % 8) (isStore e.instr)) s) s
  | .plait => focusOn (permMoves f core gid e) s.gid
  | _ => s

/-- An issued candidate: its element group is marked, and the clock's count of its strand rises. -/
def issueCandidate (s : State) (core g : Nat) (c : Candidate) : State :=
  let t := strandAt s c.gid
  let s := (t.queue[c.place]?).elim s (issueMove s core g c)
  let s := putStrand s c.gid { t with queue := t.queue.modify c.place (markIssued c.group) }
  { s with
    issuedNow := sput 0 s.issuedNow c.gid (sget 0 s.issuedNow c.gid + 1)
    issues := (core * 8 + g, (c.gid, c.group)) :: s.issues.filter fun p => p.1 != core * 8 + g }

/-- A new clock of a core's lane groups, where a lane group that the present one has decided is to be decided (R339); the Rim moves (R218). -/
def issueClock (s : State) (core g : Nat) : State :=
  let s := if g < sget 0 s.decided core then { rimClock s core with issuedNow := s.issuedNow.filter fun p => p.1 / 4 != core } else s
  { s with decided := sput 0 s.decided core (g + 1) }

/-- A lane group issues at most one element group in a clock, the lane groups in ascending order (R339). -/
def issueGroup (s : State) (core g : Nat) : State :=
  let s := issueClock s core g
  let s := ((strandsOf core).filterMap (candidateOf s core g)).foldl noteIssuable s
  match chooseIssue s core g with
  | none => s
  | some c => issueCandidate s core g c

/-- The oldest entry of a strand that a unit can take: all its sources are complete, and it has its spares (R25, R26); of `vp.ext` the
element it names alone (R113). -/
def findWhole (s : State) (u : IssueUnit) : Nat → List QEntry → List QEntry → Option (Nat × QEntry)
  | _, _, [] => none
  | i, older, e :: r =>
    if unitOf s e == u && !e.done && !unitStarted e then
      (if covered s older e 31 && hasSpares s older e then some (i, e) else none)
    else findWhole s u (i + 1) (older ++ [e]) r

/-- A strand's candidate for a unit (R339, keys 1, 3, 4 and 5). -/
def wholeOf (s : State) (core : Nat) (u : IssueUnit) (gid : Nat) : Option Candidate :=
  let t := strandAt s gid
  let f := focusOn s gid
  (findWhole f u 0 [] t.queue).map fun (i, e) =>
    { gid := gid, place := i, group := stepsDone e, waited := waitedFor s.clock e (stepsDone e), overShare := false
      throttled := wholeThrottled f core e, left := oldestLeft t }

/-- The candidates for a unit: those for the Plait unit and for the sorting stage, which share it (R135, R221), stand together. -/
def wholeCandidates (s : State) (core : Nat) (u : IssueUnit) : List Candidate :=
  (if u = .matrix then [IssueUnit.matrix] else [.plait, .sorter]).flatMap fun v => (strandsOf core).filterMap (wholeOf s core v)

/-- An entry started by a unit: whole, or for `vx.mgemm` its next step (R271). -/
def startEntry (e : QEntry) : QEntry :=
  { e with issued := match e.instr with
    | .vxMgemm _ _ => BitVec.ofNat 32 (stepsDone e + 1)
    | _ => BitVec.allOnes 32 }

/-- A unit of a core that is free starts its next instruction or step (R34, R135, R339). -/
def issueWhole (s : State) (core : Nat) (u : IssueUnit) : State :=
  let s := (wholeCandidates s core u).foldl noteIssuable s
  match (if unitBusy s core u fun _ _ => true then none else firstIssue (wholeCandidates s core u)) with
  | none => s
  | some c =>
    let t := strandAt s c.gid
    let s := (t.queue[c.place]?).elim s (wholeMoves s core c.gid)
    putStrand s c.gid { t with queue := t.queue.modify c.place startEntry }

/-- ELEMENT_GROUP_ISSUE (R339): of core `unit`, lane group `idx`, or from 8 on the Plait unit, the matrix unit and the sorting
stage, which is the Plait unit's. -/
def execElementGroupIssue (s : State) : Out :=
  .next (
    match s.inp.idx with
    | 8 => issueWhole s s.inp.unit .plait
    | 9 => issueWhole s s.inp.unit .matrix
    | 10 => issueWhole s s.inp.unit .plait
    | g => issueGroup s s.inp.unit (g % 8))

end Sys2Proof.Machine
end

