-- ==== Sys2Proof/Machine/SchedOps.lean ====
section
/-! DEFINITION. Commits, interrupts, pre-emption, forced saves, the watchdog, and the dispatcher: ready nodes,
placement, dispatch and resumption (R18, R30 to R33, R329 to R336, R343 to R358). The particulars of an event are in
`State.inp`. -/

namespace Sys2Proof.Machine

/-- The state that an outcome leaves. -/
def outState (s : State) (o : Out) : State :=
  match o with
  | .next t => t
  | .fault _ | .refused _ => s

/-- The oldest entry of the focus strand's queue performed by its meaning, where it has its spares and its unit; a finished one waits for
its commit. -/
def retryHead (f : Instr → State → Out) (s : State) : State :=
  match s.t.queue with
  | e :: _ =>
    if e.done || !hasSpares s [] e || !unitFreeFor s 0 e || !s.t.vbad.isEmpty || !s.t.kbad.isEmpty then s
    else outState s (f e.instr { s with t := { s.t with replay := some e, place := 0, peek := false, upto := none } })
  | [] => s

/-- VECTOR_COMMIT (R18). -/
def execVectorCommit (s : State) : Out := .next (asStrand s.inp.gid commitHead s)

/-- TRAP_ENTRY (R343): what is pending is delivered once the queue is empty. -/
def execTrapEntry (s : State) : Out := .next (asStrand s.inp.gid (fun s => (takePending s).getD s) s)

/-- The supervisor timer interrupt, where it is pending, enabled and its turn (R344). -/
def timerInterrupt (s : State) : State :=
  if s.t.queue.isEmpty ∧ s.t.storeTraps = [] ∧ intrNow s = some 5 then takeTrap s true 5 0 s.t.pc else s

/-- SUPERVISOR_TIMER_INTERRUPT (R344). -/
def execSupervisorTimerInterrupt (s : State) : Out := .next (asStrand s.inp.gid timerInterrupt s)

/-- Microseconds in arithmetic clocks (R5, R408). -/
def microseconds (s : State) (n : Nat) : Nat := n * s.handle.clockMhz

/-- The deadline of a request in microseconds: DLINE, and 20 where it is 0 (R348, R353). -/
def deadlineOf (s : State) (t : Strand) : Nat :=
  match descRead s t.sdescNow 4 2 with
  | some 0 | none => 20
  | some n => n

/-- A pre-emption request raised at a strand (R353): ignored without a task, absorbed while one is pending. -/
def raisePreempt (s : State) (gid : Nat) : State :=
  let t := strandAt s gid
  if t.task.isNone || t.preempt.isSome then s
  else putStrand s gid { t with preempt := some ⟨s.clock + microseconds s (deadlineOf s t), false⟩ }

/-- All strands that hold a task. -/
def busyStrands (s : State) : List Nat :=
  (s.gid :: s.peers.map Prod.fst).filter fun g => (strandAt s g).task.isSome

/-- Whether a launch is ready on every die it needs (R332). -/
def launchReady (l : Launch) : Bool := !l.hold && (nodeDies l).all fun d => l.ready.any fun p => p.1 == d

/-- The order and the moment in which a launch's node on a die became ready (R332). -/
def readyOn (l : Launch) (die : Nat) : Nat × Nat := ((l.ready.find? fun p => p.1 == die) <|> l.ready.head?).elim (0, 0) Prod.snd

/-- The place of a launch's node on a die in the ready order (R332). -/
def launchRank (l : Launch) (die : Nat) : Nat × Nat := (recPrio l.image, (readyOn l die).1)

/-- The strand that R332 chooses among those given for a node of a priority: the lowest task priority, then the latest
dispatched. -/
def victimOf (s : State) (prio : Nat) (can : Nat → Bool) : Option Nat :=
  let tasks := (busyStrands s).filterMap fun g => (strandAt s g).task.map fun k => (g, k)
  let low := tasks.filter fun p => can p.1 && decide (p.2.prio < prio)
  (low.foldl (fun acc p => match acc with
    | none => some p
    | some q => if p.2.prio < q.2.prio ∨ (p.2.prio = q.2.prio ∧ q.2.order < p.2.order) then some p else some q) none).map
    Prod.fst

/-- A request raised for a ready node that has waited 10 µs (R332). -/
def requestFor (s : State) (prio since : Nat) (can : Nat → Bool) : State :=
  if s.clock < since + microseconds s 10 then s
  else
    match victimOf s prio can with
    | some g => raisePreempt s g
    | none => s

/-- Whether a rank comes before another: higher priority, then earlier ready (R332). -/
def ranksBefore (a b : Nat × Nat) : Bool := decide (b.1 < a.1) || (a.1 == b.1 && decide (a.2 < b.2))

/-- The place of a node of a grouped launch in the ready order (R285, R332). -/
def nodeRank (q : GNode × GServed) : Nat × Nat := (q.2.req.prio, q.1.order)

/-- The inserted nodes of a block that have not run, each with its request. -/
def waitingNodes (k : GBlock) : List (GNode × GServed) :=
  k.nodes.filterMap fun n =>
    if n.status = 0 then (k.served.find? fun v => v.serial == n.serial).map fun v => (n, v) else none

/-- The node of a block that is placed first (R332). -/
def waitingNode (k : GBlock) : Option (GNode × GServed) :=
  (waitingNodes k).foldl (fun acc p => match acc with
    | none => some p
    | some q => if ranksBefore (nodeRank p) (nodeRank q) then some p else some q) none

/-- PREEMPTION_REQUEST (R332, R353): by the dispatcher of a die, for a launch by its key, for a suspended context, or for the
waiting node of a grouped-launch block. -/
def execPreemptionRequest (s : State) : Out :=
  .next (
    if s.inp.f1 then
      match waitingNode (blockAt s s.inp.unit) with
      | some (n, v) => requestFor s v.req.prio n.since fun g => dieOf g == s.inp.unit / 4
      | none => s
    else if s.inp.f0 then
      match s.suspended.find? fun c => c.ctx == s.inp.key with
      | some c => requestFor s ((c.saved.task.map fun k => k.prio).getD 0) c.since (mayResume s c)
      | none => s
    else
      match launchOf s s.inp.key with
      | some l =>
        if launchReady l && (nodeDies l).contains s.inp.die then
          requestFor s (recPrio l.image) (readyOn l s.inp.die).2 fun g => dieOf g == s.inp.die && couldTake l g
        else s
      | none => s)

/-- What a forced save waits for (R354): copies, an SC ticket, a held lock, an answer in flight, owed flits, and locked lines of its area
(R255). -/
def saveWaits (s : State) : Bool :=
  copiesOpen s s.gid || s.scOut == some s.gid || !s.t.locks.isEmpty || answerInFlight s s.gid || recordsOwed s s.gid ||
    saveLocked s

/-- Whether a forced-out context resumes only on its own strand (R356). -/
def boundHere (s : State) : Bool := s.t.pend || pushBusy s s.t

/-- Bytes of a forced frame by the formula of R351: every register of the strand, its pushed registers, what the history buffer
holds, the queue, and the records. -/
def forcedBytes (s : State) (es : List QEntry) : Nat :=
  let hist := es.filter tookSpares
  frameBytes (32 + (s.t.pending.toList.filter fun p => p.isSome).length + (hist.map fun e => (destsOf s [e]).length).sum)
    (7 + (hist.map fun e => (kdestsOf s [e]).length).sum) es.length (recordsOf s s.gid)

/-- The focus strand is forced out (R354). -/
def forcedSave (s : State) : State :=
  match s.t.preempt with
  | none => s
  | some r =>
    if s.t.task.isNone || r.sure || decide (s.clock < r.deadline) then s
    else
    let s := withdrawWaiting s s.gid
    if saveWaits s then s
    else
      let s := latch (dropGrants (withdraw s s.gid) s.gid)
      let records := heldRecords s s.gid
      let es := framed s.t.queue
      let bytes := forcedBytes s es
      if !areaOk s s.t.sbaseNow s.t.sdescNow then contextLost s 128
      else
        match writeImage s s.t.sbaseNow.toNat 4096 with
        | none => contextLost s 128
        | some (s, scalar) =>
          match writeImage s (s.t.sbaseNow.toNat + 0x71000) bytes with
          | none => contextLost s 128
          | some (s, forced) =>
            match descWrite s s.t.sdescNow 16 (bytesOf 4 bytes) with
            | none => contextLost s 128
            | some s =>
              match descWrite s s.t.sdescNow 8 [stateByte .forced s.t.pend] with
              | none => contextLost s 128
              | some s =>
                leaveStrand (takeRecords s s.gid) true (if boundHere s then some s.gid else none)
                  [(0, scalar), (0x71000, forced)] records
                  { s.t with queue := es, replay := none, place := 0, peek := false, wake := false }

/-- FORCED_SAVE (R33, R354). -/
def execForcedSave (s : State) : Out := .next (asStrand s.inp.gid forcedSave s)

/-- A save that has not ended 10 ms after its start makes the context LOST (R355). -/
def saveTimeout (s : State) : State :=
  match s.t.preempt with
  | some r => if s.t.task.isSome ∧ r.sure = false ∧ r.deadline + microseconds s 10000 ≤ s.clock then contextLost s 129 else s
  | none => s

/-- SAVE_ENGINE_TIMEOUT (R355). -/
def execSaveEngineTimeout (s : State) : Out := .next (asStrand s.inp.gid saveTimeout s)

/-- Whether a save of a strand's context is in progress that began before its watchdog could run out (R354, R358): a forced save from its
deadline on, or a frame being written (R351). -/
def saveBegun (s : State) (t : Strand) : Bool :=
  t.framing.isSome || t.preempt.any fun r => !r.sure && decide (r.deadline ≤ s.clock) && decide (r.deadline < t.watchdog)

/-- Whether the watchdog of a strand has run out (R358). -/
def watchdogOut (s : State) (t : Strand) : Bool :=
  !saveBegun s t && t.task.isSome && decide (t.ctxState = .active) && decide (t.watchdog ≠ 0) && decide (t.watchdog ≤ s.clock)

/-- The watchdog of the focus strand expires (R358): its queue becomes a frame and cause 48 is delivered. -/
def watchdogExpires (s : State) : State :=
  if !watchdogOut s s.t then s
  else
    let s := commitHead (withdraw s s.gid)
    frameTrap { s with t := { s.t with watchdog := 0 } } 48 0 s.t.pc s.t.queue

/-- WATCHDOG_EXPIRY (R358). -/
def execWatchdogExpiry (s : State) : Out := .next (asStrand s.inp.gid watchdogExpires s)

/-- The placements that a launch may still have. -/
def placements (l : Launch) : List (Nat × Nat) :=
  match l.place with
  | some p => [p]
  | none =>
    let ls := levelsOf l.image
    ((List.range (2048 / domainStrands (topScope ls))).flatMap fun x =>
      (List.range (levelCap ls + 1)).map fun b => (x, b)).filter fun p => placeOk l p.1 p.2

/-- The lowest-numbered free strand of a D_0 instance (R329). -/
def freeStrand (s : State) (ls : List Nat) (x n : Nat) : Option Nat :=
  (instanceStrands ls x n).find? (strandFree s)

/-- The lowest free entry of a die's context table (R394). -/
def freeCtx (s : State) (die : Nat) : Option Nat := (List.range 8192).find? fun e => !s.ctxUsed.contains (die * 8192 + e)

/-- Whether `n` bytes from `a` lie in a die's arena, apart from the result space in use (R332). -/
def spaceFree (s : State) (die n a : Nat) : Bool :=
  let r := sget (0, 0) s.arena die
  decide (r.1 ≤ a) && decide (a + n ≤ r.1 + r.2) &&
    !(s.results.any fun u => u.2.1 == die && decide (a < u.2.2.1 + u.2.2.2) && decide (u.2.2.1 < a + n))

/-- Where result space can be taken on a die: the place that a free number names, the arena's start, and the ends of the
space in use; a multiple of 128 (R332). -/
def spaceFor (s : State) (die n free : Nat) : Option Nat :=
  let r := sget (0, 0) s.arena die
  let starts := (r.1 + 128 * (free % (r.2 / 128 + 1))) :: r.1 ::
    (s.results.filter fun u => u.2.1 == die).map fun u => u.2.2.1 + u.2.2.2
  starts.find? (spaceFree s die n)

/-- Whether a dispatch with a context-table entry waits for a locked line: of the entry, or of the context descriptor (R255). -/
def dispatchLocked (s : State) (die e : Nat) : Bool :=
  let pa := sget 0 s.ctxTable die + 16 * e
  physLocked s pa 16 || physLocked s (((locOf s (pa + 8)).map fun loc => homeNat s loc 8).getD 0) 64

/-- The strand on which task i of a launch can start under a placement, if any: free, with a context-table entry and result
space on its die (R329, R332, R394). -/
def startStrand (s : State) (l : Launch) (x b i : Nat) : Option Nat :=
  if !placeOk l x b || !(unstarted l).contains i then none
  else
    match freeStrand s (levelsOf l.image) x (b + i) with
    | none => none
    | some g =>
      if (freeCtx s (dieOf g)).all fun e => dispatchLocked s (dieOf g) e then none
      else if recResult l.image ≠ 0 ∧ (spaceFor s (dieOf g) (recResult l.image) 0).isNone then none
      else some g

/-- Whether a launch can start some task on a die now. -/
def canStart (s : State) (die : Nat) (l : Launch) : Bool :=
  launchReady l && (placements l).any fun p => (unstarted l).any fun i => (startStrand s l p.1 p.2 i).any fun g => dieOf g == die

/-- A strand on which a suspended context can resume now: its save area and descriptor hold no locked line (R255). -/
def resumeStrand (s : State) (c : Suspended) : Option Nat :=
  if physLocked s c.saved.sbase.toNat saveBytes || physLocked s c.saved.sdesc.toNat 64 then none
  else (List.range 2048).find? fun g => strandFree s g && mayResume s c g

/-- The die whose ready pool a suspended context keeps its place in (R356). -/
def Suspended.die (c : Suspended) : Nat := c.ctx / 8192

/-- The place of a suspended context in the ready order: its priority and its launch's order (R356). -/
def readyRank (s : State) (c : Suspended) : Nat × Nat :=
  match c.saved.task with
  | some k => (k.prio, ((launchOf s k.launch).map fun l => (readyOn l c.die).1).getD 0)
  | none => (0, 0)

/-- A free strand of a die. -/
def freeOnDie (s : State) (die : Nat) : Option Nat :=
  ((List.range 512).map fun i => die * 512 + i).find? (strandFree s)

/-- Whether a node of a grouped launch that comes before a rank can be placed now, from some block of a die. -/
def nodeOutranks (s : State) (die : Nat) (r : Nat × Nat) : Bool :=
  s.blocks.any fun p => p.1 / 4 == die && match waitingNode p.2 with
    | some q => ranksBefore (nodeRank q) r && (freeOnDie s die).isSome
    | none => false

/-- Whether a node of a die's pool that can be placed now comes before a rank (R332). -/
def outranked (s : State) (die : Nat) (r : Nat × Nat) : Bool :=
  (s.launches.any fun l => (nodeDies l).contains die && ranksBefore (launchRank l die) r && canStart s die l) ||
    (s.suspended.any fun c => c.die == die && ranksBefore (readyRank s c) r && (resumeStrand s c).isSome) || nodeOutranks s die r

/-- The seven words of a supervisor block (R350), where SUPB is aligned, in device HBM and readable, and DATP is acceptable. -/
def supervisorBlock (s : State) (supb : Nat) : Option (List Word) :=
  if supb % 64 ≠ 0 ∨ inHbm s supb 64 = false then none
  else
    match locOf s supb with
    | none => none
    | some loc =>
      if readFails s loc 64 then none
      else
        let ws := (List.range 7).map fun i => word (homeNat s (loc + 8 * i) 8)
        let mode := bits (ws.getD 5 0).toNat 60 4
        if mode = 0 ∨ mode = 10 then some ws else none

/-- The scalar registers at a task's entry (R95). -/
def entryRegs (img : List Byte) (sp : Word) : Vector Word 32 :=
  Vector.ofFn fun i : Fin 32 =>
    if i.val = 2 then sp
    else if i.val = 10 then word (recCount img)
    else if (11 ≤ i.val ∧ i.val ≤ 17) ∨ (18 ≤ i.val ∧ i.val ≤ 26) then word (recArg img (i.val - 11))
    else 0

/-- The delegation that the firmware sets at dispatch (R350): causes 0 to 8, 12, 13, 15, 24 to 31 and 48. -/
def dispatchMedeleg : Word := 0x10000FF00B1FF

/-- A strand as a task finds it at its entry, before the supervisor block (R45.5, R95, R232, R283, R331, R350): everything
that no rule names stays. -/
def entryStrand (t : Strand) (k : Task) (img : List Byte) (sp sbase sdesc : Word) : Strand :=
  { t with
    task := some k
    x := entryRegs img sp
    pc := word (recEntry img)
    vl := 0
    vcfg := 4
    vkey := 0
    vstat := 0
    vmcnt := 0
    vtrows := 0
    vrthr := 0x40000
    ctags := 0
    cfault := 0
    vcpPc := 0
    weight := BitVec.ofNat 8 (recWeight img)
    sbase := maskTo 0xFFFFFFFFFFF000 sbase
    sdesc := maskTo 0xFFFFFFFFFFFFC0 sdesc
    medeleg := dispatchMedeleg
    mideleg := 0x22
    mcounteren := 7
    scounteren := 7
    reservation := none
    gen := t.gen + 1
    queue := []
    replay := none
    place := 0
    peek := false
    heldUntil := 0
    framing := none
    sbaseNow := maskTo 0xFFFFFFFFFFF000 sbase
    sdescNow := maskTo 0xFFFFFFFFFFFFC0 sdesc
    claims := List.replicate 32 .free
    unfold := none
    qclock := Clock4.zero
    sclock := Clock4.zero
    seen := Clock4.zero
    seenV := Clock4.zero
    unfenced := []
    preempt := none
    storeTraps := []
    firmware := false
    waiting := false
    failing := none
    upto := none
    xbad := []
    wake := false
    bound := none
    ctxState := .active
    pend := false }

/-- The supervisor block's words loaded, and the mode (R350). -/
def loadSupervisor (t : Strand) (mode : Mode) (ws : List Word) : Strand :=
  let w := fun i => ws.getD i 0
  putFmtb
    { t with
      mode := mode
      stvec := w 0 &&& ~~~2#64
      sscratch := w 1
      mstatus := mergeBits sstatusMask t.mstatus (w 2)
      mie := mergeBits (t.mideleg.toNat &&& sintMask) t.mie (w 3)
      stimecmp := w 4
      datp := w 5 } (w 6)

/-- The context-table entry of a die read (R348, R394). -/
def tableEntry (s : State) (die e : Nat) : Word × Word :=
  match locOf s (sget 0 s.ctxTable die + 16 * e) with
  | some loc => if readFails s loc 16 then (0, 0) else (word (homeNat s loc 8), word (homeNat s (loc + 8) 8))
  | none => (0, 0)

/-- SHARE taken at a dispatch or a resumption, after the division (R30, R338). -/
def takeShare (s : State) (gid : Nat) : State :=
  let s := redivide s (coreOf gid)
  putStrand s gid { strandAt s gid with share := (strandAt s gid).nextShare }

/-- The check of R349 and the supervisor block at dispatch; then STATE, STRAND and the watchdog; else the task fails with
ERR 132 (R349, R350), or its context is LOST where the descriptor cannot be written (R355). -/
def beginTask (s : State) : State :=
  let s := noTimeouts s s.gid
  let mode : Mode := if (descRead s s.t.sdescNow 22 1).getD 0 % 2 = 1 then .supervisor else .user
  match (if areaOk s s.t.sbaseNow s.t.sdescNow then supervisorBlock s ((descRead s s.t.sdescNow 24 8).getD 1) else none) with
  | none => endTaskOn s s.gid false 132
  | some ws =>
    match descWrite s s.t.sdescNow 8 [stateByte .active false] with
    | none => contextLost s 128
    | some s =>
      match descWrite s s.t.sdescNow 20 (bytesOf 2 s.gid) with
      | none => contextLost s 128
      | some s =>
        let s := reloadWatchdog { s with t := loadSupervisor s.t mode ws }
        acquireWith s (((s.t.task.bind fun k => launchOf s k.launch).map fun l => l.clock).getD Clock4.zero)

/-- Task i of a launch dispatched to a strand (R95, R329, R332, R333, R348 to R350). -/
def dispatchTask (s : State) (l : Launch) (x b i gid : Nat) : State :=
  let die := dieOf gid
  match freeCtx s die with
  | none => s
  | some e =>
    let d := draw s
    let n := recResult l.image
    let base := (spaceFor d.2 die n d.1).getD 0
    let s := if n = 0 then s else { d.2 with results := (die * 8192 + e, (die, base, n)) :: d.2.results }
    let sp : Word := if n = 0 then 0 else word ((base + n) / 16 * 16)
    let k : Task :=
      { id := BitVec.ofNat 32 (recTaskId l.image + i), launch := l.key, index := i, total := taskTotal l.image
        levels := (levelsOf l.image).map (BitVec.ofNat 8), compl := BitVec.ofNat 32 (recCompl l.image), prio := recPrio l.image
        ctx := die * 8192 + e, order := s.nextOrder }
    let te := tableEntry s die e
    let s := putLaunch s { l with place := some (x, b), started := i :: l.started }
    let s := { s with
      ctxUsed := (die * 8192 + e) :: s.ctxUsed
      nextOrder := s.nextOrder + 1
      gated := s.gated.filter fun c => c != coreOf gid }
    let s := putStrand (emptyRo s (coreOf gid)) gid (entryStrand (strandAt s gid) k l.image sp te.1 te.2)
    asStrand gid beginTask (takeShare s gid)

/-- TASK_DISPATCH (R329, R332, R350): the launch, the task and the placement are given; nothing happens where R329 or the order
of R332 does not allow it. -/
def execTaskDispatch (s : State) : Out :=
  .next (
    match launchOf s s.inp.key with
    | none => s
    | some l =>
      match startStrand s l s.inp.x s.inp.b s.inp.idx with
      | some g =>
        if !launchReady l || outranked s (dieOf g) (launchRank l (dieOf g)) then s
        else dispatchTask s l s.inp.x s.inp.b s.inp.idx g
      | none => s)

/-- The checks and writes of a resumption on the strand, whose frames are given (R348, R349, R355, R356, R358, R359). -/
def resumeChecks (seeds : List (Nat × Nat)) (s : State) : State :=
  let s := latch s
  if !areaOk s s.t.sbaseNow s.t.sdescNow then contextLost s 128
  else if !(seeds.all fun p => imageOk s (s.t.sbaseNow.toNat + p.1) p.2) then contextLost s 130
  else
    match descWrite s s.t.sdescNow 8 [stateByte .active s.t.pend] with
    | none => contextLost s 128
    | some s =>
      match descWrite s s.t.sdescNow 20 (bytesOf 2 s.gid) with
      | none => contextLost s 128
      | some s => reloadWatchdog { s with t := { s.t with ctxState := .active } }

/-- A suspended context reloaded on a strand (R32, R356); the generation is the strand's (R257). -/
def resumeOn (s : State) (c : Suspended) (gid : Nat) : State :=
  let s := { s with
    suspended := s.suspended.filter fun d => d.ctx != c.ctx
    records := s.records ++ c.records.map fun r => { r with gid := gid }
    gated := s.gated.filter fun k => k != coreOf gid }
  let s := putStrand s gid { c.saved with gen := (strandAt s gid).gen, preempt := none, share := 0, nextShare := 0 }
  asStrand gid (resumeChecks c.seeds) (takeShare s gid)

/-- TASK_RESUMPTION (R356). -/
def execTaskResumption (s : State) : Out :=
  .next (
    match s.suspended.find? fun c => c.ctx == s.inp.key with
    | none => s
    | some c =>
      if (resumeStrand s c).isSome && strandFree s s.inp.gid && mayResume s c s.inp.gid && !outranked s c.die (readyRank s c) then resumeOn s c s.inp.gid
      else s)

/-- The lines of the streams that are fetched before a node is ready (R332): those of HBM, each once, under the spawner's
translation or as physical addresses. -/
def streamLines (s : State) (l : Launch) (die : Nat) : List Nat :=
  ((List.range 4).filter fun n => bits (recStreamCtl l.image n) 2 1 == 1 && bits (recStreamCtl l.image n) 0 1 == 1).flatMap
    fun n => (List.range (recStreamBytes l.image n / 128)).filterMap fun i =>
      let va := (recStreamBase l.image n + 128 * i) % 2 ^ 64
      let loc := match l.xl with
        | some xl => match locate s (die * 128) xl .read va with
          | .ok p => some p.1
          | .error _ => none
        | none => locOf s va
      loc.bind fun a => if placeOf a = .hbm then some (lineOf a) else none

/-- A node of a launch becomes ready on a die (R332): its predecessors have completed and its streams are resident. A launch
with COUNT 0 completes as soon as it is ready (R329). -/
def readyNode (s : State) (l : Launch) (die : Nat) : State :=
  if l.hold || (l.edges.any fun k => (launchOf s k).isSome) || !(nodeDies l).contains die || l.ready.any fun p => p.1 == die then s
  else
    let s := (distinct (streamLines s l die)).foldl (fun s i => cacheLine s (homeSlice i) i true true) s
    let m := { l with ready := (die, (s.nextOrder, s.clock)) :: l.ready }
    let s := { s with nextOrder := s.nextOrder + 1 }
    if launchReady m && decide (taskTotal l.image = 0) then dropLaunch s l.key else putLaunch s m

/-- NODE_READY (R332). -/
def execNodeReady (s : State) : Out :=
  .next (match launchOf s s.inp.key with
    | some l => readyNode s l s.inp.die
    | none => s)

/-- The ready launch that the dispatcher places next, with a placement, a task and a strand (R332); a free number turns the list
of placements. -/
def nextStart (s : State) (turn : Nat) : Option (Launch × Nat × Nat × Nat × Nat) :=
  s.launches.findSome? fun l =>
    if !launchReady l then none
    else
      let ps := placements l
      (ps.rotateLeft (turn % (ps.length + 1))).findSome? fun p => (unstarted l).findSome? fun i =>
        match startStrand s l p.1 p.2 i with
        | some g => if outranked s (dieOf g) (launchRank l (dieOf g)) then none else some (l, p.1, p.2, i, g)
        | none => none

/-- The suspended context that resumes next, with a strand (R356). -/
def nextResume (s : State) : Option (Suspended × Nat) :=
  s.suspended.findSome? fun c =>
    if outranked s c.die (readyRank s c) then none else (resumeStrand s c).map fun g => (c, g)

end Sys2Proof.Machine
end

