-- ==== Sys2Proof/Machine/Parity.lean ====
section
/-! DEFINITION. Parity of the register files (R360, R401): which registers an instruction reads and writes, and the traps that bad
parity raises. -/

namespace Sys2Proof.Machine

/-- Fields a and b of an instruction word as register numbers. -/
def fieldA (w : InstrWord) : Nat := bits w.toNat 15 5
/-- Field b. -/
def fieldB (w : InstrWord) : Nat := bits w.toNat 20 5

/-- The x registers that a word of the standard base reads: rs1, and rs2 where its format has one. -/
def baseReads (w : InstrWord) : List Nat :=
  let a := fieldA w
  let b := fieldB w
  match w.toNat % 128 with
  | 0x03 | 0x13 | 0x1B | 0x67 => [a]
  | 0x23 | 0x33 | 0x3B | 0x63 => [a, b]
  | 0x2F => if bits w.toNat 27 5 = 2 then [a] else [a, b]
  | 0x73 => if bits w.toNat 12 3 = 0 then (if bits w.toNat 25 7 = 9 then [a, b] else []) else if bits w.toNat 14 1 = 1 then [] else [a]
  | _ => []

/-- The x registers that an instruction reads (R50 to R57). -/
def xReads (i : Instr) : List Nat :=
  let w := wordOf i
  let a := [fieldA w]
  let ab := [fieldA w, fieldB w]
  match i with
  | .vaSetvl _ _ _ | .vaSetvlP _ _ _ | .vmLds _ _ _ _ | .vmSts _ _ _ _ | .vmLdmc _ _ _ _ | .vmBwait _ _ _ | .vmCp _ _ _
  | .vpIns _ _ _ | .vxMtld _ _ _ | .vxClaim _ _ _ | .vxFulfil _ _ | .vxDep _ _ _ | .vxTlbinv _ _ => ab
  | .vaSplat _ _ _ | .vaRng _ _ _ => [fieldB w]
  | .vaSetcfg _ _ | .vaSetkey _ _ | .vpTopk _ _ _ | .vpHist _ _ _ | .vpSlideup _ _ _ | .vpSlidedn _ _ _ | .vpRotg _ _ _
  | .vpBcast _ _ _ | .vpExt _ _ _ | .vpSetd _ _ | .vxMgemm _ _ | .vxMcomp _ _ _ | .vxMunf _ | .vxPush _ _ _ _ | .vxAbandon _
  | .vxFld _ _ | .vxFprobe _ _ | .vxRelease _ | .vxSpawn _ _ | .vxGlaunch _ | .vxLvl _ _ | .vxSave _ | .vxIcinv _ => a
  | .vmFence _ _ | .vmRofence _ => []
  | _ =>
    match w.toNat % 128, bits w.toNat 12 3 with
    | 0x0B, 1 | 0x0B, 4 => a
    | 0x2B, _ => a
    | 0x0B, _ | 0x5B, _ | 0x7B, _ => []
    | _, _ => baseReads w

/-- The x register that an instruction writes where it completes. -/
def xWrite (i : Instr) (xw : Bool) : List Nat :=
  let w := wordOf i
  let d := [bits w.toNat 7 5]
  match i with
  | .vaSetvl _ _ _ | .vaSetvlP _ _ _ => d
  | _ =>
    match w.toNat % 128 with
    | 0x03 | 0x13 | 0x1B | 0x33 | 0x3B | 0x37 | 0x17 | 0x6F | 0x67 | 0x2F | 0x73 => d
    | 0x0B | 0x2B | 0x5B | 0x7B => if xw then d else []
    | _ => []

/-- Whether an instruction reads an x register of bad parity (R360). -/
def xParity (s : State) (i : Instr) : Bool := (xReads i).any s.t.xbad.contains

/-- Whether an instruction reads elements of a source register (R113, R119, R131, R132): a Plait source below its extent alone, `vp.ext`
the one element it names, `vp.getd` and `vp.setd` none. `k` is the element, at the instruction's width. -/
def readsElement (s : State) (e : QEntry) (n k : Nat) : Bool :=
  let below := fun lim : Nat => decide (k < Nat.min lim e.vl.toNat)
  match e.instr with
  | .vpGetd _ _ | .vpSetd _ _ => false
  | .vpExt _ _ _ => decide (k = e.xa.toNat) && below e.vl.toNat
  | .vpGperm _ _ _ | .vpSlideup _ _ _ | .vpSlidedn _ _ _ | .vpPerm _ _ _ | .vpCompress _ _ _ | .vpExpand _ _ _ | .vpRotg _ _ _
  | .vpBcast _ _ _ | .vpIns _ _ _ => below e.vl.toNat
  | _ => if e.word.toNat % 128 = 0x5B then below (srcV { s with t := { s.t with replay := some e } } n).len.toNat else below e.vl.toNat

/-- The element index at which an entry meets bad parity in a source (R360): the lowest, over its vector and mask sources; 0 where it
does not read that source in element order. -/
def badElement (s : State) (e : QEntry) : Option Nat :=
  let vs := s.t.vbad.filterMap fun p =>
    let k := p.2 * 32 / cfgW e.vcfg
    if ((vSources e.instr (footOf s e)).map (· % 32)).contains p.1 && readsElement s e p.1 k then
      some (if chainsOn e.vcfg e.instr p.1 then k else 0) else none
  let ks := s.t.kbad.filterMap fun p =>
    if ((kSources e.instr (footOf s e)).map BitVec.toNat).contains p.1 && decide (p.2 < e.vl.toNat) then
      some (if chainsOnMask e.instr then p.2 else 0) else none
  match vs ++ ks with
  | [] => none
  | n :: r => some (r.foldl Nat.min n)

/-- Registers written hold good parity again. -/
def freshParity (s : State) (xs vs ks : List Nat) : State :=
  { s with t := { s.t with
      xbad := s.t.xbad.filter fun n => !xs.contains n
      vbad := s.t.vbad.filter fun p => !vs.contains p.1
      kbad := s.t.kbad.filter fun p => !ks.contains p.1 } }

/-- What an instruction wrote, where it completed, holds good parity: neither a stall nor a trap has come of it. -/
def afterWrite (s u : State) (i : Instr) (xw : Bool) (e : QEntry) : State :=
  if u.stalled || u.t.gen != s.t.gen || u.gid != s.gid || (s.t.xbad.isEmpty && s.t.vbad.isEmpty && s.t.kbad.isEmpty) then u
  else freshParity u (xWrite i xw) (destsOf s [e]) (kdestsOf s [e])

/-- A destination of an instruction that stopped at element p: from p on its elements below VL are free. -/
def freeFrom (p w vl : Nat) (s : State) (n : Nat) : State :=
  let d := draw s
  let r := getV d.2 n
  setV d.2 n { r with
    bits := BitVec.ofNat 32768 (r.bits.toNat % 2 ^ (p * w) + d.1 * 2 ^ (p * w) % 2 ^ (vl * w))
    vpi := BitVec.ofNat 11 (p * w / 32) }

/-- The trap of the oldest entry at bad parity in element p (R28, R360), `u` being the state in which the elements below p are
performed; the flags of the steps of a matrix instruction that have completed are ORed into `vstat` (R288). -/
def parityTrap (s u : State) (e : QEntry) (p : Nat) : State :=
  let f := if flagsAtTrap e.instr then e.late ||| u.t.vstat else 0
  let u := { u with t := { u.t with vstat := s.t.vstat ||| f } }
  let u := if p = 0 then u else (destsOf s [e]).foldl (freeFrom p (cfgW e.vcfg) e.vl.toNat) u
  vectorTrap s u e s.t.queue.tail 27 0 s.t.pc

end Sys2Proof.Machine
end

