-- ==== Sys2Proof/Machine/Ahead.lean ====
section
/-! DEFINITION. Which entries of the vector queue may be performed, and which ahead of older ones (R25 to R27, R34, R105, R113, R135,
R240). -/

namespace Sys2Proof.Machine

/-- What a load, store or update does that may pass older entries of other lines (R105, R240); none for every other instruction. -/
def plainAccess (e : QEntry) : Option Acc :=
  match e.instr with
  | .vmLd _ _ _ | .vmLdraw _ _ _ | .vmLds _ _ _ _ | .vmLdx _ _ _ _ | .vmLdff _ _ _ | .vmLdffx _ _ _ _ | .vmLdnc _ _ _ => some .read
  | .vmSt _ _ _ | .vmStraw _ _ _ | .vmSts _ _ _ _ | .vmStx _ _ _ _ | .vmUpdadd _ _ _ | .vmUpdfadd _ _ _ | .vmUpdmin _ _ _
  | .vmUpdmax _ _ _ | .vmUpdfmax _ _ _ | .vmUpdfmin _ _ _ => some .write
  | _ => none

/-- Whether an entry touches no memory and orders none: an arithmetic or Plait instruction, or a take, a push or a read of the
FE bits (R264, R265). -/
def memoryFree (e : QEntry) : Bool :=
  let op := e.word.toNat % 128
  decide (op = 0x0B) || decide (op = 0x5B) || (match e.instr with
    | .vxTake _ | .vxPush _ _ _ _ | .vxFe _ => true
    | _ => false)

/-- Whether an instruction writes a register of the strand beside its vector, mask and x registers (R44). -/
def writesCounts (i : Instr) : Bool :=
  match i with
  | .vpMergec _ _ _ => true
  | _ => false

/-- Whether a younger access to some lines of memory may pass an older entry (R105, R240): it shares no line with a plain access, and no
other instruction of memory or of the system stands between. -/
def passesAccess (s : State) (lines : List Nat) (o : QEntry) : Bool :=
  memoryFree o || ((plainAccess o).isSome && match entryLines s o with
    | none => false
    | some ls => !(lines.any ls.contains))

/-- Whether younger vector instructions wait for an entry whatever they are: a sleep, and a sequentially consistent access (R229, R259). -/
def blocksYounger (o : QEntry) : Bool :=
  match o.instr with
  | .vmGcsleep _ _ _ _ | .vmLdsc _ _ _ | .vmStsc _ _ _ => true
  | _ => false

/-- Whether the first `k` elements of the entry in a place have their sources, and nothing older that is not finished still reads or
writes its destinations (R25). -/
def sourcesReady (s : State) (older : List QEntry) (e : QEntry) (k : Nat) : Bool :=
  let open_ := older.filter fun o => !o.done
  let dv := destsOf s open_
  let dk := kdestsOf s open_
  (vSources e.instr (footOf s e)).all (sourceCovered s (wordsPerformed s) older e k) &&
    (kSources e.instr (footOf s e)).all (fun m => !dk.contains m.toNat) &&
    (destsOf s [e]).all (fun n => !dv.contains n && !(open_.any fun o => ((vSources o.instr (footOf s o)).map (· % 32)).contains n)) &&
    (kdestsOf s [e]).all fun n => !dk.contains n && !(open_.any fun o => ((kSources o.instr (footOf s o)).map BitVec.toNat).contains n)

/-- Whether the entry in a place of the focus strand's queue may complete ahead of the older ones: an instruction that touches no
memory, a plain load, or a plain store of which every older instruction has passed its fault point (R27). -/
def mayComplete (s : State) (n : Nat) : Bool :=
  match s.t.queue[n]? with
  | none => false
  | some e =>
    let open_ := (s.t.queue.take n).filter fun o => !o.done
    decide (n = 0) || (memoryFree e && decide (e.word.toNat % 128 ≠ 0x7B) && !writesCounts e.instr) ||
      match plainAccess e with
      | none => false
      | some acc =>
        (decide (acc = .read) || open_.all fun o => o.passed) &&
          match entryLines s e with
          | none => false
          | some ls => open_.all (passesAccess s ls)

/-- Whether the walks for the pages that an entry touches, or for an entry whose steps translate afresh every walk, wait for no line that
another strand's atomic has locked (R255). -/
def walksFree (s : State) (e : QEntry) : Bool :=
  let xl := (ctxOfEntry s e).xl
  let core := coreOf s.gid
  match e.instr with
  | .vxMgemm _ _ | .vxMunf _ => !isTranslated xl || s.slices.all fun p => p.2.locks.all fun l => l.2 == s.gid
  | _ => (spans s e).all fun p => !walkWaits s core xl p.2.1 && !walkWaits s core xl ((p.2.1 + (p.2.2 - 1)) % 2 ^ 64)

/-- Whether the entry in a place may be tried, its first `k` elements: one that is not finished, whose sources are ready, and which has its
spares and its unit; a younger one to complete or to be tested for its fault point. -/
def mayTryTo (s : State) (n k : Nat) : Bool :=
  match s.t.queue[n]? with
  | none => false
  | some e =>
    let older := s.t.queue.take n
    !e.done && hasSpares s older e && unitFreeFor s n e && walksFree s e &&
      (decide (n = 0) || (!(older.any fun o => !o.done && blocksYounger o) && (badElement s e).isNone && sourcesReady s older e k &&
        (!e.passed || mayComplete s n)))

/-- Whether the entry in a place may be tried whole. -/
def mayTry (s : State) (n : Nat) : Bool := mayTryTo s n 4096

/-- The place of the entry that the vector stream tries next; none where there is none from the turn's place on. -/
def tryPlace (s : State) : Option Nat :=
  (List.range s.t.queue.length).find? fun n => decide (s.t.place ≤ n) && mayTry s n

end Sys2Proof.Machine
end

