-- ==== Sys2Proof/Machine/FloatOps.lean ====
section
/-! DEFINITION. The FVV, FVX and unary FP instructions and the conversion (R161 to R168). -/

namespace Sys2Proof.Machine

/-- The FVV and FVX operations on B = vs2[i], A and D = the old vd[i] (R162). -/
inductive FArith where
  | fadd | fsub | fmul | fdiv | fmin | fmax | fmacc | fnmacc | fmsac | fnmsac | fsgnj | fsgnjn | fsgnjx
  deriving DecidableEq, Repr

/-- One element of R162 with its flags (R163). -/
def farith (F : FpFmt) (md : RMode) (sat : Bool) (op : FArith) (b a d : Nat) : Nat × Flags :=
  match op with
  | .fadd => fop2 F md sat .fadd b a
  | .fsub => fop2 F md sat .fsub b a
  | .fmul => fop2 F md sat .fmul b a
  | .fdiv => fop2 F md sat .fdiv b a
  | .fmin => fminmax F false b a
  | .fmax => fminmax F true b a
  | .fmacc => fma F md sat false false b a d
  | .fnmacc => fma F md sat true true b a d
  | .fmsac => fma F md sat false true b a d
  | .fnmsac => fma F md sat true false b a d
  | .fsgnj => (withSign F b (signBit F a), 0)
  | .fsgnjn => (withSign F b (!signBit F a), 0)
  | .fsgnjx => (withSign F b (signBit F a != signBit F b), 0)

/-- An FP operation with the A operand given (R162). -/
def fpArith (op : FArith) (d b : Reg) (m : KReg) (A : Ctx → State → Nat → Nat) : Ctx → State → Eff :=
  fpElementwise d m fun F c s i =>
    farith F (cfgRM c.cfg) (cfgSat c.cfg) op (vElem c s b i) (A c s i) (elem c.w (getV s d.toNat).bits i)

/-- An FP operation on two registers. -/
def fpFvv (op : FArith) (d a b : Reg) (m : KReg) : Ctx → State → Eff := fpArith op d b m fun c s => vElem c s a

/-- An FP operation on a register and x[a]. -/
def fpFvx (op : FArith) (d b : Reg) (m : KReg) : Ctx → State → Eff := fpArith op d b m fun c _ _ => xElem c

/-- `va.fadd.fvv` (R162). -/
def execVaFaddFvv (d a b : Reg) (m : KReg) : State → Out := runVec (.vaFaddFvv d a b m) false (fpFvv .fadd d a b m)

/-- `va.fsub.fvv` (R162). -/
def execVaFsubFvv (d a b : Reg) (m : KReg) : State → Out := runVec (.vaFsubFvv d a b m) false (fpFvv .fsub d a b m)

/-- `va.fmul.fvv` (R162). -/
def execVaFmulFvv (d a b : Reg) (m : KReg) : State → Out := runVec (.vaFmulFvv d a b m) false (fpFvv .fmul d a b m)

/-- `va.fdiv.fvv` (R162). -/
def execVaFdivFvv (d a b : Reg) (m : KReg) : State → Out := runVec (.vaFdivFvv d a b m) false (fpFvv .fdiv d a b m)

/-- `va.fmin.fvv` (R163). -/
def execVaFminFvv (d a b : Reg) (m : KReg) : State → Out := runVec (.vaFminFvv d a b m) false (fpFvv .fmin d a b m)

/-- `va.fmax.fvv` (R163). -/
def execVaFmaxFvv (d a b : Reg) (m : KReg) : State → Out := runVec (.vaFmaxFvv d a b m) false (fpFvv .fmax d a b m)

/-- `va.fmacc.fvv` (R162). -/
def execVaFmaccFvv (d a b : Reg) (m : KReg) : State → Out := runVec (.vaFmaccFvv d a b m) false (fpFvv .fmacc d a b m)

/-- `va.fnmacc.fvv` (R162). -/
def execVaFnmaccFvv (d a b : Reg) (m : KReg) : State → Out := runVec (.vaFnmaccFvv d a b m) false (fpFvv .fnmacc d a b m)

/-- `va.fmsac.fvv` (R162). -/
def execVaFmsacFvv (d a b : Reg) (m : KReg) : State → Out := runVec (.vaFmsacFvv d a b m) false (fpFvv .fmsac d a b m)

/-- `va.fnmsac.fvv` (R162). -/
def execVaFnmsacFvv (d a b : Reg) (m : KReg) : State → Out := runVec (.vaFnmsacFvv d a b m) false (fpFvv .fnmsac d a b m)

/-- `va.fsgnj.fvv` (R163). -/
def execVaFsgnjFvv (d a b : Reg) (m : KReg) : State → Out := runVec (.vaFsgnjFvv d a b m) false (fpFvv .fsgnj d a b m)

/-- `va.fsgnjn.fvv` (R163). -/
def execVaFsgnjnFvv (d a b : Reg) (m : KReg) : State → Out := runVec (.vaFsgnjnFvv d a b m) false (fpFvv .fsgnjn d a b m)

/-- `va.fsgnjx.fvv` (R163). -/
def execVaFsgnjxFvv (d a b : Reg) (m : KReg) : State → Out := runVec (.vaFsgnjxFvv d a b m) false (fpFvv .fsgnjx d a b m)

/-- `va.fadd.fvx` (R162). -/
def execVaFaddFvx (d a b : Reg) (m : KReg) : State → Out := runVec (.vaFaddFvx d a b m) false (fpFvx .fadd d b m)

/-- `va.fsub.fvx` (R162). -/
def execVaFsubFvx (d a b : Reg) (m : KReg) : State → Out := runVec (.vaFsubFvx d a b m) false (fpFvx .fsub d b m)

/-- `va.fmul.fvx` (R162). -/
def execVaFmulFvx (d a b : Reg) (m : KReg) : State → Out := runVec (.vaFmulFvx d a b m) false (fpFvx .fmul d b m)

/-- `va.fdiv.fvx` (R162). -/
def execVaFdivFvx (d a b : Reg) (m : KReg) : State → Out := runVec (.vaFdivFvx d a b m) false (fpFvx .fdiv d b m)

/-- `va.fmin.fvx` (R163). -/
def execVaFminFvx (d a b : Reg) (m : KReg) : State → Out := runVec (.vaFminFvx d a b m) false (fpFvx .fmin d b m)

/-- `va.fmax.fvx` (R163). -/
def execVaFmaxFvx (d a b : Reg) (m : KReg) : State → Out := runVec (.vaFmaxFvx d a b m) false (fpFvx .fmax d b m)

/-- `va.fmacc.fvx` (R162). -/
def execVaFmaccFvx (d a b : Reg) (m : KReg) : State → Out := runVec (.vaFmaccFvx d a b m) false (fpFvx .fmacc d b m)

/-- `va.fnmacc.fvx` (R162). -/
def execVaFnmaccFvx (d a b : Reg) (m : KReg) : State → Out := runVec (.vaFnmaccFvx d a b m) false (fpFvx .fnmacc d b m)

/-- `va.fmsac.fvx` (R162). -/
def execVaFmsacFvx (d a b : Reg) (m : KReg) : State → Out := runVec (.vaFmsacFvx d a b m) false (fpFvx .fmsac d b m)

/-- `va.fnmsac.fvx` (R162). -/
def execVaFnmsacFvx (d a b : Reg) (m : KReg) : State → Out := runVec (.vaFnmsacFvx d a b m) false (fpFvx .fnmsac d b m)

/-- `va.fsgnj.fvx` (R163). -/
def execVaFsgnjFvx (d a b : Reg) (m : KReg) : State → Out := runVec (.vaFsgnjFvx d a b m) false (fpFvx .fsgnj d b m)

/-- `va.fsgnjn.fvx` (R163). -/
def execVaFsgnjnFvx (d a b : Reg) (m : KReg) : State → Out := runVec (.vaFsgnjnFvx d a b m) false (fpFvx .fsgnjn d b m)

/-- `va.fsgnjx.fvx` (R163). -/
def execVaFsgnjxFvx (d a b : Reg) (m : KReg) : State → Out := runVec (.vaFsgnjxFvx d a b m) false (fpFvx .fsgnjx d b m)

/-- A unary FP operation (R164). -/
def fpUnary (op : FUn) (d b : Reg) (m : KReg) : Ctx → State → Eff :=
  fpElementwise d m fun F c s i => funary F (cfgRM c.cfg) (cfgSat c.cfg) op (vElem c s b i)

/-- `va.fsqrt` (R164). -/
def execVaFsqrt (d b : Reg) (m : KReg) : State → Out := runVec (.vaFsqrt d b m) false (fpUnary .fsqrt d b m)

/-- `va.frsqrte` (R165). -/
def execVaFrsqrte (d b : Reg) (m : KReg) : State → Out := runVec (.vaFrsqrte d b m) false (fpUnary .frsqrte d b m)

/-- `va.frece` (R165). -/
def execVaFrece (d b : Reg) (m : KReg) : State → Out := runVec (.vaFrece d b m) false (fpUnary .frece d b m)

/-- `va.flog2` (R164). -/
def execVaFlog2 (d b : Reg) (m : KReg) : State → Out := runVec (.vaFlog2 d b m) false (fpUnary .flog2 d b m)

/-- `va.fexp2` (R164). -/
def execVaFexp2 (d b : Reg) (m : KReg) : State → Out := runVec (.vaFexp2 d b m) false (fpUnary .fexp2 d b m)

/-- `va.fclass` (R166). -/
def execVaFclass (d b : Reg) (m : KReg) : State → Out :=
  runVec (.vaFclass d b m) false (fpElementwise d m fun F c s i => (fclass F (vElem c s b i), 0))

/-- Register j of the destination of `va.fcvt` (R167): its share of the elements below VL, at the destination's width. -/
def fcvtReg (c : Ctx) (s : State) (T : Nat) (b : Reg) (m : KReg) (d j : Nat) : VReg :=
  let wd := fmtWidth T
  let n := 32768 / wd
  let cnt := Nat.min n (c.vl - j * n)
  denseReg wd cnt (packV wd (fun p =>
    if actOf s m (j * n + p) then (convert (cfgFmt c.cfg) T (cfgRM c.cfg) (cfgSat c.cfg) (vElem c s b (j * n + p))).1
    else elem wd (getV s (d + j)).bits p) cnt)

/-- `va.fcvt` (R161, R167, R168). -/
def fcvtBody (d a b : Reg) (m : KReg) (c : Ctx) (s : State) : Eff :=
  let S := cfgFmt c.cfg
  let g := fcvtRegs c.cfg a
  if !(isIntFmt S || (fpFmt S).isSome) || decide (d.toNat % g ≠ 0) then .deny s 2 (c.word.setWidth 64)
  else
    let s' := (List.range g).foldl (fun t j => setV t (d.toNat + j) (fcvtReg c s a.toNat b m d.toNat j)) s
    .ok (orFlags s' (elemFlags c s m fun i => (convert S a.toNat (cfgRM c.cfg) (cfgSat c.cfg) (vElem c s b i)).2))

/-- `va.fcvt` (R167). -/
def execVaFcvt (d a b : Reg) (m : KReg) : State → Out := runVec (.vaFcvt d a b m) false (fcvtBody d a b m)

end Sys2Proof.Machine
end

