-- ==== Sys2Proof/Machine/IntegerOps.lean ====
section
/-! DEFINITION. The IVV, IVX and IVI groups of custom-0 (R108, R109). -/

namespace Sys2Proof.Machine

/-- An integer operation on two registers (R108). -/
def intIvv (op : IOp) (d a b : Reg) (m : KReg) : Ctx → State → Eff :=
  elementwise d m fun c s i => iop c.w op (vElem c s b i) (vElem c s a i)

/-- An integer operation on a register and x[a] (R108). -/
def intIvx (op : IOp) (d b : Reg) (m : KReg) : Ctx → State → Eff :=
  elementwise d m fun c s i => iop c.w op (vElem c s b i) (xElem c)

/-- An integer operation on a register and field a (R108). -/
def intIvi (op : IOp) (d a b : Reg) (m : KReg) : Ctx → State → Eff :=
  elementwise d m fun c s i => iop c.w op (vElem c s b i) (immOperand c.w op a)

/-- `va.merge`: every element below VL is written, A where the mask bit is 1, vs2 elsewhere (R109). -/
def mergeWith (d b : Reg) (m : KReg) (A : Ctx → State → Nat → Nat) (c : Ctx) (s : State) : Eff :=
  .ok (putDense c s d (packV c.w (fun i => if actOf s m i then A c s i else vElem c s b i) c.vl))

/-- `va.add.ivv` (R108). -/
def execVaAddIvv (d a b : Reg) (m : KReg) : State → Out := runVec (.vaAddIvv d a b m) false (intIvv .add d a b m)

/-- `va.sub.ivv` (R108). -/
def execVaSubIvv (d a b : Reg) (m : KReg) : State → Out := runVec (.vaSubIvv d a b m) false (intIvv .sub d a b m)

/-- `va.mul.ivv` (R108). -/
def execVaMulIvv (d a b : Reg) (m : KReg) : State → Out := runVec (.vaMulIvv d a b m) false (intIvv .mul d a b m)

/-- `va.mulh.ivv` (R108). -/
def execVaMulhIvv (d a b : Reg) (m : KReg) : State → Out := runVec (.vaMulhIvv d a b m) false (intIvv .mulh d a b m)

/-- `va.min.ivv` (R108). -/
def execVaMinIvv (d a b : Reg) (m : KReg) : State → Out := runVec (.vaMinIvv d a b m) false (intIvv .min d a b m)

/-- `va.max.ivv` (R108). -/
def execVaMaxIvv (d a b : Reg) (m : KReg) : State → Out := runVec (.vaMaxIvv d a b m) false (intIvv .max d a b m)

/-- `va.minu.ivv` (R108). -/
def execVaMinuIvv (d a b : Reg) (m : KReg) : State → Out := runVec (.vaMinuIvv d a b m) false (intIvv .minu d a b m)

/-- `va.maxu.ivv` (R108). -/
def execVaMaxuIvv (d a b : Reg) (m : KReg) : State → Out := runVec (.vaMaxuIvv d a b m) false (intIvv .maxu d a b m)

/-- `va.and.ivv` (R108). -/
def execVaAndIvv (d a b : Reg) (m : KReg) : State → Out := runVec (.vaAndIvv d a b m) false (intIvv .and d a b m)

/-- `va.or.ivv` (R108). -/
def execVaOrIvv (d a b : Reg) (m : KReg) : State → Out := runVec (.vaOrIvv d a b m) false (intIvv .or d a b m)

/-- `va.xor.ivv` (R108). -/
def execVaXorIvv (d a b : Reg) (m : KReg) : State → Out := runVec (.vaXorIvv d a b m) false (intIvv .xor d a b m)

/-- `va.sll.ivv` (R108). -/
def execVaSllIvv (d a b : Reg) (m : KReg) : State → Out := runVec (.vaSllIvv d a b m) false (intIvv .sll d a b m)

/-- `va.srl.ivv` (R108). -/
def execVaSrlIvv (d a b : Reg) (m : KReg) : State → Out := runVec (.vaSrlIvv d a b m) false (intIvv .srl d a b m)

/-- `va.sra.ivv` (R108). -/
def execVaSraIvv (d a b : Reg) (m : KReg) : State → Out := runVec (.vaSraIvv d a b m) false (intIvv .sra d a b m)

/-- `va.mulhu.ivv` (R108). -/
def execVaMulhuIvv (d a b : Reg) (m : KReg) : State → Out := runVec (.vaMulhuIvv d a b m) false (intIvv .mulhu d a b m)

/-- `va.merge.ivv` (R109). -/
def execVaMergeIvv (d a b : Reg) (m : KReg) : State → Out := runVec (.vaMergeIvv d a b m) false (mergeWith d b m (fun c s => vElem c s a))

/-- `va.add.ivx` (R108). -/
def execVaAddIvx (d a b : Reg) (m : KReg) : State → Out := runVec (.vaAddIvx d a b m) false (intIvx .add d b m)

/-- `va.sub.ivx` (R108). -/
def execVaSubIvx (d a b : Reg) (m : KReg) : State → Out := runVec (.vaSubIvx d a b m) false (intIvx .sub d b m)

/-- `va.mul.ivx` (R108). -/
def execVaMulIvx (d a b : Reg) (m : KReg) : State → Out := runVec (.vaMulIvx d a b m) false (intIvx .mul d b m)

/-- `va.mulh.ivx` (R108). -/
def execVaMulhIvx (d a b : Reg) (m : KReg) : State → Out := runVec (.vaMulhIvx d a b m) false (intIvx .mulh d b m)

/-- `va.min.ivx` (R108). -/
def execVaMinIvx (d a b : Reg) (m : KReg) : State → Out := runVec (.vaMinIvx d a b m) false (intIvx .min d b m)

/-- `va.max.ivx` (R108). -/
def execVaMaxIvx (d a b : Reg) (m : KReg) : State → Out := runVec (.vaMaxIvx d a b m) false (intIvx .max d b m)

/-- `va.minu.ivx` (R108). -/
def execVaMinuIvx (d a b : Reg) (m : KReg) : State → Out := runVec (.vaMinuIvx d a b m) false (intIvx .minu d b m)

/-- `va.maxu.ivx` (R108). -/
def execVaMaxuIvx (d a b : Reg) (m : KReg) : State → Out := runVec (.vaMaxuIvx d a b m) false (intIvx .maxu d b m)

/-- `va.and.ivx` (R108). -/
def execVaAndIvx (d a b : Reg) (m : KReg) : State → Out := runVec (.vaAndIvx d a b m) false (intIvx .and d b m)

/-- `va.or.ivx` (R108). -/
def execVaOrIvx (d a b : Reg) (m : KReg) : State → Out := runVec (.vaOrIvx d a b m) false (intIvx .or d b m)

/-- `va.xor.ivx` (R108). -/
def execVaXorIvx (d a b : Reg) (m : KReg) : State → Out := runVec (.vaXorIvx d a b m) false (intIvx .xor d b m)

/-- `va.sll.ivx` (R108). -/
def execVaSllIvx (d a b : Reg) (m : KReg) : State → Out := runVec (.vaSllIvx d a b m) false (intIvx .sll d b m)

/-- `va.srl.ivx` (R108). -/
def execVaSrlIvx (d a b : Reg) (m : KReg) : State → Out := runVec (.vaSrlIvx d a b m) false (intIvx .srl d b m)

/-- `va.sra.ivx` (R108). -/
def execVaSraIvx (d a b : Reg) (m : KReg) : State → Out := runVec (.vaSraIvx d a b m) false (intIvx .sra d b m)

/-- `va.mulhu.ivx` (R108). -/
def execVaMulhuIvx (d a b : Reg) (m : KReg) : State → Out := runVec (.vaMulhuIvx d a b m) false (intIvx .mulhu d b m)

/-- `va.merge.ivx` (R109). -/
def execVaMergeIvx (d a b : Reg) (m : KReg) : State → Out := runVec (.vaMergeIvx d a b m) false (mergeWith d b m (fun c _ _ => xElem c))

/-- `va.add.ivi` (R108). -/
def execVaAddIvi (d a b : Reg) (m : KReg) : State → Out := runVec (.vaAddIvi d a b m) false (intIvi .add d a b m)

/-- `va.sub.ivi` (R108). -/
def execVaSubIvi (d a b : Reg) (m : KReg) : State → Out := runVec (.vaSubIvi d a b m) false (intIvi .sub d a b m)

/-- `va.min.ivi` (R108). -/
def execVaMinIvi (d a b : Reg) (m : KReg) : State → Out := runVec (.vaMinIvi d a b m) false (intIvi .min d a b m)

/-- `va.max.ivi` (R108). -/
def execVaMaxIvi (d a b : Reg) (m : KReg) : State → Out := runVec (.vaMaxIvi d a b m) false (intIvi .max d a b m)

/-- `va.minu.ivi` (R108). -/
def execVaMinuIvi (d a b : Reg) (m : KReg) : State → Out := runVec (.vaMinuIvi d a b m) false (intIvi .minu d a b m)

/-- `va.maxu.ivi` (R108). -/
def execVaMaxuIvi (d a b : Reg) (m : KReg) : State → Out := runVec (.vaMaxuIvi d a b m) false (intIvi .maxu d a b m)

/-- `va.and.ivi` (R108). -/
def execVaAndIvi (d a b : Reg) (m : KReg) : State → Out := runVec (.vaAndIvi d a b m) false (intIvi .and d a b m)

/-- `va.or.ivi` (R108). -/
def execVaOrIvi (d a b : Reg) (m : KReg) : State → Out := runVec (.vaOrIvi d a b m) false (intIvi .or d a b m)

/-- `va.xor.ivi` (R108). -/
def execVaXorIvi (d a b : Reg) (m : KReg) : State → Out := runVec (.vaXorIvi d a b m) false (intIvi .xor d a b m)

/-- `va.sll.ivi` (R108). -/
def execVaSllIvi (d a b : Reg) (m : KReg) : State → Out := runVec (.vaSllIvi d a b m) false (intIvi .sll d a b m)

/-- `va.srl.ivi` (R108). -/
def execVaSrlIvi (d a b : Reg) (m : KReg) : State → Out := runVec (.vaSrlIvi d a b m) false (intIvi .srl d a b m)

/-- `va.sra.ivi` (R108). -/
def execVaSraIvi (d a b : Reg) (m : KReg) : State → Out := runVec (.vaSraIvi d a b m) false (intIvi .sra d a b m)

/-- `va.merge.ivi` (R109). -/
def execVaMergeIvi (d a b : Reg) (m : KReg) : State → Out := runVec (.vaMergeIvi d a b m) false (mergeWith d b m (fun c _ _ => immOperand c.w .add a))

end Sys2Proof.Machine
end

