-- ==== Sys2Proof/Machine/MaskOps.lean ====
section
/-! DEFINITION. Compares, mask logic and masks to scalars (R110, R111, R171). -/

namespace Sys2Proof.Machine

/-- An integer compare (R110). -/
def intCompare (op : ICmp) (d : KReg) (a b : Reg) (m : KReg) (c : Ctx) (s : State) : Eff :=
  .ok (setK s d (maskBits c s d m fun i => icmp c.w op (vElem c s b i) (vElem c s a i)))

/-- An FP compare (R110). -/
def fpCompare (op : FCmp) (d : KReg) (a b : Reg) (m : KReg) (c : Ctx) (s : State) : Eff :=
  match fpFmt (cfgFmt c.cfg) with
  | none => .deny s 2 (c.word.setWidth 64)
  | some F =>
    .ok (orFlags (setK s d (maskBits c s d m fun i => (fcmp F op (vElem c s b i) (vElem c s a i)).1))
      (elemFlags c s m fun i => (fcmp F op (vElem c s b i) (vElem c s a i)).2))

/-- Mask logic (R111). -/
def maskLogic (op : KOp) (d a b : KReg) (c : Ctx) (s : State) : Eff :=
  .ok (setK s d (packK (fun i => kop op ((srcK s a).getLsbD i) ((srcK s b).getLsbD i)) c.vl))

/-- `va.seq` (R110). -/
def execVaSeq (d : KReg) (a b : Reg) (m : KReg) : State → Out := runVec (.vaSeq d a b m) false (intCompare .seq d a b m)

/-- `va.sne` (R110). -/
def execVaSne (d : KReg) (a b : Reg) (m : KReg) : State → Out := runVec (.vaSne d a b m) false (intCompare .sne d a b m)

/-- `va.slt` (R110). -/
def execVaSlt (d : KReg) (a b : Reg) (m : KReg) : State → Out := runVec (.vaSlt d a b m) false (intCompare .slt d a b m)

/-- `va.sltu` (R110). -/
def execVaSltu (d : KReg) (a b : Reg) (m : KReg) : State → Out := runVec (.vaSltu d a b m) false (intCompare .sltu d a b m)

/-- `va.sle` (R110). -/
def execVaSle (d : KReg) (a b : Reg) (m : KReg) : State → Out := runVec (.vaSle d a b m) false (intCompare .sle d a b m)

/-- `va.sleu` (R110). -/
def execVaSleu (d : KReg) (a b : Reg) (m : KReg) : State → Out := runVec (.vaSleu d a b m) false (intCompare .sleu d a b m)

/-- `va.feq` (R110). -/
def execVaFeq (d : KReg) (a b : Reg) (m : KReg) : State → Out := runVec (.vaFeq d a b m) false (fpCompare .feq d a b m)

/-- `va.flt` (R110). -/
def execVaFlt (d : KReg) (a b : Reg) (m : KReg) : State → Out := runVec (.vaFlt d a b m) false (fpCompare .flt d a b m)

/-- `va.fle` (R110). -/
def execVaFle (d : KReg) (a b : Reg) (m : KReg) : State → Out := runVec (.vaFle d a b m) false (fpCompare .fle d a b m)

/-- `va.fne` (R110). -/
def execVaFne (d : KReg) (a b : Reg) (m : KReg) : State → Out := runVec (.vaFne d a b m) false (fpCompare .fne d a b m)

/-- `va.kand` (R111). -/
def execVaKand (d a b : KReg) : State → Out := runVec (.vaKand d a b) false (maskLogic .kand d a b)

/-- `va.kor` (R111). -/
def execVaKor (d a b : KReg) : State → Out := runVec (.vaKor d a b) false (maskLogic .kor d a b)

/-- `va.kxor` (R111). -/
def execVaKxor (d a b : KReg) : State → Out := runVec (.vaKxor d a b) false (maskLogic .kxor d a b)

/-- `va.kandn` (R111). -/
def execVaKandn (d a b : KReg) : State → Out := runVec (.vaKandn d a b) false (maskLogic .kandn d a b)

/-- `va.knot` (R111). -/
def execVaKnot (d b : KReg) : State → Out := runVec (.vaKnot d b) false (maskLogic .knot d 0 b)

/-- The indices of R171: active, below VL, with the bit of kb set. -/
def maskSet (c : Ctx) (s : State) (b m : KReg) : List Nat :=
  setBits c.vl fun i => actOf s m i && (srcK s b).getLsbD i

/-- `va.kpop` (R171). -/
def execVaKpop (d : Reg) (b m : KReg) : State → Out :=
  runVec (.vaKpop d b m) true fun c s => .ok (setX s d (word (maskSet c s b m).length))

/-- `va.kfirst` (R171). -/
def execVaKfirst (d : Reg) (b m : KReg) : State → Out :=
  runVec (.vaKfirst d b m) true fun c s => .ok (setX s d (match maskSet c s b m with
    | i :: _ => word i
    | [] => BitVec.allOnes 64))

end Sys2Proof.Machine
end

