-- ==== Sys2Proof/Machine/MoveReduce.lean ====
section
/-! DEFINITION. Moves, generators and reductions (R112, R169, R170, R172). -/

namespace Sys2Proof.Machine

/-- `va.mv` (R112). -/
def execVaMv (d b : Reg) (m : KReg) : State → Out := runVec (.vaMv d b m) false (elementwise d m fun c s => vElem c s b)

/-- `va.splat` (R112). -/
def execVaSplat (d b : Reg) (m : KReg) : State → Out :=
  runVec (.vaSplat d b m) false (elementwise d m fun c _ _ => c.xb.toNat % 2 ^ c.w)

/-- `va.iota` (R112). -/
def execVaIota (d : Reg) (m : KReg) : State → Out :=
  runVec (.vaIota d m) false (elementwise d m fun c _ i => i % 2 ^ c.w)

/-- `va.rng` (R172). -/
def execVaRng (d b : Reg) (m : KReg) : State → Out :=
  runVec (.vaRng d b m) false (elementwise d m fun c _ i => rngElem c.w c.xb.toNat i)

/-- The active elements of a reduction's source, each with its index (R169). -/
def redElems (c : Ctx) (s : State) (b : Reg) (m : KReg) : List (Nat × Nat) :=
  activeList c.w c.vl (actOf s m) (srcV s b.toNat).bits

/-- A reduction's destination (R169, R170). -/
def putReduced (c : Ctx) (s : State) (d : Reg) (val : Nat) (idx : Option Nat) : State :=
  putDense c s d (redResult c.w c.vl val idx)

/-- An integer reduction (R169). -/
def intReduce (r : IRed) (d b : Reg) (m : KReg) (c : Ctx) (s : State) : Eff :=
  .ok (putReduced c s d (ired c.w r ((redElems c s b m).map Prod.snd)) none)

/-- The format check of the FP reductions (R161), with NV for an active signalling NaN (R169). -/
def fpReduce (b : Reg) (m : KReg) (f : FpFmt → Ctx → State → Eff) (c : Ctx) (s : State) : Eff :=
  match fpFmt (cfgFmt c.cfg) with
  | none => .deny s 2 (c.word.setWidth 64)
  | some F => f F c (orFlags s (sigFlags F ((redElems c s b m).map Prod.snd)))

/-- The sum of R157 for LAM = 1, or of R158 for LAM = 0, +0 where no element is active; its flags. -/
def fredsum (F : FpFmt) (c : Ctx) (s : State) (b : Reg) (m : KReg) (pick : Nat → Nat) : Nat × Flags :=
  let md := cfgRM c.cfg
  let sat := cfgSat c.cfg
  let r :=
    if cfgLam c.cfg then
      blockSums F md sat (fun i => if decide (i < c.vl) && actOf s m i then some (vElem c s b i) else none) (ceilDiv c.vl 32)
    else
      let xs := (redElems c s b m).map Prod.snd
      freeTree F md sat pick xs.length xs
  let v := r.1.getD 0
  (if (fpDecode F v).isNan then F.nanPat else v, r.2)

/-- `va.fredsum` (R157, R158, R169). -/
def fredsumBody (d b : Reg) (m : KReg) : Ctx → State → Eff :=
  fpReduce b m fun F c s =>
    let p := drawFam s
    let r := fredsum F c s b m p.1
    .ok (orFlags (putReduced c p.2 d r.1 none) r.2)

/-- The largest active element that is not a NaN, of equal ones the first, with its index (R170). -/
def fpArgMax (F : FpFmt) (xs : List (Nat × Nat)) : Nat × Nat :=
  let ys := xs.filter fun p => !(fpDecode F p.2).isNan
  match argBest (fun q p => totalCmp (fpDecode F q) (fpDecode F p) == .gt) ys with
  | some p => (p.2, p.1)
  | none => (F.nanPat, 0xFFFFFFFF)

/-- The signed maximum of the active elements, of equal ones the first, with its index (R170). -/
def intArgMax (w : Nat) (xs : List (Nat × Nat)) : Nat × Nat :=
  match argBest (fun q p => decide (sgn w p < sgn w q)) xs with
  | some p => (p.2, p.1)
  | none => (iredEmpty w .redmax, 0xFFFFFFFF)

/-- `va.redsum` (R169). -/
def execVaRedsum (d b : Reg) (m : KReg) : State → Out := runVec (.vaRedsum d b m) false (intReduce .redsum d b m)

/-- `va.redmax` (R169). -/
def execVaRedmax (d b : Reg) (m : KReg) : State → Out := runVec (.vaRedmax d b m) false (intReduce .redmax d b m)

/-- `va.redmin` (R169). -/
def execVaRedmin (d b : Reg) (m : KReg) : State → Out := runVec (.vaRedmin d b m) false (intReduce .redmin d b m)

/-- `va.redand` (R169). -/
def execVaRedand (d b : Reg) (m : KReg) : State → Out := runVec (.vaRedand d b m) false (intReduce .redand d b m)

/-- `va.redor` (R169). -/
def execVaRedor (d b : Reg) (m : KReg) : State → Out := runVec (.vaRedor d b m) false (intReduce .redor d b m)

/-- `va.redxor` (R169). -/
def execVaRedxor (d b : Reg) (m : KReg) : State → Out := runVec (.vaRedxor d b m) false (intReduce .redxor d b m)

/-- `va.fredsum` (R169). -/
def execVaFredsum (d b : Reg) (m : KReg) : State → Out := runVec (.vaFredsum d b m) false (fredsumBody d b m)

/-- `va.fredmax` (R169). -/
def execVaFredmax (d b : Reg) (m : KReg) : State → Out :=
  runVec (.vaFredmax d b m) false
    (fpReduce b m fun F c s => .ok (putReduced c s d (fredBest F true ((redElems c s b m).map Prod.snd)) none))

/-- `va.fredmin` (R169). -/
def execVaFredmin (d b : Reg) (m : KReg) : State → Out :=
  runVec (.vaFredmin d b m) false
    (fpReduce b m fun F c s => .ok (putReduced c s d (fredBest F false ((redElems c s b m).map Prod.snd)) none))

/-- `va.redmaxi` (R170). -/
def execVaRedmaxi (d b : Reg) (m : KReg) : State → Out :=
  runVec (.vaRedmaxi d b m) false fun c s =>
    .ok (putReduced c s d (intArgMax c.w (redElems c s b m)).1 (some (intArgMax c.w (redElems c s b m)).2))

/-- `va.fredmaxi` (R170). -/
def execVaFredmaxi (d b : Reg) (m : KReg) : State → Out :=
  runVec (.vaFredmaxi d b m) false
    (fpReduce b m fun F c s =>
      .ok (putReduced c s d (fpArgMax F (redElems c s b m)).1 (some (fpArgMax F (redElems c s b m)).2)))

end Sys2Proof.Machine
end

