-- ==== Sys2Proof/Machine/PermOps.lean ====
section
/-! DEFINITION. The PERM and DESC groups (R113, R131, R132, R173, R174). -/

namespace Sys2Proof.Machine

/-- Element i of a permutation's source: zero at and above VL (R173). -/
def pElem (c : Ctx) (s : State) (r : Reg) (i : Nat) : Nat := permSrc c.w c.vl (srcV s r.toNat).bits i

/-- `vp.slideup` (R174). -/
def execVpSlideup (d a b : Reg) : State → Out :=
  runVec (.vpSlideup d a b) false (permute d fun c s i => if c.xa.toNat ≤ i then pElem c s b (i - c.xa.toNat) else 0)

/-- `vp.slidedn` (R174). -/
def execVpSlidedn (d a b : Reg) : State → Out :=
  runVec (.vpSlidedn d a b) false (permute d fun c s i => pElem c s b (i + c.xa.toNat))

/-- `vp.perm` (R174). -/
def execVpPerm (d a b : Reg) : State → Out :=
  runVec (.vpPerm d a b) false (permute d fun c s i => pElem c s b (vElem c s a i))

/-- `vp.compress` (R174). -/
def execVpCompress (d : Reg) (a : KReg) (b : Reg) : State → Out :=
  runVec (.vpCompress d a b) false (permute d fun c s i =>
    match (setBits c.vl (srcK s a).getLsbD)[i]? with
    | some j => pElem c s b j
    | none => 0)

/-- `vp.expand` (R174). -/
def execVpExpand (d : Reg) (a : KReg) (b : Reg) : State → Out :=
  runVec (.vpExpand d a b) false (permute d fun c s i =>
    if (srcK s a).getLsbD i then pElem c s b (countTo (srcK s a).getLsbD i) else 0)

/-- `vp.rotg` (R174). -/
def execVpRotg (d a b : Reg) : State → Out :=
  runVec (.vpRotg d a b) false (permute d fun c s i => rotgElem c.w c.vl c.xa.toNat (srcV s b.toNat).bits i)

/-- `vp.bcast` (R174). -/
def execVpBcast (d a b : Reg) : State → Out :=
  runVec (.vpBcast d a b) false (permute d fun c s _ => pElem c s b c.xa.toNat)

/-- Element j of `vp.ext` as a 64-bit value: sign-extended under FMT 0, 2, 4, 16 and 17 (R113). -/
def extValue (c : Ctx) (n : Nat) : Word :=
  let f := cfgFmt c.cfg
  if f = 0 ∨ f = 2 ∨ f = 4 ∨ f = 16 ∨ f = 17 then BitVec.ofInt 64 (sgn c.w n) else word n

/-- `vp.ext` (R113). -/
def execVpExt (d a b : Reg) : State → Out :=
  runVec (.vpExt d a b) true fun c s =>
    .ok (setX s d (if c.xa.toNat < c.vl then extValue c (vElem c s b c.xa.toNat) else 0))

/-- `vp.ins` (R174). -/
def execVpIns (d a b : Reg) : State → Out :=
  runVec (.vpIns d a b) false (permute d fun c s i =>
    if i = c.xa.toNat then c.xb.toNat % 2 ^ c.w else elem c.w (getV s d.toNat).bits i)

/-- `vp.getd` (R131): FE shows whether the register is FULL (R42, R264). -/
def execVpGetd (d b : Reg) : State → Out :=
  runVec (.vpGetd d b) true fun _ s =>
    .ok (setX s d (descWord { srcV s b.toNat with fe := (s.t.pending[b.toNat]).isSome }))

/-- KIND as the low bits of x[a] name it; the code 3 names none (R42, R132). -/
def kindOf (n : Nat) : Option Kind :=
  match n with
  | 0 => some .dense
  | 1 => some .run
  | 2 => some .sparse
  | _ => none

/-- `vp.setd` (R132). -/
def setdBody (d : Reg) (c : Ctx) (s : State) : Eff :=
  let r := getV s d.toNat
  let len := c.xa.extractLsb' 4 12
  match kindOf (bits c.xa.toNat 0 2) with
  | some k =>
    if (k = .dense ∨ k = r.kind) ∧ len ≤ r.len then
      .ok (setV s d.toNat { r with kind := k, len := len, key := if k = .dense then 0 else r.key })
    else .deny s 24 (word d.toNat)
  | none => .deny s 24 (word d.toNat)

/-- `vp.setd` (R132). -/
def execVpSetd (d a : Reg) : State → Out := runVec (.vpSetd d a) false (setdBody d)

end Sys2Proof.Machine
end

