-- ==== Sys2Proof/Machine/SortOps.lean ====
section
/-! DEFINITION. The SORT group (R119 to R130). -/

namespace Sys2Proof.Machine

/-- `vp.sort` (R123). -/
def execVpSort (d b : Reg) : State → Out :=
  runVec (.vpSort d b) false (wideOnly fun c s =>
    .ok (setV s d.toNat (runReg c.key c.vl (sortRun c.key (runElems c s b)))))

/-- The descriptor of a source's current mapping rewritten, elements unchanged (R124, R373). -/
def mark (s : State) (b : Reg) (k : Kind) (key : Key) (len : Nat) : State :=
  setV s b.toNat { getV s b.toNat with kind := k, key := key, len := BitVec.ofNat 12 len }

/-- `vp.chk` (R124). -/
def execVpChk (d b : Reg) : State → Out :=
  runVec (.vpChk d b) true (wideOnly fun c s =>
    if sortedUnder c.key (runElems c s b) then .ok (setX (mark s b .run c.key (runElems c s b).length) d 1)
    else .ok (setX s d 0))

/-- `out` of R125 with where each element came from. -/
def merged (c : Ctx) (s : State) (a b : Reg) : List (Nat × Bool) :=
  let xs := runElems c s a
  let ys := runElems c s b
  mergeRuns c.key (xs.length + ys.length) xs ys

/-- `vp.merge` (R125): field d names an even register. -/
def mergeBody (d : BitVec 4) (a b : Reg) : Ctx → State → Eff :=
  wideOnly (needRuns [a, b] fun c s =>
    let out := (merged c s a b).map Prod.fst
    let h := Nat.min out.length c.vl
    .ok (setV (setV s (2 * d.toNat) (runReg c.key c.vl (out.take h))) (2 * d.toNat + 1) (runReg c.key c.vl (out.drop h))))

/-- `vp.merge` (R125). -/
def execVpMerge (d : BitVec 4) (a b : Reg) : State → Out := runVec (.vpMerge d a b) false (mergeBody d a b)

/-- `vp.mergec` (R126). -/
def mergecBody (d a b : Reg) : Ctx → State → Eff :=
  wideOnly (needRuns [a, b] fun c s =>
    let kept := (merged c s a b).take (Nat.min (merged c s a b).length c.vl)
    let s := setV s d.toNat (runReg c.key c.vl (kept.map Prod.fst))
    .ok { s with t := { s.t with vmcnt := BitVec.ofNat 13 (kept.filter Prod.snd).length } })

/-- `vp.mergec` (R126). -/
def execVpMergec (d a b : Reg) : State → Out := runVec (.vpMergec d a b) false (mergecBody d a b)

/-- `vp.isect` (R127). -/
def execVpIsect (d a b : Reg) : State → Out :=
  runVec (.vpIsect d a b) false (wideOnly (needRuns [a, b] fun c s =>
    .ok (setV s d.toNat (runReg c.key c.vl (keepRun c.key true (runElems c s a) (runElems c s b))))))

/-- `vp.diff` (R127). -/
def execVpDiff (d a b : Reg) : State → Out :=
  runVec (.vpDiff d a b) false (wideOnly (needRuns [a, b] fun c s =>
    .ok (setV s d.toNat (runReg c.key c.vl (keepRun c.key false (runElems c s a) (runElems c s b))))))

/-- `vp.uniq` (R128). -/
def execVpUniq (d b : Reg) : State → Out :=
  runVec (.vpUniq d b) false (wideOnly (needRuns [b] fun c s =>
    .ok (setV s d.toNat (runReg c.key c.vl (uniqRun c.key (runElems c s b))))))

/-- `vp.rank` (R129). -/
def execVpRank (d a b : Reg) : State → Out :=
  runVec (.vpRank d a b) false (wideOnly (needRuns [a] fun c s =>
    .ok (setV s d.toNat (plaitDense c.vl ((runElems c s b).map (rankOf c.key (runElems c s a)))))))

/-- `vp.part` (R129). -/
def execVpPart (d a b : Reg) : State → Out :=
  runVec (.vpPart d a b) false (wideOnly (needRuns [a] fun c s =>
    .ok (setV s d.toNat (plaitDense c.vl ((runElems c s b).map (partOf c.key (runElems c s a)))))))

/-- `vp.keys` (R130). -/
def execVpKeys (d b : Reg) : State → Out :=
  runVec (.vpKeys d b) false (wideOnly fun c s =>
    .ok (setV s d.toNat (plaitDense c.vl ((runElems c s b).map (keyOut c.key)))))

end Sys2Proof.Machine
end

