-- ==== Sys2Proof/Machine/SparseGateOps.lean ====
section
/-! DEFINITION. The SPARSE and GATE groups (R300 to R304, R371 to R377). -/

namespace Sys2Proof.Machine

/-- The sparse source check (R371). -/
def needSparse (rs : List Reg) (f : Ctx → State → Eff) : Ctx → State → Eff := checkSources isSparseSrc rs f

/-- `vp.spk` (R373). -/
def execVpSpk (d b : Reg) : State → Out :=
  runVec (.vpSpk d b) true (wideOnly fun c s =>
    if coordsRise (runElems c s b) then
      .ok (setX (setV s b.toNat { getV s b.toNat with
        kind := .sparse, key := sparseKey, len := BitVec.ofNat 12 (runElems c s b).length }) d 1)
    else .ok (setX s d 0))

/-- `vp.spx` (R376). -/
def execVpSpx (d b : Reg) : State → Out :=
  runVec (.vpSpx d b) false (wideOnly (needSparse [b] fun c s =>
    .ok (setV s d.toNat (plaitDense c.vl ((List.range c.vl).map fun i =>
      ofInt 32 (wide16 (cfgFmt c.cfg) (valAt (runElems c s b) i)))))))

/-- `vp.spadd` (R374). -/
def execVpSpadd (d a b : Reg) : State → Out :=
  runVec (.vpSpadd d a b) false (wideOnly (needSparse [a, b] fun c s =>
    .ok (setV s d.toNat (sparseReg c.vl (spCombine false c.vl (runElems c s a) (runElems c s b))))))

/-- `vp.spmul` (R374). -/
def execVpSpmul (d a b : Reg) : State → Out :=
  runVec (.vpSpmul d a b) false (wideOnly (needSparse [a, b] fun c s =>
    .ok (setV s d.toNat (sparseReg c.vl (spCombine true c.vl (runElems c s a) (runElems c s b))))))

/-- `vp.spdot` (R375). -/
def execVpSpdot (d a b : Reg) : State → Out :=
  runVec (.vpSpdot d a b) true (wideOnly (needSparse [a, b] fun c s =>
    .ok (setX s d (BitVec.ofInt 64 (spDot (cfgFmt c.cfg) (runElems c s a) (runElems c s b))))))

/-- `vp.spbuild` (R376). -/
def execVpSpbuild (d b : Reg) : State → Out :=
  runVec (.vpSpbuild d b) false (wideOnly fun c s =>
    .ok (setV s d.toNat (sparseReg c.vl (spBuild 0 (runElems c s b)))))

/-- `vp.spcoord` (R377). -/
def execVpSpcoord (d b : Reg) : State → Out :=
  runVec (.vpSpcoord d b) false (wideOnly (needSparse [b] fun c s =>
    .ok (setV s d.toNat (plaitDense c.vl ((runElems c s b).map coordOf)))))

/-- `vp.spval` (R377). -/
def execVpSpval (d b : Reg) : State → Out :=
  runVec (.vpSpval d b) false (wideOnly (needSparse [b] fun c s =>
    .ok (setV s d.toNat (plaitDense c.vl ((runElems c s b).map fun x => ofInt 32 (wide16 (cfgFmt c.cfg) (val16 x)))))))

/-- `vp.topk` (R301). -/
def topkBody (d b : Reg) : Ctx → State → Eff :=
  wideOnly fun c s =>
    let E := bits c.xa.toNat 8 8
    let k := bits c.xa.toNat 0 8
    if E = 0 ∨ k = 0 ∨ E < k then .deny s 2 (c.word.setWidth 64)
    else .ok (setV s d.toNat (plaitDense c.vl (topkGroups c.key E k c.vl (gateList (srcV s b.toNat) c.vl))))

/-- `vp.topk` (R301). -/
def execVpTopk (d a b : Reg) : State → Out := runVec (.vpTopk d a b) false (topkBody d b)

/-- `vp.hist` (R302). -/
def histBody (d b : Reg) : Ctx → State → Eff :=
  wideOnly fun c s =>
    if 1024 < c.xa.toNat then .deny s 2 (c.word.setWidth 64)
    else .ok (setV s d.toNat (plaitDense c.vl ((List.range (Nat.min c.xa.toNat c.vl)).map (histBin (runElems c s b)))))

/-- `vp.hist` (R302). -/
def execVpHist (d a b : Reg) : State → Out := runVec (.vpHist d a b) false (histBody d b)

/-- The prefix sums of R303. -/
def scanBody (incl : Bool) (d b : Reg) : Ctx → State → Eff :=
  wideOnly fun c s =>
    .ok (setV s d.toNat (plaitDense c.vl ((List.range c.vl).map (scanElem incl (gateElem (srcV s b.toNat) c.vl)))))

/-- `vp.scan` (R303). -/
def execVpScan (d b : Reg) : State → Out := runVec (.vpScan d b) false (scanBody false d b)

/-- `vp.scani` (R303). -/
def execVpScani (d b : Reg) : State → Out := runVec (.vpScani d b) false (scanBody true d b)

/-- `vp.gperm` (R304). -/
def execVpGperm (d a b : Reg) : State → Out :=
  runVec (.vpGperm d a b) false (wideOnly fun c s =>
    .ok (setV s d.toNat (plaitDense c.vl ((List.range c.vl).map
      (gpermElem (srcV s a.toNat) (srcV s b.toNat) c.vl)))))

end Sys2Proof.Machine
end

