-- ==== Sys2Proof/Machine/Wale.lean ====
section
/-! DEFINITION. The flit of a Wale port: its fields, its CRC-32 and its Reed-Solomon codes (R395, R396). What the rule does not give of the
two codes are constants of Config. -/

namespace Sys2Proof.Machine

/-- The CRC register after one more bit: the polynomial of R395. -/
def crcBit (r : BitVec 32) (b : Bool) : BitVec 32 := if (r.msb != b) then (r <<< 1) ^^^ 0x04C11DB7 else r <<< 1

/-- The CRC register after one more byte. -/
def crcByte (r : BitVec 32) (b : Byte) : BitVec 32 :=
  (List.range 8).foldl (fun r i => crcBit r (b.getLsbD (if Config.crcReflected then i else 7 - i))) r

/-- The CRC-32 of a flit's bytes 0 to 239 (R395). -/
def crc32 (bs : List Byte) : BitVec 32 :=
  let r := bs.foldl crcByte Config.crcInit
  (if Config.crcReflected then r.reverse else r) ^^^ Config.crcFinal

/-- A byte of the codes' field times x. -/
def fieldTwice (a : Byte) : Byte := if a.msb then (a <<< 1) ^^^ Config.fecField else a <<< 1

/-- The product in the codes' field. -/
def fieldMul (a b : Byte) : Byte :=
  [7, 6, 5, 4, 3, 2, 1, 0].foldl (fun acc i => if b.getLsbD i then fieldTwice acc ^^^ a else fieldTwice acc) 0

/-- A power in the codes' field. -/
def fieldPow (a : Byte) : Nat → Byte
  | 0 => 1
  | n + 1 => fieldMul a (fieldPow a n)

/-- The six roots of the codes' generator (R395). -/
def fecRoots : List Byte := (List.range 6).map fun i => fieldPow Config.fecRoot (Config.fecFirst + i)

/-- The value at a point of the polynomial whose coefficients are bytes, the highest first. -/
def fieldEval (bs : List Byte) (x : Byte) : Byte := bs.foldl (fun acc b => fieldMul acc x ^^^ b) 0

/-- Whether 128 bytes are a word of the code: every root of the generator is a root of theirs (R395). -/
def codeword (bs : List Byte) : Bool := fecRoots.all fun x => fieldEval bs x == 0

/-- The generator's coefficients below the highest, which is 1. -/
def fecGenerator : List Byte :=
  (fecRoots.foldl (fun g x => List.zipWith (· ^^^ ·) (g ++ [0]) (0 :: g.map (fieldMul x))) [1]).drop 1

/-- The six parity bytes of the 122 bytes of a way (R395). -/
def fecParity (bs : List Byte) : List Byte :=
  bs.foldl (fun r b => List.zipWith (· ^^^ ·) (r.drop 1 ++ [0]) (fecGenerator.map (fieldMul (b ^^^ r.headD 0)))) (List.replicate 6 0)

/-- A word of the code that differs in at most `n` bytes, where there is one (R396). -/
def fixWay : Nat → List Byte → Option (List Byte)
  | 0, bs => if codeword bs then some bs else none
  | n + 1, bs =>
    if codeword bs then some bs
    else (List.range 128).findSome? fun i => (List.range 256).findSome? fun v => fixWay n (bs.set i (BitVec.ofNat 8 v))

/-- The bytes of a way of a flit: 0 the even ones, 1 the odd ones. That the parity bytes 244 to 255 belong to the ways in turn, as the bytes
before them do, is read from "interleaved" (DEDUCED). -/
def wayOf (k : Nat) (bs : List Byte) : List Byte := (List.range ((bs.length + 1 - k) / 2)).map fun i => bs.getD (2 * i + k) 0

/-- Two ways made one again. -/
def joinWays (a b : List Byte) : List Byte :=
  (List.range (a.length + b.length)).map fun i => (if i % 2 = 0 then a else b).getD (i / 2) 0

/-- A flit's 256 bytes after the correction of up to 3 byte errors in each way (R396); a way with more stays as it is. -/
def fecCorrected (bs : List Byte) : List Byte :=
  let fix := fun k => (fixWay 3 (wayOf k bs)).getD (wayOf k bs)
  joinWays (fix 0) (fix 1)

/-- A flit of a Wale port (R395): SEQ, ACK, KIND, the payload, the CRC and the parity. -/
def waleFlit (seq ack : BitVec 12) (kind : Nat) (payload : List Byte) : List Byte :=
  let body := bytesOf 4 (seq.toNat + ack.toNat * 2 ^ 12 + kind * 2 ^ 24) ++ (List.range 236).map fun i => payload.getD i 0
  let whole := body ++ bytesOf 4 (crc32 body).toNat
  whole ++ joinWays (fecParity (wayOf 0 whole)) (fecParity (wayOf 1 whole))

/-- The flit that a port sends now, of a kind (R395): ACK is the highest sequence number received in order. -/
def WalePort.flit (p : WalePort) (seq : BitVec 12) (kind : Nat) (payload : List Byte) : List Byte :=
  waleFlit seq (p.expSeq - 1) kind payload

/-- A sequence number at or before another, modulo 4096 (R395). -/
def seqUpTo (a b : BitVec 12) : Bool := decide ((b - a).toNat < 2048)

/-- Whether a port can send a transaction (R396): it is up, and keeps fewer than 256 flits for replay. -/
def portReady (s : State) (n : Nat) : Bool := (portAt s n).up && decide ((portAt s n).replay.length < 256)

/-- A transaction sent on a port (R395, R396): it takes the next sequence number, and is kept for replay. That transactions alone are numbered
and kept, the rules say of none of the other kinds (DEDUCED). -/
def sendTransaction (s : State) (n : Nat) (payload : List Byte) : State :=
  let p := portAt s n
  putPort s n { p with
    nextSeq := p.nextSeq + 1
    sending := p.sending ++ [p.flit p.nextSeq 1 payload]
    replay := p.replay ++ [(p.nextSeq, payload)] }

/-- A request of this package sent to another (R397), on a port that reaches it; while one is down, on any other that does (R396). -/
def sendRequest (s : State) (target addr : Nat) (acc : ExtAccess) : Option State :=
  ((List.range 36).find? fun n => portReady s n && Config.portReaches n target).map fun n =>
    sendTransaction s n (Config.packedRequest target addr acc)

/-- The replies to remote accesses that wait for a port, sent on this one as far as it can send (R396). -/
def sendReplies (n : Nat) (s : State) : State :=
  s.wire.foldl (fun s m => match m with
    | .remoteReply bs bad =>
      if portReady s n then sendTransaction { s with wire := s.wire.erase m } n (Config.packedReply bs bad) else s
    | _ => s) s

/-- A reply to a remote access that came in on a port (R396, R397): it goes out on that port, or while the port is down on any other. -/
def answerRemote (s : State) (n : Nat) (bs : List Byte) (bad : Bool) : State :=
  let s := { s with wire := s.wire ++ [.remoteReply bs bad] }
  if (portAt s n).up then sendReplies n s
  else ((List.range 36).find? (portReady s)).elim s fun m => sendReplies m s

/-- Flits resent from a sequence number onward, and one more replay in a row; at 16 the port goes down and is logged (R396). -/
def resendFrom (s : State) (n : Nat) (from_ : BitVec 12) : State :=
  let p := portAt s n
  let p := { p with
    replays := p.replays + 1
    sending := p.sending ++ (p.replay.filter fun q => seqUpTo from_ q.1).map fun q => p.flit q.1 1 q.2 }
  if 16 ≤ p.replays then logEvent (putPort s n { p with up := false }) 4 (unitOn .port 0 n) 0 [p.replays] else putPort s n p

/-- A flit at a port (R395, R396): a bad or untimely one is dropped, and a replay request is sent; a good one acknowledges, a transaction is
delivered, and a replay request, which names by its ACK what came last in order, has the rest resent. The rules give no number to a flit that is
no transaction: here it carries the next transaction's, and a replay request is taken whatever its number, so that two requests that cross do not
wait for each other (DESIGN CHOICE). A partner's training ends the count of replays in a row (DESIGN CHOICE). -/
def receiveFlit (s : State) (n : Nat) (seq ack : BitVec 12) (kind : Nat) (payload : List Byte) (bad : Bool) : State :=
  let p := portAt s n
  if !p.up then s
  else if bad || (kind != 2 && seq != p.expSeq) then putPort s n { p with sending := p.sending ++ [p.flit p.nextSeq 2 []] }
  else
    let left := p.replay.filter fun q => !seqUpTo q.1 ack
    let q := { p with
      replay := left
      acked := ack
      replays := if left.length < p.replay.length || kind == 3 then 0 else p.replays }
    if kind = 2 then resendFrom (putPort s n q) n (ack + 1)
    else putPort s n (if kind = 1 then { q with expSeq := q.expSeq + 1, received := q.received ++ [payload] } else q)

/-- A port that is down trained again (R396): a training flit goes out, and the replies that waited follow. -/
def retrain (s : State) (n : Nat) : State :=
  let p := portAt s n
  if p.up then s else sendReplies n (putPort s n { p with up := true, replays := 0, sending := p.sending ++ [p.flit p.nextSeq 3 []] })

end Sys2Proof.Machine
end

