-- ==== Sys2Proof/Machine/SliceOps.lean ====
section
/-! DEFINITION. What slices, ports and engines do between the strands' instructions: reads and fills, writes and their
acknowledgements, bank ALUs, locks, invalidations, ownership, barriers, the Slath, tickets, pushes, replicas, forwarded
accesses, merge windows, sleepers, walks (R180 to R194, R203 to R212, R229, R237 to R244, R253 to R266, R310 to R317, R366,
R397). The particulars of an event are in `State.inp`; an event whose condition does not hold changes nothing. -/

namespace Sys2Proof.Machine

/-- The lowest free record of a strand on a plane (R203): which free one a request takes, the rule leaves open (DESIGN CHOICE). -/
def freeRecord (s : State) (gid plane : Nat) : Option Nat :=
  firstTo (fun n => !(s.records.any fun r => !r.multicast && r.gid == gid && r.plane == plane && r.recNo == n)) 32

/-- A record reserved for a strand's request whose reply has `nf + 1` flits (R203), with its number: `none` where the port may not
inject the request now (R203, R205, R219). -/
def reserve (s : State) (gid plane line nf : Nat) (scalar : Bool) : Option (State × Nat) :=
  if portStopped s gid || unanswered s gid line nf then none
  else (freeRecord s gid plane).map fun n =>
    ({ s with records := s.records ++
        [⟨gid, plane, n, false, line, 0, nf, [], none, false, false, false, Clock4.zero, s.inp.va, scalar⟩] }, n)

/-- Whether all flits of a message in a request queue have come (R204). -/
def SliceReq.whole (q : SliceReq) : Bool := decide (q.got.toNat = 2 ^ (q.nf + 1) - 1)

/-- A strand's whole request of a class for a line that has come through a slice's queue, or has waited there for a recall (R204). -/
def queuedRequest (s : State) (sl gid line typ : Nat) : Option SliceReq :=
  let k := sliceAt s sl
  (k.requests ++ k.recalls).find? fun q => q.typ == typ && q.strand == gid && q.line == line && q.whole

/-- A request off its slice's queue (R204). -/
def dropRequest (s : State) (sl : Nat) (q : SliceReq) : State :=
  onSlice s sl fun k => { k with requests := k.requests.erase q, recalls := k.recalls.erase q }

/-- A strand's request of a class for a line at a slice (R203, R204), with its record: one that came through the queue, whose record its
port reserved; else the record is reserved now. -/
def startRequest (s : State) (sl gid plane line typ nf : Nat) (scalar : Bool) : Option (State × Nat) :=
  match queuedRequest s sl gid line typ with
  | some q => some (dropRequest s sl q, q.recNo)
  | none => reserve s gid plane line nf scalar

/-- A replica installed in the guest slice of a die, with the value and the clock of the home at this moment, and the home's guest
mask (R244); only lines of HBM have replicas (R188), and only where the slice's set has room (R184). -/
def installReplica (s : State) (die line : Nat) : State :=
  let sl := die * 512 + homeSlice line % 512
  if decide (bskLoc ≤ line * 128) || decide (homeDie line = die) || (replicaAt s die line).isSome || s.errs.contains line then s
  else
    let s := cacheLine s sl line true true
    if !(sliceAt s sl).cache.contains line then s
    else
      let i := lineAt s line
      let s := putLine s line { i with guests := i.guests ||| BitVec.ofNat 4 (2 ^ die) }
      { s with replicas := ⟨die, line, i.stamp, i.past, lineBytes s line, []⟩ :: s.replicas }

/-- A slice's read of a line for a strand's port (R182, R185, R203, R237, R244): the reply is on its way, and the slice holds the
line, but after a vector load whose footprint is above THR (`low`). A scalar fill of another die's line goes through a replica
(R183). It waits for a record, for a lock, and, as a scalar fill, for an outstanding invalidation (R183). -/
def readLine (s : State) (gid line : Nat) (dest : FillDest) (low : Bool) : State :=
  let die := dieOf gid
  if hostLoc ≤ line * 128 || lineLocked s line || (decide (dest = .scalarL1) && fillWaits s die line) then s
  else
    match startRequest s (servingSlice s die line) gid (planeOf line) line 0 1 (decide (dest = .scalarL1 ∨ dest = .instrCache)) with
    | none => s
    | some (s, n) =>
      let s := recallLine s line
      let s := if dest = .replica ∨ dest = .scalarL1 then installReplica s die line else s
      let s := cacheLine s (servingSlice s die line) line (decide (dest ≠ .record) || !low) true
      { s with wire := s.wire ++ [.readReply gid line n (readBytes s die (line * 128) 128) (s.errs.contains line) dest] }

/-- READ_REQUEST (R237); `f0`: of a vector load whose footprint is above THR. -/
def execReadRequest (s : State) : Out := .next (readLine s s.inp.gid s.inp.line s.inp.dest s.inp.f0)

/-- A line put into a core's instruction cache of 64 sets of 8 ways, the one filled longest ago out (R182). -/
def fillInstr (s : State) (core line : Nat) (bs : List Byte) : State :=
  let rest := s.icache.filter fun p => !(p.1 == core && p.2.1 == line)
  let set := rest.filter fun p => p.1 == core && Config.cacheSet p.2.1 % 64 == Config.cacheSet line % 64
  { s with icache := (core, (line, bs)) :: match (if set.length < 8 then none else set.getLast?) with
    | some v => rest.erase v
    | none => rest }

/-- What a whole reply does at the port (R182): a scalar fill, or an instruction fill. -/
def fillPort (s : State) (gid line : Nat) (bs : List Byte) (dest : FillDest) : State :=
  match dest with
  | .scalarL1 => fillL1 s (coreOf gid) line
  | .instrCache => fillInstr s (coreOf gid) line bs
  | .record | .replica => s

/-- The unicast record of a strand that waits for a line. -/
def recordFor (gid line : Nat) (r : Record) : Bool := !r.multicast && r.gid == gid && r.line == line

/-- A strand's failed access raises DATA-ERROR at its requester (R402, R403): a scalar one as a pending trap, a vector one at the memory
instruction at the head of its queue; one whose requester is gone raises nothing. -/
def failAccess (s : State) (r : Record) (cause : Nat) : State :=
  let t := strandAt s r.gid
  if t.task.isNone then s
  else if r.scalar then putStrand s r.gid (addStoreTrap t cause r.va)
  else
    asStrand r.gid (fun s => match s.t.queue with
      | e :: younger => if isMemory e && !e.done then vectorTrap s s e younger cause r.va s.t.pc else s
      | [] => s) s

/-- One flit of a reply lands in its record (R202, R203): the state, and whether the message is whole with it. A flit for a strand
whose context is LOST is discarded and logged (R355). A whole record is freed as it is delivered; while its strand's port is stopped it
keeps its contents for the frame (R219). -/
def landFlit (s : State) (r : Record) (fi : Nat) (bs : List Byte) : State × Bool :=
  let r' := { r with got := r.got ||| BitVec.ofNat 3 (2 ^ (fi % (r.nf + 1))) }
  let s := if r.dead then logEvent s 2 (strandUnit r.gid) 0 [fi] else s
  if r'.full then
    (if portStopped s r.gid && !r.dead && decide (r.nf = 1) then
      { s with records := s.records.map fun q => if q = r then { r' with bytes := bs, delivered := true } else q }
     else { s with records := s.records.erase r }, true)
  else ({ s with records := s.records.map fun q => if q = r then r' else q }, false)

/-- The read reply on the wire for a record: its bytes, whether it failed, and what it fills. -/
def replyOf (s : State) (r : Record) : Option (List Byte × Bool × FillDest) :=
  s.wire.findSome? fun w => match w with
    | .readReply g l n bs failed dest => if g = r.gid ∧ l = r.line ∧ n = r.recNo then some (bs, failed, dest) else none
    | _ => none

/-- One flit of a read reply lands in its record; with the last one the message is delivered, or fails (R202, R203, R403). -/
def landReply (s : State) (r : Record) (fi : Nat) : State :=
  match replyOf s r with
  | none => s
  | some (bs, failed, dest) =>
    let p := landFlit s r fi bs
    if !p.2 then p.1
    else
      let s := { p.1 with wire := s.wire.erase (.readReply r.gid r.line r.recNo bs failed dest) }
      if r.dead then s
      else if failed || r.failed then failAccess { s with records := s.records.filter fun q => !(recordFor r.gid r.line q && q.recNo == r.recNo) } r 27
      else fillPort s r.gid r.line bs dest

/-- READ_REPLY (R203): a flit of the first read reply on the wire for strand `gid` and line `line`. -/
def execReadReply (s : State) : Out :=
  .next (match s.records.find? fun r => recordFor s.inp.gid s.inp.line r && (replyOf s r).isSome with
    | some r => landReply s r s.inp.slot
    | none => s)

/-- Scalar L1 copies of a line on its home die, other than the core given (R183). -/
def otherCopies (s : State) (line : Nat) (keep : Option Nat) : List (Nat × Nat) :=
  s.l1.filter fun p => p.2 == line && p.1 / 128 == homeDie line && keep != some p.1

/-- The core whose own L1 copy a write leaves: a scalar writer's (R183). -/
def WaitWrite.keep (w : WaitWrite) : Option Nat := if w.isScalar then some (coreOf w.gid) else none

/-- A write accepted at its home and stamped, or refused (R210, R402); its acknowledgement is on its way. -/
def acceptWrite (s : State) (w : WaitWrite) : State :=
  let s := recallLine s w.line
  if !(refusedLines s (w.ws.map Prod.fst) [w.line]).isEmpty then
    { s with wire := s.wire ++ [.writeAck w.gid w.line 0 w.va w.isScalar true] }
  else
    let s := lineWrite s (dieOf w.gid) w.line w.clock w.keep w.ws
    { s with wire := s.wire ++ [.writeAck w.gid w.line (lineAt s w.line).stamp w.va w.isScalar false] }

/-- Whether a line's invalidations are outstanding (R183). -/
def invalOut (s : State) (line : Nat) : Bool := s.invals.any fun p => p.2 == line

/-- The first of the writes that wait for a line's invalidations, accepted once every one is acknowledged and no vector atomic holds the line
(R183, R255). -/
def settleWrite (s : State) (line : Nat) : State :=
  if invalOut s line || lineLocked s line then s
  else
    match s.waits.find? fun w => w.line == line with
    | some w => acceptWrite { s with waits := s.waits.erase w } w
    | none => s

/-- What a write request's flits brought (R202): the bytes that its mask enables, and the clock of its tail. -/
def SliceReq.write (q : SliceReq) : List (Nat × Byte) × Option Clock4 :=
  (((List.range 128).filter fun i => q.nf = 1 || q.mask.getLsbD i).map fun i => (q.line * 128 + i, q.payload.getD i 0),
    if q.nf = 1 then none else some q.clock)

/-- A write request at its home (R183, R205, R210, R402), from the slice's queue where its flits came there (R202), else with the bytes
given: it is accepted at once where no scalar L1 of the die holds the line and nothing waits there before it; else it waits, and the line's
invalidation goes to each cluster that holds copies. -/
def writeLine (s : State) (gid loc : Nat) (bs : List Byte) (isScalar : Bool) (va : Word) : State :=
  let line := lineOf loc
  let came := (queuedRequest s (homeSlice line) gid line 2).map SliceReq.write
  let given := (List.range bs.length).zip bs |>.map fun p => (loc + p.1, p.2)
  if hostLoc ≤ loc || (came.isNone && (bs.isEmpty || decide (128 < loc % 128 + bs.length))) || lineLocked s line then s
  else
    let w : WaitWrite := ⟨gid, line, (came.getD (given, none)).1, (came.getD (given, none)).2, isScalar, va⟩
    match startRequest s (homeSlice line) gid (planeOf line) line 2 0 isScalar with
    | none => s
    | some (s, _) =>
      let waits := s.waits.any fun w => w.line == line
      let copies := otherCopies s line w.keep
      if copies.isEmpty && !waits then acceptWrite s w
      else
        let clusters := (copies.map fun p => clusterOfCore p.1).foldl (fun acc c => addOnce c acc) []
        { s with
          invals := if waits then s.invals else s.invals ++ clusters.map fun c => (c, line)
          waits := s.waits ++ [w] }

/-- WRITE_REQUEST (R210). -/
def execWriteRequest (s : State) : Out := .next (writeLine s s.inp.gid s.inp.loc s.inp.data s.inp.f0 s.inp.va)

/-- The answer of one flit to a strand's request for a line lands (R203): its record is freed, and where the answer failed its requester raises
the cause (R402, R403). -/
def landOne (s : State) (gid line : Nat) (failed : Bool) (cause : Nat) : State :=
  match s.records.find? fun r => recordFor gid line r && decide (r.nf = 0) with
  | some r =>
    let t := (landFlit s r 0 []).1
    if (failed || r.failed) && !r.dead then failAccess t r cause else t
  | none => s

/-- The acknowledgement of a write reaches its core (R205, R360): a refused scalar store becomes a pending trap, a refused vector one a
DATA-ERROR at its instruction. -/
def landAck (s : State) (gid line : Nat) : State :=
  match s.wire.findSome? fun w => match w with
      | .writeAck g l st va sc f => if g = gid ∧ l = line then some (st, va, sc, f) else none
      | _ => none with
  | none => s
  | some (st, va, sc, f) =>
    landOne { s with wire := s.wire.erase (.writeAck gid line st va sc f) } gid line f
      (if isDevice (line * 128) then 27 else 7)

/-- WRITE_ACKNOWLEDGEMENT (R205). -/
def execWriteAcknowledgement (s : State) : Out := .next (landAck s s.inp.gid s.inp.line)

/-- An atomic at a location, as a bank ALU or the target performs it (R184): the old value, and the state after. -/
def atomicAt (s : State) (die loc : Nat) (op : AmoOp) (dword : Bool) (operand : Word) : Nat × State :=
  let n := if dword then 8 else 4
  let M := homeNat s loc n
  if op = .lr then (M, s)
  else (M, homeWrite s die loc (bytesOf n (amoValue op (8 * n) M (operand.toNat % 2 ^ (8 * n)))) none)

/-- An atomic request at its home (R184, R402). -/
def atomicRequest (s : State) (gid loc : Nat) (op : AmoOp) (dword : Bool) (operand : Word) : State :=
  let n := if dword then 8 else 4
  let line := lineOf loc
  if hostLoc ≤ loc || decide (loc % n ≠ 0) || lineLocked s line then s
  else
    match startRequest s (homeSlice line) gid (planeOf line) line 4 0 true with
    | none => s
    | some (s, _) =>
      let s := recallLine s line
      if s.errs.contains line then { s with wire := s.wire ++ [.atomicReply gid loc 0 true] }
      else
        let r := atomicAt s (dieOf gid) loc op dword operand
        { r.2 with wire := r.2.wire ++ [.atomicReply gid loc (word r.1) false] }

/-- ATOMIC_REQUEST (R184). -/
def execAtomicRequest (s : State) : Out :=
  .next (atomicRequest s s.inp.gid s.inp.loc s.inp.amo s.inp.f0 s.inp.lo)

/-- The first message on the wire that a test names, taken off it. -/
def takeMsg (p : Msg → Bool) (s : State) : State :=
  match s.wire.find? p with
  | some m => { s with wire := s.wire.erase m }
  | none => s

/-- An atomic reply reaches its requester (R253), or a failed one raises DATA-ERROR there (R402). -/
def landAtomic (s : State) (gid loc : Nat) : State :=
  let mine : Msg → Bool := fun w => match w with
    | .atomicReply g l _ _ => g == gid && l == loc
    | _ => false
  match s.wire.find? mine with
  | some (.atomicReply _ _ _ failed) => landOne (takeMsg mine s) gid (lineOf loc) failed 27
  | _ => s

/-- ATOMIC_REPLY (R253): the old value reaches its requester. -/
def execAtomicReply (s : State) : Out := .next (landAtomic s s.inp.gid s.inp.loc)

/-- Whether the oldest entry of a strand is an unfinished instruction of custom-1 with a given f3 (R53). -/
def headIsMem (t : Strand) (f3s : List Nat) : Bool :=
  match t.queue with
  | e :: _ => !e.done && isMemory e && f3s.contains (bits e.word.toNat 12 3)
  | [] => false

/-- A vector atomic's request for the lock of a line (R253, R255), answered as it is accepted: it needs a record, and waits for an unanswered
request of the strand for the line (R203, R205) and for another's lock; it is answered NACK where every
way of the line's set is locked; else the slice holds the line, locked. -/
def lockLine (s : State) (gid line : Nat) : State :=
  let t := strandAt s gid
  let sl := homeSlice line
  if hostLoc ≤ line * 128 || !headIsMem t [2, 3] || lineLocked s line || !(t.locks.all fun l => decide (l < line)) ||
    (startRequest s sl gid (planeOf line) line 4 0 false).isNone then s
  else if waysLocked s line then { s with wire := s.wire ++ [.lockReply gid line false] }
  else
    let s := ((queuedRequest s sl gid line 4).map (dropRequest s sl)).getD s
    let s := cacheLine (recallLine s line) sl line true true
    let s := onSlice s sl fun k => { k with locks := k.locks ++ [(line, gid)] }
    putStrand s gid { strandAt s gid with locks := t.locks ++ [line] }

/-- LINE_LOCK_REQUEST (R255). -/
def execLineLockRequest (s : State) : Out := .next (lockLine s s.inp.gid s.inp.line)

/-- Whether a message is a refused lock of a strand. -/
def isLockNack (gid : Nat) (w : Msg) : Bool :=
  match w with
  | .lockReply g _ granted => g == gid && !granted
  | _ => false

/-- AMO_LOCK_RETRY (R255): after a NACK every lock is released and the locking starts again. -/
def execAmoLockRetry (s : State) : Out :=
  .next (if s.wire.any (isLockNack s.inp.gid) then asStrand s.inp.gid unlock (takeMsg (isLockNack s.inp.gid) s) else s)

/-- The scalar L1 copies of a line in a cluster that an outstanding invalidation removes: a scalar writer's own copy stays (R183). -/
def invalTargets (s : State) (cluster line : Nat) : List (Nat × Nat) :=
  let keep := (s.waits.find? fun w => w.line == line).bind WaitWrite.keep
  if s.invals.contains (cluster, line) then
    s.l1.filter fun p => clusterOfCore p.1 == cluster && p.2 == line && keep != some p.1
  else []

/-- SCALAR_L1_INVALIDATION (R183, R211): an invalidation that a home has sent takes the line out of the scalar L1s of cluster `unit`. -/
def execScalarL1Invalidation (s : State) : Out :=
  .next { s with l1 := s.l1.filter fun p => !(invalTargets s s.inp.unit s.inp.line).contains p }

/-- An invalidation acknowledged by a cluster once none of its scalar L1s holds the line (R183); the write that waited for the last one is
accepted. -/
def ackInval (s : State) (cluster line : Nat) : State :=
  if !s.invals.contains (cluster, line) || !(invalTargets s cluster line).isEmpty then s
  else settleWrite { s with invals := s.invals.erase (cluster, line) } line

/-- INVALIDATION_ACKNOWLEDGEMENT (R183): of cluster `unit`. -/
def execInvalidationAcknowledgement (s : State) : Out := .next (ackInval s s.inp.unit s.inp.line)

/-- OWNERSHIP_REQUEST (R194): agent `unit`, line `line`, with a record of its strand (R203, R205), or from the slice's queue. -/
def execOwnershipRequest (s : State) : Out :=
  .next (
    let line := s.inp.line
    let t := requestOwner s s.inp.unit line
    if t.slices = s.slices then s
    else ((startRequest t (homeSlice line) (s.inp.unit / 64) (planeOf line) line 8 0 false).map Prod.fst).getD s)

/-- A grant of ownership reaches its agent: the message is off the wire, and its record free. -/
def landGrant (s : State) (agent line : Nat) : State :=
  if s.wire.contains (.ownerGrant agent line) then
    landOne { s with wire := s.wire.erase (.ownerGrant agent line) } (agent / 64) line false 27
  else s

/-- OWNERSHIP_GRANT (R194): a grant on the wire for the line lands, or the line is granted. -/
def execOwnershipGrant (s : State) : Out :=
  .next (match s.wire.findSome? fun w => match w with
      | .ownerGrant a l => if l = s.inp.line then some a else none
      | _ => none with
    | some a => landGrant s a s.inp.line
    | none => grantOwner s s.inp.line)

/-- OWNERSHIP_RECALL (R194). -/
def execOwnershipRecall (s : State) : Out := .next (recallLine s s.inp.line)

/-- BARRIER_ARRIVAL (R262): at an aligned barrier in device memory. -/
def execBarrierArrival (s : State) : Out :=
  .next (
    let line := lineOf s.inp.loc
    if s.inp.loc % 16 ≠ 0 ∨ isDevice s.inp.loc = false ∨ lineLocked s line ∨ s.errs.contains line then s
    else arrive (recallLine s line) (dieOf s.inp.gid) s.inp.loc)

/-- The oldest entry tried again where it is a barrier wait. -/
def retryBwait (i : Instr) (s : State) : Out :=
  match i with
  | .vmBwait a b m => execVmBwait a b m s
  | _ => .next { s with t := { s.t with replay := none } }

/-- BARRIER_WAIT_REQUEST (R263): the request of the barrier wait at the head of a strand's queue. -/
def execBarrierWaitRequest (s : State) : Out := .next (asStrand s.inp.gid (retryHead retryBwait) s)

/-- The next backoff: doubled, up to 4,096 Weave cycles (R263, R316). -/
def nextBackoff (n : Nat) : Nat := Nat.min 4096 (2 * n)

/-- The answer of a slice to a strand's future load put on its way (R316). -/
def sendFld (gid : Nat) (h : Word) (backoff : Nat) (r : SlathAns × State) : State :=
  let send : Word → Clock4 → Bool → State := fun a k trap => { r.2 with wire := r.2.wire ++ [.slath gid (handleBase h) a k trap] }
  match r.1 with
  | .done _ _ _ v k => send (v ||| 2) k false
  | .maker g => send g Clock4.zero false
  | .claim => send 0 Clock4.zero true
  | .nack => { r.2 with wire := r.2.wire ++ [.nackFld gid (handleBase h) backoff] }
  | .held | .busy | .waiter _ => r.2

/-- A request answered NACK sent again (R263, R316). -/
def resend (s : State) (w : Msg) : State :=
  match w with
  | .nackBwait gid loc ph n =>
    if lineLocked s (lineOf loc) then s
    else
      let s := recallLine { s with wire := s.wire.erase w } (lineOf loc)
      if BitVec.ofNat 32 (homeNat s (loc + 8) 4) ≠ ph then
        { s with wire := s.wire ++ [.phase gid loc (BitVec.ofNat 32 (homeNat s (loc + 8) 4)) (homeClock s (lineOf loc))] }
      else deferBwait s gid loc ph (nextBackoff n)
  | .nackFld gid h n =>
    let s := { s with wire := s.wire.erase w }
    sendFld gid h (nextBackoff n) (slathFld s gid h)
  | _ => s

/-- The first request of a strand that was answered NACK. -/
def nackOf (s : State) (gid : Nat) : Option Msg :=
  s.wire.find? fun w => match w with
    | .nackBwait g _ _ _ => g == gid
    | .nackFld g _ _ => g == gid
    | _ => false

/-- NACK_RETRY (R263, R316). -/
def execNackRetry (s : State) : Out :=
  .next (match nackOf s s.inp.gid with
    | some w => resend s w
    | none => s)

/-- The oldest entry tried again where it is the CLAIM instruction whose request an event names (R319). -/
def retryClaim (kind : Instr → Bool) (i : Instr) (s : State) : Out :=
  if kind i then
    match i with
    | .vxClaim d a b => execVxClaim d a b s
    | .vxFulfil a b => execVxFulfil a b s
    | .vxAbandon a => execVxAbandon a s
    | .vxFld d a => execVxFld d a s
    | .vxFprobe d a => execVxFprobe d a s
    | .vxRelease a => execVxRelease a s
    | _ => .next { s with t := { s.t with replay := none } }
  else .next { s with t := { s.t with replay := none } }

/-- The request of the CLAIM instruction at the head of strand `gid`'s queue at its slice (R314, R319). -/
def claimEvent (kind : Instr → Bool) (s : State) : State := asStrand s.inp.gid (retryHead (retryClaim kind)) s

/-- SLATH_CLAIM_REQUEST (R314). -/
def execSlathClaimRequest (s : State) : Out :=
  .next (claimEvent (fun i => match i with
    | .vxClaim _ _ _ => true
    | _ => false) s)

/-- SLATH_FLD_REQUEST (R316). -/
def execSlathFldRequest (s : State) : Out :=
  .next (claimEvent (fun i => match i with
    | .vxFld _ _ => true
    | _ => false) s)

/-- SLATH_FULFIL_REQUEST (R314, R321). -/
def execSlathFulfilRequest (s : State) : Out :=
  .next (claimEvent (fun i => match i with
    | .vxFulfil _ _ => true
    | _ => false) s)

/-- SLATH_ABANDON_REQUEST (R314, R317). -/
def execSlathAbandonRequest (s : State) : Out :=
  .next (claimEvent (fun i => match i with
    | .vxAbandon _ => true
    | _ => false) s)

/-- SLATH_RELEASE_REQUEST (R314). -/
def execSlathReleaseRequest (s : State) : Out :=
  .next (claimEvent (fun i => match i with
    | .vxRelease _ => true
    | _ => false) s)

/-- SLATH_PROBE_REQUEST (R324). -/
def execSlathProbeRequest (s : State) : Out :=
  .next (claimEvent (fun i => match i with
    | .vxFprobe _ _ => true
    | _ => false) s)

/-- Whether a strand's oldest entry is a sequentially consistent access (R53, R229). -/
def headIsSc (t : Strand) : Bool :=
  match t.queue with
  | e :: _ => match e.instr with
    | .vmLdsc _ _ _ | .vmStsc _ _ _ => !e.done
    | _ => false
  | [] => false

/-- SC_TICKET (R229): the next ticket once the last has been returned. -/
def execScTicket (s : State) : Out :=
  .next (if s.scOut.isNone && headIsSc (strandAt s s.inp.gid) then
    { s with scOut := some s.inp.gid, scTicket := s.scTicket + 1 }
  else s)

/-- The unfinished push at the head of the focus strand's queue: its entry and operands. -/
def headPush (s : State) : Option (QEntry × Reg × Reg × KReg) :=
  match s.t.queue with
  | e :: _ => match e.instr with
    | .vxPush d _ b m => if e.done then none else some (e, d, b, m)
    | _ => none
  | [] => none

/-- Whether a push's operands pass its checks and a register is left to send (R264). -/
def pushOk (s : State) (e : QEntry) (d b : Reg) : Bool :=
  let g := cfgG e.vcfg
  decide (d.toNat % g = 0) && decide (b.toNat % g = 0) && decide (e.xa.toNat < 2048) && decide (e.xa.toNat ≠ s.gid) &&
    decide (e.progress < g)

/-- PUSH_REQUEST (R264): the pusher asks for its next register. -/
def pushRequest (s : State) : State :=
  match headPush s with
  | none => s
  | some (e, d, b, m) =>
    let waiting := s.wire.any fun w => match w with
      | .pushAsk g _ _ _ _ | .pushGrant g _ _ _ _ _ => g == s.gid
      | _ => false
    if !pushOk s e d b || waiting then s
    else
      let u := { s with t := { s.t with replay := some e } }
      let p := pushedReg (ctxOfEntry s e) u m (b.toNat + e.progress)
      { s with wire := s.wire ++ [.pushAsk s.gid e.xa.toNat (d.toNat + e.progress) p.bits p.len.toNat] }

/-- PUSH_REQUEST (R264). -/
def execPushRequest (s : State) : Out := .next (asStrand s.inp.gid pushRequest s)

/-- PUSH_GRANT (R264, R357): a register granted and the context recorded; PEER where the peer has no task; NACK otherwise. -/
def pushGrant (s : State) : State :=
  match s.wire.findSome? fun w => match w with
      | .pushAsk g peer reg b n => if g = s.gid then some (peer, reg, b, n) else none
      | _ => none with
  | none => s
  | some (peer, reg, b, n) =>
    let rest := fun s : State => { s with wire := s.wire.erase (.pushAsk s.gid peer reg b n) }
    match peerState s peer with
    | .gone => { rest s with wire := (rest s).wire ++ [.pushPeer s.gid peer] }
    | .busy => s
    | .ready =>
      if grantable s s.gid peer reg then
        let t := strandAt s peer
        let order := (t.task.map fun k => k.order).getD 0
        let s := rest s
        let s := { s with
          t := { s.t with bound := some order }
          wire := s.wire ++ [.pushGrant s.gid peer reg b n order] }
        putStrand s peer { strandAt s peer with
          granted := if t.granted.contains (reg, s.gid) then t.granted else t.granted ++ [(reg, s.gid)] }
      else s

/-- PUSH_GRANT (R264). -/
def execPushGrant (s : State) : Out := .next (asStrand s.inp.gid pushGrant s)

/-- PUSH_DATA (R264, R357): the whole register arrives at the context that granted it, and the push goes on with the next one; while that
context is suspended it waits, and once it has ended nothing arrives. -/
def pushData (s : State) : State :=
  match s.wire.findSome? fun w => match w with
      | .pushGrant g peer reg b n ctx => if g = s.gid then some (peer, reg, b, n, ctx) else none
      | _ => none with
  | none => s
  | some (peer, reg, b, n, ctx) =>
    if !((strandAt s peer).task.any fun k => k.order == ctx) then (if contextLives s ctx then s else dropPush s s.gid)
    else
      let s := deliverPush s s.gid peer reg (denseWords n b)
      match s.t.queue with
      | e :: r => { s with t := { s.t with queue := { e with progress := e.progress + 1 } :: r } }
      | [] => s

/-- PUSH_DATA (R264). -/
def execPushData (s : State) : Out := .next (asStrand s.inp.gid pushData s)

/-- Whether the guest on f may apply an update (R244). -/
def mayApply (s : State) (u : Update) : Bool :=
  decide ((u.clock.get u.origin).toNat ≤ frontier s u.die u.origin + 1) &&
    [0, 1, 2, 3].all fun e => e == u.die || e == u.origin || decide ((u.clock.get e).toNat ≤ frontier s u.die e)

/-- REPLICA_UPDATE (R244): of the updates on their way to die `die` that its frontier allows, the first of line `line`, or where there
is none the first. Updates of one line keep their order. -/
def execReplicaUpdate (s : State) : Out :=
  .next (
    let may : Update → Bool := fun u => u.die == s.inp.die && mayApply s u
    let first : Update → Bool := fun u => ((s.updates.find? fun v => v.die == u.die && v.line == u.line).any fun v => v == u)
    match s.updates.find? (fun u => may u && first u && u.line == s.inp.line) <|> s.updates.find? (fun u => may u && first u) with
    | some u => applyUpdate { s with updates := s.updates.erase u } u
    | none => s)

/-- EPOCH_CLOSE_TIMEOUT (R244). -/
def execEpochCloseTimeout (s : State) : Out :=
  .next (if s.openEpochs.contains s.inp.die then closeEpoch s s.inp.die else s)

/-- RESTAMP (R210). -/
def execRestamp (s : State) : Out := .next (restampDue (restamp s s.inp.line) (homeSlice s.inp.line))

/-- What an external access does at a location (R180, R250, R397): the bytes read or the old value, whether it failed, and the
state. -/
def externalAt (s : State) (die loc : Nat) (acc : ExtAccess) : List Byte × Bool × State :=
  match acc with
  | .read n => if readFails s loc n then ([], true, s) else (homeBytes s loc n, false, s)
  | .write bs =>
    if (refusedLines s ((List.range bs.length).map fun i => loc + i) (linesOf loc bs.length)).isEmpty then
      ([], false, homeWrite s die loc bs none)
    else ([], true, s)
  | .amo op dword operand =>
    let n := if dword then 8 else 4
    if readFails s loc n then ([], true, s)
    else
      let r := atomicAt s die loc op dword operand
      (bytesOf n r.1, false, r.2)

/-- The cause of an access to the host or a Wale window that is answered with an error (R180, R360). -/
def forwardCause (acc : ExtAccess) : Nat :=
  match acc with
  | .read _ => 5
  | .write _ | .amo _ _ _ => 7

/-- An access forwarded beyond the package (R180, R397): one to a Wale window goes out to its target package on a port; `none` while no port
that reaches it can send. -/
def forwardOut (s : State) (pa : Nat) (acc : ExtAccess) (loc : Nat) : Option State :=
  if placeOf loc = .wale then (waleOf s.map pa).bind fun w => sendRequest s w.target (w.tbase + (pa - w.base)) acc else some s

/-- FORWARDED_ACCESS (R180): an access of a strand to the host or to a Wale window, a scalar one where f0, by its physical address, through
the slice of its own die that R179's column and row give for that address; the slice forwards it and keeps nothing. -/
def execForwardedAccess (s : State) : Out :=
  .next (match locOf s s.inp.addr with
    | some loc =>
      if isDevice loc then s
      else
        match (forwardOut s s.inp.addr s.inp.acc loc).bind fun s =>
          startRequest s (sliceOn (dieOf s.inp.gid) s.inp.addr) s.inp.gid (columnOf s.inp.addr) (lineOf loc) 13 0 s.inp.f0 with
        | none => s
        | some (s, _) =>
          let r := externalAt s (dieOf s.inp.gid) loc s.inp.acc
          landOne r.2.2 s.inp.gid (lineOf loc) r.2.1 (forwardCause s.inp.acc)
    | none => s)

/-- The `vm.ldmc` at the head of a strand's queue, where one waits there (R230, R238). -/
def headLdmc (s : State) (gid : Nat) : Option QEntry :=
  match (strandAt s gid).queue with
  | e :: _ => match e.instr with
    | .vmLdmc _ _ _ _ => if e.done then none else some e
    | _ => none
  | [] => none

/-- The lines that the `vm.ldmc` at the head of a strand's queue reads. -/
def headWants (s : State) (gid line : Nat) : Bool :=
  let f := focusOn s gid
  (headLdmc s gid).any fun e =>
    let c := ctxOfEntry f e
    let u := { f with t := { f.t with replay := some e } }
    let m : KReg := match e.instr with
      | .vmLdmc _ _ _ m => m
      | _ => 0
    (gotLines (locMulticast c u) (belowFault (locMulticast c u) (todo c u m))).contains line

/-- The core mask of the `vm.ldmc` at the head of a strand's queue (R230). -/
def headMask (s : State) (gid : Nat) : BitVec 16 := ((headLdmc s gid).map fun e => e.xb.setWidth 16).getD 0

/-- MULTICAST_READ_REQUEST (R211, R212): of the `vm.ldmc` at the head of strand `gid`'s queue, for a line that it reads. -/
def execMulticastReadRequest (s : State) : Out :=
  .next (
    let sl := homeSlice s.inp.line
    match (if lineLocked s s.inp.line then none else queuedRequest s sl s.inp.gid s.inp.line 14) with
    | some q => joinWindow (dropRequest s sl q) (coreOf s.inp.gid) s.inp.line (BitVec.ofNat 16 (ofBytes (q.payload.take 2)))
    | none => if headWants s s.inp.gid s.inp.line then multicastRequest s s.inp.gid s.inp.line (headMask s s.inp.gid) else s)

/-- MERGE_WINDOW_CLOSE (R212): the open window of a key, where it closes now. -/
def execMergeWindowClose (s : State) : Out :=
  .next (
    match (sliceAt s (homeSlice s.inp.line)).windows.find? (windowIs s.inp.line s.inp.unit (BitVec.ofNat 16 s.inp.key) true) with
    | some w => if windowDue s w then closeWindow s w else s
    | none => s)

/-- MULTICAST_READ_REPLY (R211). -/
def execMulticastReadReply (s : State) : Out := .next (landMulticast s s.inp.line s.inp.unit)

/-- The oldest entry tried again where it is a sleep. -/
def retrySleep (i : Instr) (s : State) : Out :=
  match i with
  | .vmGcsleep d a b m => execVmGcsleep d a b m s
  | _ => .next { s with t := { s.t with replay := none } }

/-- GCSLEEP_WAKE (R259): a sleeper reads its armed words again. -/
def execGcsleepWake (s : State) : Out := .next (asStrand s.inp.gid (retryHead retrySleep) s)

/-- GCSLEEP_POLL (R259): lines beyond the 64 that a slice watches are read again. -/
def execGcsleepPoll (s : State) : Out := .next (asStrand s.inp.gid (retryHead retrySleep) s)

/-- The set of a TLB into which a translation falls, before reduction to the number of sets. -/
def tlbSet (e : TlbEntry) : Nat := Config.cacheSet (8 * e.vpage + e.level)

/-- An entry put into a TLB of `sets` sets of `n` ways; while its set is full, some entry leaves it (R365). -/
def putTlb (s : State) (sets n : Nat) (e : TlbEntry) : State :=
  let same : TlbEntry → Bool := fun f => f.l2 == e.l2 && f.core == e.core && tlbSet f % sets == tlbSet e % sets
  let rest := s.tlbs.filter fun f =>
    !(f.l2 == e.l2 && f.core == e.core && f.asid == e.asid && f.level == e.level && f.vpage == e.vpage)
  let mine := rest.filter same
  if mine.length < n then { s with tlbs := e :: rest }
  else
    let d := draw s
    match mine[d.1 % mine.length]? with
    | some f => { d.2 with tlbs := e :: rest.erase f }
    | none => { d.2 with tlbs := e :: rest }

/-- The failed reply to a request of a strand for a line, by the request's class (R403, R406). -/
def failedReplyTo (gid line recNo typ : Nat) : Msg :=
  match typ with
  | 0 => .readReply gid line recNo [] true .record
  | 2 => .writeAck gid line 0 0 false true
  | 4 => .atomicReply gid (line * 128) 0 true
  | _ => .forwardReply gid line true

/-- A walk for a miss of the focus strand (R363, R365, R366): a leaf that passes its check fills the cluster's L2 TLB and the
core's L1, with the Format Table entry its FAI names where that can be read (R148). It waits for a PTE's line that is locked (R255). -/
def pageWalk (va : Nat) (acc : Acc) (s : State) : State :=
  let xl := xlateNow s
  if !isTranslated xl || !canonical va || walkWaits s (coreOf s.gid) xl va then s
  else
    match walkFrom s va 5 (bits xl.datp.toNat 0 44) with
    | .error _ => s
    | .ok l =>
      if !permOk xl acc (bits l.pte 0 8) then s
      else
        let fai := pteFai l.pte
        let e : TlbEntry :=
          { l2 := true, core := clusterOf s.gid, asid := datpAsid xl.datp, global := l.global, level := l.level
            vpage := va / 2 ^ (12 + 9 * l.level), ppn := ptePpn l.pte, perms := bits l.pte 0 8, fai := fai
            fmtEntry := if fai = 0 || bits xl.fmtb.toNat 0 1 = 0 then none else (readFmtEntry s xl.fmtb fai).toOption
            fmtb := xl.fmtb, stale := false }
        putTlb (putTlb s 256 16 e) 32 8 { e with l2 := false, core := coreOf s.gid }

/-- PAGE_WALK (R366): for the address `va`; a store where f0, a fetch where f1. -/
def execPageWalk (s : State) : Out :=
  .next (asStrand s.inp.gid
    (pageWalk s.inp.va.toNat (if s.inp.f1 then .fetch else if s.inp.f0 then .write else .read)) s)

/-- An access from another package performed by its physical address (R397): at the local home slice as a local one, or in the host's memory or
another Wale window, and answered; it waits while a vector atomic holds its line (R255). -/
def performRemote (s : State) (q : RemoteReq) : State :=
  let rest := { s with incoming := s.incoming.erase q }
  match locOf s q.addr with
  | some loc =>
    if isDevice loc && lineLocked s (lineOf loc) then s
    else
      let r := externalAt (recallLines rest [lineOf loc]) (homeDie (lineOf loc) % 4) loc q.acc
      answerRemote r.2.2 q.port r.1 r.2.1
  | none => answerRemote rest q.port [] true

/-- REMOTE_ACCESS (R397): an access from another package comes in on port `unit`. -/
def execRemoteAccess (s : State) : Out :=
  .next (
    let q : RemoteReq := ⟨s.inp.unit, s.inp.addr, s.inp.acc⟩
    performRemote { s with incoming := s.incoming ++ [q] } q)

/-- REPLICA_DROP (R244): the guest drops a replica, and the home clears its bit. -/
def execReplicaDrop (s : State) : Out :=
  .next (
    let die := s.inp.die
    let line := s.inp.line
    if (replicaAt s die line).isNone then s else evictLine s (die * 512 + homeSlice line % 512) line)

end Sys2Proof.Machine
end

