-- ==== Sys2Proof/Machine/EngineOps.lean ====
section
/-! DEFINITION. The copy engines' events, the matrix sequencer's steps and the grouped-launch blocks (R191 to R195, R233, R268,
R269, R277, R285, R298). The particulars of an event are in `State.inp`. -/

namespace Sys2Proof.Machine

/-- COPY_START (R193): the copy of strand `gid` on tag `unit` starts, or performs its next piece, whose write its engine holds back
where `f0`; where `f1` it only reads the next line of its source. -/
def execCopyStart (s : State) : Out := .next (startCopy s.inp.f0 s.inp.f1 s s.inp.gid s.inp.unit)

/-- A copy that has ended leaves the engine: its tag's bit is set, and the fault bit of a failed one (R191, R233). -/
def endCopy (s : State) (gid tag : Nat) (ok : Bool) : State :=
  match copyAt s gid tag with
  | none => s
  | some j =>
    if j.outcome = some ok then
      let t := strandAt s gid
      let s := { s with copies := s.copies.filter fun c => !(c.gid == gid && c.tag == tag) }
      putStrand s gid { t with
        ctags := putBit t.ctags tag true
        cfault := if ok then t.cfault else putBit t.cfault tag true }
    else s

/-- COPY_COMPLETE (R191). -/
def execCopyComplete (s : State) : Out := .next (endCopy s s.inp.gid s.inp.unit true)

/-- COPY_FAILURE (R233). -/
def execCopyFailure (s : State) : Out := .next (endCopy s s.inp.gid s.inp.unit false)

/-- One step of the long product at the head of a queue (R277). -/
def retryGemm (i : Instr) (s : State) : Out :=
  match i with
  | .vxMgemm d a => runVec (.vxMgemm d a) false (mgemmBody 1 d) s
  | _ => .next { s with t := { s.t with replay := none } }

/-- MGEMM_STEP (R277). -/
def execMgemmStep (s : State) : Out := .next (asStrand s.inp.gid (retryHead retryGemm) s)

/-- Raw bytes that a block reads under the translation of a request (R285); `none` where they cannot be read. -/
def blockRead (s : State) (q : GRequest) (va n : Nat) : Option (List Byte) :=
  match locateBytes s (coreOf q.gid) q.xl .read va n with
  | .ok locs => if locs.any fun l => s.errs.contains (lineOf l) then none else some (locs.map (seenOn s (dieOf q.gid)))
  | .error _ => none

/-- Whether an access of a block waits for a line that a vector atomic holds: a PTE's or its own (R255). -/
def blockWaits (s : State) (q : GRequest) (acc : Acc) (va n : Nat) : Bool :=
  walkWaits s (coreOf q.gid) q.xl va ||
    match locateBytes s (coreOf q.gid) q.xl acc va n with
    | .ok locs => blocked s ((linesOfLocs locs).filter fun l => isDevice (l * 128))
    | .error _ => false

/-- The four-byte words of a byte string. -/
def wordsOf (bs : List Byte) : Nat → List Nat
  | 0 => []
  | n + 1 => wordsOf bs n ++ [recField bs (4 * n) 4]

/-- Whether a grouped-launch descriptor is one that the block accepts (R268, R298), apart from its counts. -/
def glaunchOk (bs : List Byte) : Bool :=
  let f := recField bs
  let w := fmtWidth (f 58 1)
  decide (f 52 2 ≠ 0) && decide (1 ≤ f 54 2) && decide (f 54 2 ≤ 32768) && decide (f 56 2 ≠ 0) &&
    [8, 9, 10, 11].contains (f 58 1) && decide (f 54 2 * w / 8 ≤ f 40 4) && decide (4 * f 56 2 ≤ f 44 4) &&
    decide (f 59 5 = 0) && decide (f 32 8 % 4 = 0)

/-- The fields of a request's descriptor, with its counts. -/
def servedOf (serial : Nat) (q : GRequest) (bs : List Byte) (counts : List Nat) (failed : Bool) : GServed :=
  let f := recField bs
  { serial := serial, req := q, abase := word (f 8 8), bbase := word (f 16 8), cbase := word (f 24 8), doneVa := word (f 32 8)
    apitch := f 40 4, cpitch := f 44 4, bstride := f 48 4, k := f 54 2, n := f 56 2, fmt := f 58 1, counts := counts
    group := 0, row := 0, num := 0, serving := !failed, failed := failed }

/-- A request's descriptor and counts read (R269, R285, R298). A descriptor that cannot be read has no DONE address: it is
held as one that is not 4-aligned, which is never written. -/
def readRequestDesc (s : State) (serial : Nat) (q : GRequest) : GServed :=
  match blockRead s q q.desc.toNat 64 with
  | none => { servedOf serial q [] [] true with doneVa := 1 }
  | some bs =>
    if !glaunchOk bs then servedOf serial q bs [] true
    else
      let E := recField bs 52 2
      match blockRead s q (recField bs 0 8) (4 * E) with
      | none => servedOf serial q bs [] true
      | some cs =>
        let counts := wordsOf cs E
        if counts.sum < 2 ^ 32 then servedOf serial q bs counts false else servedOf serial q bs [] true

/-- Whether reading a request's descriptor and counts waits for a locked line (R255). -/
def requestWaits (s : State) (q : GRequest) : Bool :=
  blockWaits s q .read q.desc.toNat 64 ||
    match blockRead s q q.desc.toNat 64 with
    | some bs => blockWaits s q .read (recField bs 0 8) (4 * recField bs 52 2)
    | none => false

/-- A served request with its next node, past groups that have no rows left; `none` when every node is inserted (R269). -/
def nextNode (v : GServed) : List Nat → Option (GServed × GNode)
  | [] => none
  | 0 :: r => nextNode { v with group := v.group + 1 } r
  | c :: r =>
    let m := Nat.min 8 c
    some ({ v with counts := (c - m) :: r, row := v.row + m, num := v.num + 1 }, ⟨v.serial, v.num, v.group, v.row, m, 0, 0, 0, 0⟩)

/-- One turn of a block (R285): it reads the next request's descriptor, or inserts the next node while the pool has room; after
the last node, or a failure, the request has been served. An inserted node is ready. -/
def serveBlock (s : State) (b : Nat) : State :=
  let k := blockAt s b
  match k.served.find? fun v => v.serving with
  | some v =>
    match nextNode v v.counts with
    | none =>
      putBlock s b { k with queue := k.queue.tail, served := k.served.map fun u => if u.serial = v.serial then { u with serving := false } else u }
    | some (v', n) =>
      if 4096 ≤ poolCount s (b / 4) then s
      else
        putBlock { s with nextOrder := s.nextOrder + 1 } b { k with
          nodes := k.nodes ++ [{ n with order := s.nextOrder, since := s.clock }]
          served := k.served.map fun u => if u.serial = v.serial then v' else u }
  | none =>
    match k.queue with
    | [] => s
    | q :: r =>
      if requestWaits s q then s
      else
      let v := readRequestDesc s k.serial q
      putBlock s b { k with
        serial := k.serial + 1
        queue := if v.serving then q :: r else r
        served := k.served ++ [v] }

/-- GLAUNCH_BLOCK_SERVE (R285): block `unit` of the package, die · 4 + block. -/
def execGlaunchBlockServe (s : State) : Out := .next (serveBlock s s.inp.unit)

/-- The context in which a node works on columns `lo` to `lo + vl - 1` (R269, R298): FMT of the descriptor, RNE, LAM 1. -/
def nodeCtx (v : GServed) (vl : Nat) : Ctx :=
  ⟨0, 0, 0, 0, vl, BitVec.ofNat 12 (v.fmt + 2 ^ 10), 0, 0, v.req.xl, 0⟩

/-- The product of a node's rows over columns from `lo` on, as a long product's descriptor (R269, R298). -/
def nodeGemm (v : GServed) (n : GNode) (lo : Nat) : Gemm :=
  let w := fmtWidth v.fmt / 8
  { abase := (v.abase.toNat + n.row * v.apitch) % 2 ^ 64
    bbase := (v.bbase.toNat + n.group * v.bstride + lo * w) % 2 ^ 64
    apitch := v.apitch, bpitch := v.n * w, k := v.k, mrow0 := 0, au := false }

/-- The fault of a node's fetches over a chunk, in the order of the steps. -/
def nodeFault (c : Ctx) (s : State) (F : FpFmt) (D : Gemm) (m : Nat) : Option EFault :=
  (List.range (ceilDiv D.k 32)).findSome? fun t => stepFaults c s F D m (32 * t) (Nat.min D.k (32 * t + 32))

/-- A row of a node's chunk: C from +0 over all K (R159, R160, R269). -/
def nodeRow (c : Ctx) (s : State) (F : FpFmt) (D : Gemm) (r : Nat) : VBits := (gemmBlock c s F D (fun _ => 0) 0 D.k r 0).1

/-- The writes of a row of C, or the cause it meets: C is raw 32-bit values, whatever the FAI of its page (R147, R268). -/
def nodeWrites (c : Ctx) (s : State) (va : Nat) (b : VBits) : Nat → Except Nat (List (Nat × Byte))
  | 0 => .ok []
  | n + 1 =>
    match nodeWrites c s va b n with
    | .error e => .error e
    | .ok ws =>
      match vLocs c s .write ((va + 4 * n) % 2 ^ 64) 4 with
      | .error e => .error e
      | .ok locs => .ok (ws ++ locs.zip (bytesOf 4 (elem 32 b n)))

/-- Rows of a node's chunk written in order, until one cannot be (R285): nothing of that row, which is one of the outcomes that "each line
of C either accepted or not" allows (DESIGN CHOICE). -/
def nodeStore (c : Ctx) (v : GServed) (n : GNode) (lo : Nat) (rows : Nat → VBits) : Nat → State → State × Option Nat
  | 0, s => (s, none)
  | r + 1, s =>
    match nodeStore c v n lo rows r s with
    | (t, some e) => (t, some e)
    | (t, none) =>
      match nodeWrites c t ((v.cbase.toNat + (n.row + r) * v.cpitch + 4 * lo) % 2 ^ 64) (rows r) c.vl with
      | .error e => (t, some e)
      | .ok ws =>
        let locs := ws.map Prod.fst
        if (refusedLines t locs (linesOfLocs locs)).isEmpty then (homeScatter t (dieOf t.gid) ws, none) else (t, some 27)

/-- A node's chunks of up to 1,024 columns, in ascending order (R285): the state, and the cause of a failure. -/
def nodeChunks (F : FpFmt) (v : GServed) (n : GNode) : Nat → State → State × Option Nat
  | 0, s => (s, none)
  | j + 1, s =>
    match nodeChunks F v n j s with
    | (t, some e) => (t, some e)
    | (t, none) =>
      let lo := 1024 * j
      let c := nodeCtx v (Nat.min 1024 (v.n - lo))
      let D := nodeGemm v n lo
      match nodeFault c t F D n.m with
      | some e => (t, some e.1)
      | none => nodeStore c v n lo (nodeRow c t F D) n.m t

/-- A node run on a strand (R269, R285): a failure is logged with class 3, the cause and the first row. -/
def runNode (v : GServed) (n : GNode) (s : State) : State × Nat :=
  match fpFmt v.fmt with
  | none => (s, 3)
  | some F =>
    match nodeChunks F v n (ceilDiv v.n 1024) s with
    | (t, none) => (t, 2)
    | (t, some e) => (logEvent t 3 (strandUnit t.gid) 0 [e, n.row], 3)

/-- The locations of columns `lo` to `lo + vl - 1` of a row of C, as far as they translate. -/
def nodeLocs (c : Ctx) (s : State) (va : Nat) : List Nat :=
  (List.range c.vl).flatMap fun n => match vLocs c s .write ((va + 4 * n) % 2 ^ 64) 4 with
    | .ok locs => locs
    | .error _ => []

/-- The device lines that a node reads and writes, as far as they translate. -/
def nodeLines (v : GServed) (n : GNode) (s : State) : List Nat :=
  match fpFmt v.fmt with
  | none => []
  | some F =>
    linesOfLocs (((List.range (ceilDiv v.n 1024)).flatMap fun j =>
      let lo := 1024 * j
      let c := nodeCtx v (Nat.min 1024 (v.n - lo))
      let D := nodeGemm v n lo
      ((List.range (ceilDiv D.k 32)).flatMap fun t => (stepLines c s F D n.m (32 * t) (Nat.min D.k (32 * t + 32))).map (· * 128)) ++
        (List.range n.m).flatMap fun r => nodeLocs c s ((v.cbase.toNat + (n.row + r) * v.cpitch + 4 * lo) % 2 ^ 64)).filter isDevice)

/-- The node of a block that runs on a strand, with its request. -/
def runningNode (k : GBlock) (gid : Nat) : Option (GNode × GServed) :=
  (k.nodes.find? fun n => n.status == 1 && n.on == gid).bind fun n =>
    (k.served.find? fun v => v.serial == n.serial).map fun v => (n, v)

/-- A node of a block with a new status, on a strand. -/
def markNode (s : State) (b gid : Nat) (n : GNode) (status : Nat) : State :=
  let k := blockAt s b
  putBlock s b { k with nodes := k.nodes.map fun m => if m.serial = n.serial ∧ m.num = n.num then { m with status := status, on := gid } else m }

/-- The waiting node of a block placed on a free strand of the block's die, in the dispatcher's order (R285, R332): it enters the
division of its core's lane groups with its launching task's weight (R269, R338). -/
def placeNode (s : State) (b gid : Nat) : State :=
  match waitingNode (blockAt s b) with
  | none => s
  | some q =>
    if dieOf gid ≠ b / 4 ∨ strandFree s gid = false ∨ outranked s (b / 4) (nodeRank q) = true then s
    else takeShare { markNode s b gid q.1 1 with gated := s.gated.filter fun c => c != coreOf gid } gid

/-- Whether a line that a node needs is locked by a vector atomic: the node waits (R255). -/
def nodeWaits (s : State) (gid : Nat) (q : GNode × GServed) : Bool :=
  blocked s (nodeLines q.2 q.1 (focusOn s gid))

/-- A running node of a block run to its end (R269, R285): owned lines are recalled first (R194); the lane groups are divided again. -/
def finishNode (s : State) (b gid : Nat) : State :=
  match runningNode (blockAt s b) gid with
  | none => s
  | some q =>
    if nodeWaits s gid q then s
    else
      let f := focusOn s gid
      let r := runNode q.2 q.1 (recallLines f (nodeLines q.2 q.1 f))
      redivide (markNode (focusOn r.1 s.gid) b gid q.1 r.2) (coreOf gid)

/-- GLAUNCH_NODE (R269): block `unit`, strand `gid`: the node that runs there ends, or the next one is placed there. -/
def execGlaunchNode (s : State) : Out :=
  .next (if (runningNode (blockAt s s.inp.unit) s.inp.gid).isSome then finishNode s s.inp.unit s.inp.gid
    else placeNode s s.inp.unit s.inp.gid)

/-- The DONE word written as a release at SYSTEM scope, or only a record in the log (R285): of class 3, with the request's serial number, since
the rule gives neither (DESIGN CHOICE). -/
def writeDone (s : State) (v : GServed) : State :=
  let va := v.doneVa.toNat
  let die := dieOf v.req.gid
  if va % 4 ≠ 0 then logEvent s 3 (strandUnit v.req.gid) 0 [v.serial]
  else
    let s := releaseAt s die 5
    match locateBytes s (coreOf v.req.gid) v.req.xl .write va 4 with
    | .error _ => logEvent s 3 (strandUnit v.req.gid) 0 [v.serial]
    | .ok locs =>
      if (refusedLines s locs (linesOfLocs locs)).isEmpty then
        homeScatter (recallLines s (linesOfLocs locs)) die (locs.zip (bytesOf 4 (if v.failed then 2 else 1)))
      else logEvent s 3 (strandUnit v.req.gid) 0 [v.serial]

/-- The first request of a block whose every inserted node has ended, no more being inserted. -/
def doneRequest (k : GBlock) : Option GServed :=
  k.served.find? fun v => !v.serving && !(k.nodes.any fun n => n.serial == v.serial && decide (n.status < 2))

/-- DONE written for a request whose nodes have all ended (R269). -/
def glaunchDone (s : State) (b : Nat) : State :=
  match doneRequest (blockAt s b) with
  | none => s
  | some v =>
    if decide (v.doneVa.toNat % 4 = 0) && blockWaits s v.req .write v.doneVa.toNat 4 then s
    else
    let s := writeDone s v
    let k := blockAt s b
    putBlock s b { k with
      served := k.served.filter fun u => u.serial != v.serial
      nodes := k.nodes.filter fun n => n.serial != v.serial }

/-- GLAUNCH_DONE (R269). -/
def execGlaunchDone (s : State) : Out := .next (glaunchDone s s.inp.unit)

end Sys2Proof.Machine
end

