-- ==== Sys2Proof/Machine/HostOps.lean ====
section
/-! DEFINITION. The host's side: launch queues, packets, ABORT, TLBCTL, the registers of BAR0 and the memory of BAR2
(R327 to R333, R388 to R393). The particulars of an event are in `State.inp`. -/

namespace Sys2Proof.Machine

/-- An MSI-X vector raised (R388). -/
def raiseMsix (s : State) (v : Nat) : State := { s with msix := v :: s.msix }

/-- A queue overruns (R391): STATE, cause 49, and its vector where INTE is 1. -/
def overrun (s : State) (q : Nat) : State :=
  let k := queueAt s q
  let s := putQueue s q { k with state := .overrun, cause := 49 }
  if k.inte then raiseMsix s q else s

/-- Whether more packets are submitted than the ring holds (R391). -/
def tooFar (k : HostQueue) : Bool := decide (2 ^ k.rsize.toNat < (k.tail - k.head).toNat)

/-- Whether the function that `unit` names owns a queue (R390): its link's half of them, or with bonded links all. -/
def ownsQueue (s : State) (q : Nat) : Bool := s.bonded || s.inp.unit == q / 32

/-- An action of the host on a queue of its own function; another function's BAR0 does not hold the queue's registers (R390). -/
def onOwnQueue (f : Nat → State → State) (s : State) : Out :=
  .next (if ownsQueue s (s.inp.idx % 64) then f (s.inp.idx % 64) s else s)

/-- QUEUE_DOORBELL (R333, R390, R391): what the host wrote before is visible; TAIL is set, and its distance checked. -/
def execQueueDoorbell : State → Out :=
  onOwnQueue fun q s =>
    let s := [0, 1, 2, 3].foldl drainUpdates s
    let k := { queueAt s q with tail := s.inp.lo.setWidth 32 }
    let s := putQueue s q k
    if k.state = .run ∧ tooFar k then overrun s q else s

/-- QUEUE_START (R390): a write of 1 to STATE, and with it of INTE; a start from STOPPED; one in OVERRUN is ignored. -/
def execQueueStart : State → Out :=
  onOwnQueue fun q s =>
    let k := { queueAt s q with inte := s.inp.lo.getLsbD 8 }
    match k.state with
    | .stopped => putQueue s q { k with head := 0, tail := 0, expseq := k.seq0, state := .run, ids := [] }
    | .run => putQueue s q k
    | .overrun => s

/-- QUEUE_STOP (R390): a write of 0 to STATE, and with it of INTE. -/
def execQueueStop : State → Out :=
  onOwnQueue fun q s => putQueue s q { queueAt s q with state := .stopped, inte := s.inp.lo.getLsbD 8 }

/-- The dies whose pools a record needs (R332): every die, or one that the control plane chooses. -/
def packetDies (r : List Byte) (free : Nat) : List Nat :=
  if topScope (levelsOf r) = 4 then [0, 1, 2, 3] else [free % 4]

/-- The launches that a record's DEP fields name, as far as they are not complete (R332). -/
def packetEdges (k : HostQueue) (r : List Byte) : List Nat :=
  ((List.range 4).map (recDep r)).filterMap fun d =>
    if d = 0xFFFFFFFF then none else (k.ids.find? fun p => p.1 == d).map Prod.snd

/-- A node taken on each die given; with the nodes. -/
def takeNodes : List Nat → State → State × List (Nat × Nat)
  | [], s => (s, [])
  | d :: r, s =>
    let i := (freeNode s d).getD 0
    let p := takeNodes r (takeNode s d i)
    (p.1, (d, i) :: p.2)

/-- A valid packet's nodes inserted with its predecessors (R332, R333) under its launch key, where every pool it needs has room. -/
def insertPacket (s : State) (q : Nat) (r : List Byte) (edges : List Nat) (key : Nat) : Option State :=
  let d := draw s
  let dies := packetDies r d.1
  if dies.any fun x => (freeNode s x).isNone then none
  else
    let k := queueAt s q
    let n := takeNodes dies d.2
    let l : Launch :=
      { key := key, image := r, queue := some (q, k.cbase), xl := none, spawner := none, hold := false
        edges := edges, nodes := n.2, ready := [], doneClock := Clock4.zero
        clock := (k.doneClocks.filter fun p => edges.contains p.1).foldl (fun c p => c.max p.2) Clock4.zero
        place := none, started := [], ended := [] }
    some { n.1 with launches := n.1.launches ++ [l] }

/-- A packet that fails R328 (R392): its one completion word; its ID counts as completed, for no launch has its key. -/
def refusePacket (s : State) (q : Nat) (r : List Byte) : State :=
  if recCompl r = 0 then s
  else
    homeWrite s 0 (hostLoc + (queueAt s q).cbase + 128 * recCompl r)
      (bytesOf 8 (completionWord 0 160 (BitVec.ofNat 32 (recTaskId r))).toNat) none

/-- A packet handled (R391, R392): refused, inserted, or the queue waits at it. -/
def handlePacket (s : State) (q : Nat) (r : List Byte) (edges : List Nat) (key : Nat) : State :=
  if !recValid r then refusePacket s q r
  else (insertPacket s q r edges key).getD (putQueue s q { queueAt s q with stuck := some (r, (edges, key)) })

/-- The next packet taken (R391), or the one that waits for room. -/
def takePacket (s : State) (q : Nat) : State :=
  let k := queueAt s q
  match k.stuck with
  | some r => handlePacket (putQueue s q { k with stuck := none }) q r.1 r.2.1 r.2.2
  | none =>
    if k.state ≠ .run ∨ k.head = k.tail then s
    else if tooFar k then overrun s q
    else
      let r := homeBytes s (hostLoc + k.rbase + 256 * (k.head.toNat % 2 ^ k.rsize.toNat)) 256
      if recSeq r ≠ k.expseq.toNat then overrun s q
      else
        let t := putQueue { s with nextKey := s.nextKey + 1 } q
          { k with head := k.head + 1, expseq := k.expseq + 1, ids := (recId r, s.nextKey) :: k.ids }
        handlePacket t q r (packetEdges k r) s.nextKey

/-- PACKET_TAKE (R391). -/
def execPacketTake (s : State) : Out := .next (takePacket s (s.inp.idx % 64))

/-- A suspended task fails (R359, R392): its context is closed without a strand, and none of its future loads is held (R326). -/
def failSuspended (s : State) (c : Suspended) (err : Nat) : State :=
  closeTask { s with suspended := s.suspended.filter fun d => d.ctx != c.ctx } c.last 2048 c.saved false err

/-- A task not yet started fails (R392): it is removed and writes its word. -/
def failUnstarted (s : State) (l : Launch) (i err : Nat) : State :=
  let die := (nodeDies l).headD 0
  let s := writeCompletion s die l i (completionWord 0 err (BitVec.ofNat 32 (recTaskId l.image + i)))
  match launchOf s l.key with
  | some m => endOfTask (putLaunch s { m with started := addOnce i m.started }) die l.key i
  | none => s

/-- Task i of a launch fails, wherever it stands (R392, R404). -/
def failTaskOf (s : State) (l : Launch) (i err : Nat) : State :=
  let mine : Strand → Bool := fun t => t.task.any fun k => k.launch == l.key && k.index == i
  match (busyStrands s).find? fun g => mine (strandAt s g) with
  | some g => failTaskOn s g false err
  | none =>
    match s.suspended.find? fun c => mine c.saved with
    | some c => failSuspended s c err
    | none => if l.started.contains i then s else failUnstarted s l i err

/-- The live task with an id: its launch and index. -/
def liveTask (s : State) (id : BitVec 32) : Option (Launch × Nat) :=
  s.launches.findSome? fun l =>
    let i := (id - BitVec.ofNat 32 (recTaskId l.image)).toNat
    if i < taskTotal l.image ∧ l.ended.contains i = false then some (l, i) else none

/-- TASK_ABORT (R392): the task fails with ERR 161; an id that names no live task is ignored. -/
def execTaskAbort (s : State) : Out :=
  .next (match liveTask s (s.inp.lo.setWidth 32) with
    | some p => failTaskOf s p.1 p.2 161
    | none => s)

/-- TLBCTL.GO as it reads (R393): 1 until the last wait of the invalidation it began has ended. -/
def goReads (s : State) : Bool := s.tlbGo.any fun p => staleUnder s p.1 p.2

/-- TLBCTL_GO (R389, R393): ASID, ALLVA and ALLASID are written; with GO the invalidation is performed. A write while GO is 1 is
ignored. -/
def execTlbctlGo (s : State) : Out :=
  .next (
    if goReads s then s
    else
      let v := s.inp.lo
      let s := { s with tlbctl := v.setWidth 18 }
      if v.getLsbD 31 then
        let va := if v.getLsbD 16 then none else some s.tlbva.toNat
        let asid := if v.getLsbD 17 then none else some (v.toNat % 2 ^ 16)
        tlbInvalidate { s with tlbGo := some (va, asid) } va asid
      else s)

/-- Whether a task runs on a die. -/
def dieBusy (s : State) (die : Nat) : Bool := (busyStrands s).any fun g => dieOf g == die

/-- An arena register written, where no task runs on the die and the base lies in device HBM (R389). -/
def putArena (s : State) (die : Nat) (base size : Nat) : State :=
  if dieBusy s die ∨ 4 ≤ die then s else { s with arena := sput (0, 0) s.arena die (base, size) }

/-- A register of a queue block written while it is STOPPED (R390). -/
def putStopped (s : State) (q : Nat) (f : HostQueue → HostQueue) : State :=
  if (queueAt s q).state = .stopped ∧ q < 64 ∧ ownsQueue s q = true then putQueue s q (f (queueAt s q)) else s

/-- BAR0_REGISTER_WRITE (R389, R390). -/
def execBar0RegisterWrite (s : State) : Out :=
  .next (
    let v := s.inp.lo
    match s.inp.reg with
    | .devId => s
    | .arenaBase d =>
      let b := (maskTo 0xFFFFFFFFFFF000 v).toNat
      if inHbm s b 1 then putArena s d b (sget (0, 0) s.arena d).2 else s
    | .arenaSize d => putArena s d (sget (0, 0) s.arena d).1 (maskTo 0xFFFFFFFFF000 v).toNat
    | .tlbVa => { s with tlbva := v }
    | .queueBase q => putStopped s q fun k => { k with rbase := (maskTo 0xFFFFFFFFFFFFF000 v).toNat }
    | .queueSize q => putStopped s q fun k =>
        if 4 ≤ bits v.toNat 0 4 ∧ bits v.toNat 0 4 ≤ 12 then { k with rsize := v.setWidth 4, seq0 := v.extractLsb' 32 32 } else k
    | .queueCbase q => putStopped s q fun k => { k with cbase := (maskTo 0xFFFFFFFFFFFFFF80 v).toNat }
    | .queueInte q => if q < 64 ∧ ownsQueue s q = true then putQueue s q { queueAt s q with inte := v.getLsbD 8 } else s
    | .other _ => s)

/-- The register at an offset of BAR0, aligned to 8 bytes (R389, R390); queue q's block stands at 0x1_0000 + 0x40·q. -/
def bar0At (o : Nat) : Bar0Reg :=
  let q := (o - 0x10000) / 0x40
  if o = 0 then .devId
  else if 0x100 ≤ o ∧ o < 0x140 ∧ o % 16 = 0 then .arenaBase ((o - 0x100) / 16)
  else if 0x100 ≤ o ∧ o < 0x140 ∧ o % 16 = 8 then .arenaSize ((o - 0x100) / 16)
  else if o = 0x200 then .tlbVa
  else if 0x10000 ≤ o ∧ o < 0x11000 then
    (match o % 0x40 with
     | 0x00 => .queueBase q
     | 0x08 => .queueSize q
     | 0x10 => .queueCbase q
     | 0x28 => .queueInte q
     | _ => .other o)
  else .other o

/-- STATE of a queue as its register holds it (R390). -/
def queueCode : QueueState → Nat
  | .stopped => 0
  | .run => 1
  | .overrun => 2

/-- What a read of 8 bytes of BAR0 returns (R389, R390). TLBCTL, HEAD and EXPSEQ have no row of their own for writes; a write-only register, and
an offset with none, read 0, which the rules leave open (DESIGN CHOICE). -/
def readBar0 (s : State) (o : Nat) : Word :=
  match bar0At o with
  | .devId => 0x4C590768
  | .arenaBase d => word (sget (0, 0) s.arena d).1
  | .arenaSize d => word (sget (0, 0) s.arena d).2
  | .tlbVa => s.tlbva
  | .queueBase q => word (queueAt s q).rbase
  | .queueSize q => word ((queueAt s q).rsize.toNat + (queueAt s q).seq0.toNat * 2 ^ 32)
  | .queueCbase q => word (queueAt s q).cbase
  | .queueInte q => word (queueCode (queueAt s q).state + if (queueAt s q).inte then 256 else 0)
  | .other o =>
    let q := queueAt s ((o - 0x10000) / 0x40)
    if o = 0x208 then word (s.tlbctl.toNat + if goReads s then 2 ^ 31 else 0)
    else if 0x10000 ≤ o ∧ o < 0x11000 ∧ o % 0x40 = 0x20 then word (q.head.toNat + q.expseq.toNat * 2 ^ 32)
    else 0

/-- The location of a byte of BAR2 (R388). -/
def bar2Loc (s : State) (o : Nat) : Option Nat :=
  if o < hbmSize then some o else if 2 ^ 40 ≤ o ∧ o < 2 ^ 40 + 2 ^ 30 then basketAt s (o - 2 ^ 40) else none

/-- The locations of `n` bytes of BAR2, where each exists. -/
def bar2Locs (s : State) (o n : Nat) : Option (List Nat) :=
  let ls := (List.range n).filterMap fun i => bar2Loc s (o + i)
  if ls.length = n then some ls else none

/-- An error reported through AER, and logged with class 2 (R388). -/
def reportAer (s : State) (o pa : Nat) : State :=
  let s := logEvent s 2 (unitOn .link 0 0) pa []
  { s with aer := o :: s.aer }

/-- A reply to a host read. -/
def hostReply (s : State) (bs : List Byte) (poisoned : Bool) : State := { s with hostReplies := (bs, poisoned) :: s.hostReplies }

/-- A read of `idx` bytes at offset `addr` of BAR2, or of the register of BAR0 at `addr` (R388 to R390). -/
def hostRead (s : State) : State :=
  let n := s.inp.idx
  let ones := List.replicate n (0xFF#8)
  match bar2Locs s s.inp.addr n with
  | none => hostReply (logEvent s 4 (unitOn .link 0 0) s.inp.addr []) ones false
  | some ls =>
    if blocked s (ls.map lineOf) then s
    else
      let s := recallLines s (linesOfLocs ls)
      match ls.find? fun l => s.errs.contains (lineOf l) with
      | some l => hostReply (reportAer s s.inp.addr (paOf s l)) ones true
      | none => hostReply s (ls.map (homeByte s)) false

/-- BAR2_READ (R388): `idx` bytes at offset `addr`. Where f1, the event is the host's other read, one of 8 bytes of BAR0 (R389, R390): no row of the
table is a read of BAR0. -/
def execBar2Read (s : State) : Out :=
  .next (if s.inp.f1 then hostReply s (bytesOf 8 (readBar0 s s.inp.addr).toNat) false else hostRead s)

/-- One line of a posted write (R388, R402), performed at its home or dropped. The write carries the clock of its
home die: the model's choice, since R244 gives a clock only to writes issued on a die. -/
def bar2Line (o : Nat) (ws : List (Nat × Byte)) (s : State) (line : Nat) : State :=
  let mine := ws.filter fun w => lineOf w.1 == line
  let s := recallLine s line
  if (refusedLines s (mine.map Prod.fst) [line]).isEmpty then homeScatter s (homeDie line) mine
  else reportAer s o (paOf s (line * 128))

/-- A posted write at an offset of BAR2 performed (R388); `none` while a vector atomic holds one of its lines (R255). -/
def hostWrite (s : State) (o : Nat) (bs : List Byte) : Option State :=
  match bar2Locs s o bs.length with
  | none => some (logEvent s 4 (unitOn .link 0 0) o [])
  | some ls => if blocked s (ls.map lineOf) then none else some ((linesOfLocs ls).foldl (bar2Line o (ls.zip bs)) s)

/-- The posted writes of the bonded function that have come, performed in the order in which the host issued them (R388), as far as they can
be. -/
def performPosted : Nat → State → State
  | 0, s => s
  | n + 1, s =>
    match s.posted.find? fun p => p.1 == s.postNext with
    | none => s
    | some p =>
      match hostWrite { s with posted := s.posted.erase p, postNext := s.postNext + 1 } p.2.1 p.2.2 with
      | some t => performPosted n t
      | none => s

/-- The link over which the bonded function's traffic at an address goes: it is striped by 4 KiB (R388). -/
def stripeLink (o : Nat) : Nat := o / 4096 % 2

/-- BAR2_WRITE (R388): a posted write at offset `addr`. Over bonded links it is the function's number `key` and comes over link `unit`, the one
that its stripe goes over; it is performed after every one issued before it. -/
def execBar2Write (s : State) : Out :=
  .next (
    if !s.bonded then (hostWrite s s.inp.addr s.inp.data).getD s
    else if s.inp.unit ≠ stripeLink s.inp.addr ∨ s.inp.key < s.postNext ∨ s.posted.any (fun p => p.1 == s.inp.key) = true then s
    else performPosted (s.posted.length + 1) { s with posted := s.posted ++ [(s.inp.key, (s.inp.addr, s.inp.data))] })

/-- Whether both host links are idle (R394): no posted write waits, and no request to the host is unanswered. -/
def linksIdle (s : State) : Bool := s.posted.isEmpty && !(s.records.any fun r => placeOf (r.line * 128) == .host && !r.delivered)

end Sys2Proof.Machine
end

