-- ==== Sys2Proof/Machine/HandleOps.lean ====
section
/-! DEFINITION. The Handle and the Wale ports: configuration, sensors, log, firmware, scrubbing, structure errors, resets, power
(R186, R361, R394 to R408). The particulars of an event are in `State.inp`. -/

namespace Sys2Proof.Machine

/-- A reply to an MCTP requester (R394, R398). -/
def mctpReply (s : State) (r : List Nat) : State := { s with handle := { s.handle with replies := s.handle.replies ++ [r] } }

/-- A request whose condition does not hold is refused with an error status, and nothing changes (R394); status 0 is success. -/
def configure (ok : Bool) (f : State → State) (s : State) : State := if ok then mctpReply (f s) [0] else mctpReply s [1]

/-- Whether some task runs on the device. -/
def deviceBusy (s : State) : Bool := !(busyStrands s).isEmpty

/-- Whether two ranges, each a base and a size, overlap. -/
def rangesMeet (a b : Nat × Nat) : Bool := decide (a.1 < b.1 + b.2) && decide (b.1 < a.1 + a.2)

/-- The enabled ranges of a physical map (R361). -/
def mapRanges (m : PhysMap) : List (Nat × Nat) :=
  (m.hbmb.toList.map fun b => (b, hbmSize)) ++ (m.bskb.toList.map fun b => (b, 2 ^ 30)) ++
    (m.hostb.toList.map fun b => (b, m.hostsz)) ++ m.wale.map fun w => (w.2.base, w.2.size)

/-- Whether no two ranges of a list overlap. -/
def rangesApart : List (Nat × Nat) → Bool
  | [] => true
  | r :: rs => !(rs.any (rangesMeet r)) && rangesApart rs

/-- Whether a number is a power of two from `2 ^ lo` to `2 ^ hi`. -/
def powerBetween (lo hi n : Nat) : Bool := (List.range (hi - lo + 1)).any fun i => n == 2 ^ (lo + i)

/-- Whether a physical map keeps R361: bases aligned, sizes in range, within 56 bits, no two ranges overlapping. -/
def mapOk (m : PhysMap) : Bool :=
  (m.hbmb.all fun b => b % 2 ^ 40 == 0) && (m.bskb.all fun b => b % 2 ^ 30 == 0) &&
    (m.hostb.all fun b => powerBetween 30 55 m.hostsz && b % m.hostsz == 0) &&
    (m.wale.all fun w => powerBetween 30 56 w.2.size && w.2.base % w.2.size == 0 && decide (w.2.target < 1024)) &&
    ((mapRanges m).all fun r => decide (r.1 + r.2 ≤ 2 ^ 56)) && rangesApart (mapRanges m)

/-- A number of the event's list. -/
def arg (s : State) (i : Nat) : Nat := s.inp.nums.getD i 0

/-- A base where its enable bit is 1. -/
def baseIf (en i b : Nat) : Option Nat := if bits en i 1 = 1 then some b else none

/-- The bus ranges of BAR0 and BAR2 of each function (R361, R388), from their bases. -/
def barRanges : List Nat → List (Nat × Nat)
  | b0 :: b2 :: r => (b0, 2 ^ 26) :: (b2, 2 ^ 41) :: barRanges r
  | _ => []

/-- SET_PHYSICAL_MAP (R361, R394): enables, HBMB, BSKB, HOSTB, HOSTSZ; then the bus addresses of BAR0 and BAR2 of each function, as
the host has enumerated them. -/
def execSetPhysicalMap (s : State) : Out :=
  .next (
    let m : PhysMap := { s.map with
      hbmb := baseIf (arg s 0) 0 (arg s 1), bskb := baseIf (arg s 0) 1 (arg s 2), hostb := baseIf (arg s 0) 2 (arg s 3)
      hostsz := arg s 4, bars := barRanges (s.inp.nums.drop 5) }
    configure (!deviceBusy s && mapOk m) (fun s => { s with map := m }) s)

/-- SET_WALE_WINDOW (R394): window, enable, BASE, SIZE, target package, target base. -/
def execSetWaleWindow (s : State) : Out :=
  .next (
    let rest := s.map.wale.filter fun w => w.1 != arg s 0
    let m : PhysMap := { s.map with
      wale := if arg s 1 = 0 then rest else (arg s 0, ⟨arg s 2, arg s 3, arg s 4, arg s 5⟩) :: rest }
    configure (!deviceBusy s && decide (arg s 0 < 64) && mapOk m) (fun s => { s with map := m }) s)

/-- Whether a location lies in a Basket of a die. -/
def inBasketOf (die loc : Nat) : Bool := decide (placeOf loc = .basket) && (loc - bskLoc) / 2 ^ 19 / 512 == die

/-- Every Basket of a die reads as zero (R186), and no scalar L1 or check remembers it. -/
def clearBasket (s : State) (die : Nat) : State :=
  { s with
    mem := s.mem.filter fun p => !inBasketOf die p.1
    errs := s.errs.filter fun l => !inBasketOf die (l * 128)
    l1 := s.l1.filter fun p => !inBasketOf die (p.2 * 128) }

/-- The lines of a cache that its ways no longer hold, at `n` ways a set: the least recently used of each set (R184, R186). -/
def linesOver (n : Nat) : List Nat → List Nat → List Nat
  | _, [] => []
  | seen, l :: r =>
    let rest := linesOver n (l :: seen) r
    if n ≤ (seen.filter fun m => setOf m == setOf l).length then l :: rest else rest

/-- The lines in the ways that a partition takes leave each slice of a die (R186). -/
def trimCaches (s : State) (die ways : Nat) : State :=
  (s.slices.filter fun p => p.1 / 512 == die).foldl
    (fun s p => (linesOver ways [] p.2.cache).foldl (fun s l => evictLine s p.1 l) s) s

/-- SET_BASKET_PARTITION (R186, R394): of die `die`, in KiB. -/
def execSetBasketPartition (s : State) : Out :=
  .next (
    let ok := !dieBusy s s.inp.die && decide (s.inp.die < 4) && [0, 128, 256, 384].contains (arg s 0)
    configure ok (fun s => { clearBasket (trimCaches s s.inp.die (16 - arg s 0 / 32)) s.inp.die with basket := sput 0 s.basket s.inp.die (arg s 0) }) s)

/-- SET_CONTEXT_TABLE (R394). -/
def execSetContextTable (s : State) : Out :=
  .next (configure (!dieBusy s s.inp.die && decide (s.inp.die < 4))
    (fun s => { s with ctxTable := sput 0 s.ctxTable s.inp.die s.inp.addr }) s)

/-- SET_LINK_BONDING (R394): with both links idle and every queue STOPPED. The function that results numbers its posted writes anew. -/
def execSetLinkBonding (s : State) : Out :=
  .next (configure ((s.queues.all fun q => q.2.state == .stopped) && linksIdle s)
    (fun s => { s with bonded := s.inp.f0, posted := [], postNext := 0 }) s)

/-- SET_POWER_LIMIT (R394): 1,000 W to 3,600 W. -/
def execSetPowerLimit (s : State) : Out :=
  .next (configure (decide (1000 ≤ arg s 0) && decide (arg s 0 ≤ 3600))
    (fun s => { s with handle := { s.handle with powerLimit := arg s 0 } }) s)

/-- SENSOR_READ (R7, R398): the sensors; where `key` is 1 the NACK count of slice `idx`, where it is 2 the link state of Wale port
`idx`. -/
def execSensorRead (s : State) : Out :=
  .next (mctpReply s (match s.inp.key with
    | 1 => [(sliceAt s s.inp.idx).nacks]
    | 2 => [if (portAt s s.inp.idx).up then 1 else 0, (portAt s s.inp.idx).replays]
    | _ => s.handle.temps ++ s.handle.rails))

/-- LOG_READ (R399): the entry with a number, as its fields. -/
def execLogRead (s : State) : Out :=
  .next (match s.handle.log[s.inp.idx]? with
    | some e => mctpReply s ([e.time.toNat, e.cls.toNat, e.unit.toNat, e.addr] ++ e.data.map BitVec.toNat)
    | none => mctpReply s [])

/-- The Handle in the log. -/
def handleUnit : BitVec 24 := unitOn .handle 0 0

/-- FIRMWARE_UPDATE (R400): the image goes to the slot that is not booted; `f0` says whether its signature verifies. It is logged with class 6 and
the version (R399). -/
def execFirmwareUpdate (s : State) : Out :=
  .next (
    let slot : FwSlot := ⟨s.inp.idx, s.inp.f0⟩
    let s := logEvent s 6 handleUnit 0 [s.inp.idx]
    { s with handle := if s.handle.bootedA then { s.handle with slotB := slot } else { s.handle with slotA := slot } })

/-- The version of the firmware that runs. -/
def bootedVersion (h : Handle) : Nat := if h.bootedA then h.slotA.version else h.slotB.version

/-- ATTESTATION (R7, R400): the measurements of the Handle's firmware and of the control plane's, the fuse count, the caller's nonce,
the certificate, and the signature over them. -/
def execAttestation (s : State) : Out :=
  .next (
    let body := Config.measurement (bootedVersion s.handle) ++ Config.controlMeasurement ++ bytesOf 4 s.handle.fuse ++
      s.inp.data.take 32 ++ Config.certificate
    mctpReply s ((body ++ Config.signature body).map BitVec.toNat))

/-- Memory outside the package: the host's and the Wale peers'. -/
def outerMem (m : List (Nat × Byte)) : List (Nat × Byte) := m.filter fun p => decide (hostLoc ≤ p.1)

/-- The package with all its state lost, but for the Handle's: as after bring-up, no completion words written (R405 to R408).
What is outside the package, and the events still to come, stay. -/
def lostState (s : State) (h : Handle) : State :=
  { State.reset with
    mem := outerMem s.mem
    errs := s.errs.filter fun l => decide (hostLoc ≤ l * 128)
    handle := h
    timePace := s.timePace
    free := s.free
    agenda := s.agenda }

/-- PACKAGE_RESET (R405). -/
def packageReset (s : State) : State := lostState s s.handle

/-- PACKAGE_RESET (R405). -/
def execPackageReset (s : State) : Out := .next (packageReset s)

/-- The arithmetic clock one 100 MHz step lower (R408). That it stops at 100 MHz, and that nothing but a cold reset raises it, is the
model's choice: the rule gives only the steps (R5). -/
def slower (h : Handle) : Handle := { h with clockMhz := if 100 < h.clockMhz then h.clockMhz - 100 else h.clockMhz }

/-- The power that the rails' sensors show, in watts: voltage in millivolts and current in milliamperes of each rail in turn. The rules give no
units (DESIGN CHOICE). -/
def railPower : List Nat → Nat
  | v :: i :: r => v * i / 1000000 + railPower r
  | _ => 0

/-- SENSOR_SAMPLE (R398, R408): `nums` are the 64 temperatures, then the rails' voltages and currents. The Handle raises its vector, 64, where f1: the
rules say when in no case (R388, DESIGN CHOICE). -/
def execSensorSample (s : State) : Out :=
  .next (
    let temps := (List.range 64).map fun i => arg s i
    let rails := s.inp.nums.drop 64
    let hot := temps.foldl Nat.max 0
    let s := { s with handle := { s.handle with temps := temps, rails := rails } }
    let s := if s.inp.f1 then raiseMsix s 64 else s
    if 110 ≤ hot then packageReset (logEvent s 5 handleUnit 0 [hot])
    else if 95 ≤ hot ∨ s.handle.powerLimit < railPower rails then { s with handle := slower s.handle }
    else s)

/-- A correctable error of a line corrected, written back and logged with class 1 (R401): the line's bytes are what they were. -/
def corrected (s : State) (line : Nat) : State := logEvent s 1 (sliceUnit (homeSlice line)) (paOf s (line * 128)) []

/-- SCRUB (R401, R402): a correctable error is corrected and logged with class 1; an uncorrectable one is logged with class 2 and
left. -/
def execScrub (s : State) : Out :=
  .next (
    let line := s.inp.line
    match s.inp.scrub with
    | .clean => s
    | .corrected => corrected s line
    | .uncorrectable => logEvent { s with errs := addOnce line s.errs } 2 (sliceUnit (homeSlice line)) (paOf s (line * 128)) [])

/-- Held future loads of an entry answered stale (R404). -/
def staleHeld (s : State) (slice n : Nat) : State :=
  let held := heldFlds s slice n
  let s := held.foldl (fun s g => dropFld s slice g.1 n) s
  { s with wire := s.wire ++ held.map fun g => .slath g.1 (handleBase g.2) 0 Clock4.zero true }

/-- A Slath entry lost: FREE with GEN + 1, its held loads answered stale (R404, R406). -/
def loseEntry (s : State) (slice n : Nat) : State :=
  let s := staleHeld s slice n
  putSlath s slice n (freedEntry (slathAt s slice n))

/-- A Slath entry lost to an uncorrectable error: its references are given up without the slice (R325, R404). -/
def corruptEntry (s : State) (slice n : Nat) : State :=
  let e := slathAt s slice n
  let s := if e.state = .free then s else onSlice s slice fun k => { k with lost := (n, e.gen) :: k.lost }
  loseEntry s slice n

/-- A deferred request answered NACK (R404). -/
def nackDeferred (s : State) (slice : Nat) (d : Deferred) : State :=
  let s := onSlice s slice fun k => { k with deferred := k.deferred.erase d, nacks := k.nacks + 1 }
  match d with
  | .bwait g loc ph => { s with wire := s.wire ++ [.nackBwait g loc ph 64] }
  | .fld g _ h => { s with wire := s.wire ++ [.nackFld g (handleBase h) 64] }

/-- Every task of a launch fails (R404, R406). -/
def failLaunch (s : State) (l : Launch) (err : Nat) : State :=
  (List.range (taskTotal l.image)).foldl (fun s i => if l.ended.contains i then s else failTaskOf s l i err) s

/-- A grouped launch fails as its ready-pool node is lost (R404): the block inserts no more of its nodes, those that do not run yet end as
failed, and DONE will be 2 (R285). A node has no completion word to hold ERR 162 (R285): the log has it (DESIGN CHOICE). -/
def failGrouped (s : State) (b serial num : Nat) : State :=
  let k := blockAt s b
  let s := putBlock s b { k with
    served := k.served.map fun v => if v.serial = serial then { v with serving := false, failed := true, counts := [] } else v
    nodes := k.nodes.map fun n => if n.serial = serial ∧ n.status = 0 then { n with status := 3 } else n }
  logEvent s 2 (unitOn .pool (b / 4) num) 0 [162, num]

/-- A register of a strand that now holds bad parity (R360, R401); x0 and k0 are no registers. -/
def badRegister (s : State) (gid : Nat) (f : Strand → Strand) : State :=
  if gid < 2048 then putStrand s gid (f (strandAt s gid)) else s

/-- STRUCTURE_ERROR (R360, R404): each case of R404 is logged with class 2; bad parity is met where the register is read. -/
def execStructureError (s : State) : Out :=
  .next (
    match s.inp.bad with
    | .slath slice n => logEvent (corruptEntry s slice n) 2 (sliceUnit slice) 0 [n]
    | .link slice line g =>
      logEvent (onSlice s slice fun k => { k with links := k.links.filter fun l => !(l.line == line && l.gid == g) }) 2 (sliceUnit slice)
        0 [g]
    | .deferral slice i =>
      match (sliceAt s slice).deferred[i]? with
      | some d => logEvent (nackDeferred s slice d) 2 (sliceUnit slice) 0 [i]
      | none => s
    | .poolNode die i =>
      match s.launches.find? fun l => l.nodes.contains (die, i) with
      | some l => logEvent (failLaunch s l 162) 2 (unitOn .pool die i) 0 [162, i]
      | none => s
    | .groupNode b serial num =>
      if (blockAt s b).nodes.any fun n => n.serial == serial && n.num == num && n.status == 0 then failGrouped s b serial num else s
    | .soft line => corrected s line
    | .xReg g n => badRegister s g fun t => if n % 32 = 0 then t else { t with xbad := addOnce (n % 32) t.xbad }
    | .vReg g n i => badRegister s g fun t => { t with vbad := (n % 32, i % 1024) :: t.vbad.filter fun p => p != (n % 32, i % 1024) }
    | .kReg g n i =>
      badRegister s g fun t =>
        if n % 8 = 0 then t else { t with kbad := (n % 8, i % 4096) :: t.kbad.filter fun p => p != (n % 8, i % 4096) })

/-- Whether the boot ROM accepts a slot (R400): its signature verifies, and its version is not below the fuse count. -/
def bootable (h : Handle) (f : FwSlot) : Bool := f.valid && decide (h.fuse ≤ f.version)

/-- The Handle after it boots the highest acceptable version (R400): the fuse count follows once the image reports itself good; one
that fails at boot falls back to the other slot. Where the boot ROM accepts neither slot, nothing runs. -/
def boot (h : Handle) (good : Bool) : Handle :=
  let a := bootable h h.slotA && (!bootable h h.slotB || decide (h.slotB.version ≤ h.slotA.version))
  let h := { h with bootedA := a || !bootable h h.slotB, running := bootable h h.slotA || bootable h h.slotB }
  if !h.running then h
  else if good then { h with fuse := Nat.max h.fuse (bootedVersion h) }
  else if bootable h (if h.bootedA then h.slotB else h.slotA) then { h with bootedA := !h.bootedA }
  else { h with running := false }

/-- COLD_RESET (R405, R407): everything; the firmware slots are in flash and the fuse count in fuses. `f0`: the image reports
itself good. -/
def execColdReset (s : State) : Out :=
  .next (
    let t := lostState s (boot { Handle.reset with
      slotA := s.handle.slotA, slotB := s.handle.slotB, fuse := s.handle.fuse } s.inp.f0)
    if t.handle.running && s.inp.f0 then t else logEvent t 6 handleUnit 0 [bootedVersion t.handle])

/-- A line of a reset die's HBM (R406): it keeps what was last written to HBM, its present value or one that it has had before; the rules do
not say when a line leaves the LLC for HBM, and a free number says which. -/
def lineAfterReset (die : Nat) (s : State) (line : Nat) : State :=
  let p := draw s
  let had := sget [] s.hbm line
  if homeDie line = die ∧ had.isEmpty = false then
    let s := { p.2 with hbm := sput [] p.2.hbm line [] }
    match p.1 % (had.length + 1) with
    | 0 => s
    | i + 1 => pokeBytes s (line * 128) (had.getD i [])
  else s

/-- What a slice of a reset die leaves (R406): its Slath entries FREE, its deferred requests answered NACK, the requests that it had
accepted answered as failed, its open windows' requests served alone; its cache, links and windows cleared. -/
def sliceAfterReset (s : State) (slice : Nat) : State :=
  let s := (List.range 64).foldl (fun s n => loseEntry s slice n) s
  let s := (sliceAt s slice).deferred.foldl (fun s d => nackDeferred s slice d) s
  let ws := (sliceAt s slice).windows.filter fun w => w.isOpen
  let alone := fun (s : State) (w : Window) => ((List.range 16).filter fun i => w.joined.getLsbD i).foldl
    (fun s i => multicastReply s w.line w.cluster (BitVec.ofNat 16 (2 ^ i)) false) s
  let s := ws.foldl alone s
  let k := sliceAt s slice
  let s := { s with wire := s.wire ++ ((k.requests ++ k.recalls).filter SliceReq.whole).map fun q => failedReplyTo q.strand q.line q.recNo q.typ }
  onSlice s slice fun k =>
    { k with
      cache := [], requests := [], recalls := [], links := [], windows := [], owned := [], ownerQueue := [], locks := [] }

/-- Answers on their way from a die become failed replies (R406). -/
def failReplies (die : Nat) (w : Msg) : Msg :=
  match w with
  | .readReply g l n bs f d => .readReply g l n bs (f || homeDie l == die) d
  | .writeAck g l st va sc f => .writeAck g l st va sc (f || homeDie l == die)
  | .atomicReply g loc v f => .atomicReply g loc v (f || homeDie (lineOf loc) == die)
  | .mcReply d c m l bs mc f v => .mcReply d c m l bs mc (f || homeDie l == die) v
  | w => w

/-- A launch whose nodes lie in the pool of a reset die alone: its tasks that have not started fail with the die's (R405); those of a launch with
nodes on every die are placed by the other dies' control planes still. The rule speaks of tasks on the die: that those which only wait in its pool are
among them is read from the pool's being on the die (DEDUCED). -/
def failWaiting (die : Nat) (s : State) (l : Launch) : State :=
  if nodeDies l = [die] then
    (List.range (taskTotal l.image)).foldl
      (fun s i => if l.ended.contains i || l.started.contains i then s else failUnstarted s ((launchOf s l.key).getD l) i 162) s
  else s

/-- The tasks of a die fail with ERR 162 (R405, R406). -/
def failDie (s : State) (die : Nat) : State :=
  let gone := s.copies.filter fun c => dieOf c.gid == die
  let s := gone.foldl (fun s j => j.held.foldl (fun s q => disown s (copyAgent j.gid j.tag) q.1) s) s
  let s := { s with copies := s.copies.filter fun c => dieOf c.gid != die, blocks := s.blocks.filter fun b => b.1 / 4 != die }
  let s := ((busyStrands s).filter fun g => dieOf g == die).foldl (fun s g => failTaskOn s g false 162) s
  let s := (s.suspended.filter fun c => c.ctx / 8192 == die).foldl (fun s c => failSuspended s c 162) s
  let s := ((List.range 128).map fun c => die * 128 + c).foldl redivide s
  s.launches.foldl (failWaiting die) s

/-- DIE_RESET (R405, R406). -/
def dieReset (s : State) (die : Nat) : State :=
  let s := failDie s die
  let s := (s.hbm.map Prod.fst).foldl (lineAfterReset die) s
  let s := clearBasket s die
  let s := (List.range 512).foldl (fun s i => sliceAfterReset s (die * 512 + i)) s
  let near : Nat → Bool := fun core => core / 128 == die
  let s := { s with
    replicas := s.replicas.filter fun r => !(r.die == die || homeDie r.line == die)
    updates := s.updates.filter fun u => !(u.die == die || homeDie u.line == die)
    lines := (s.lines.filter fun p => !(homeDie p.1 == die)).filterMap fun p =>
      let i := { p.2 with guests := p.2.guests &&& ~~~BitVec.ofNat 4 (2 ^ die) }
      if i = LineInfo.reset then none else some (p.1, i)
    l1 := s.l1.filter fun p => !(near p.1 || homeDie p.2 == die)
    invals := s.invals.filter fun p => !(p.1 / 8 == die || homeDie p.2 == die)
    waits := s.waits.filter fun w => !(homeDie w.line == die)
    transit := s.transit.filter fun p => p.2.1 / 192 / 8 != die
    records := s.records.filter fun r => dieOf r.gid != die
    rims := s.rims.filter fun p => !near p.1
    icache := s.icache.filter fun p => !near p.1
    robuf := s.robuf.filter fun p => !near p.1
    tlbs := s.tlbs.filter fun e => !(if e.l2 then e.core / 8 == die else near e.core)
    wire := s.wire.map (failReplies die)
    routers := s.routers.filter fun p => p.1 / 192 / 8 != die }
  logEvent s 2 (unitOn .die die 0) 0 []

/-- DIE_RESET (R406). -/
def execDieReset (s : State) : Out := .next (dieReset s (s.inp.die % 4))

/-- PCIE_D3HOT (R408): all state but the Handle's is lost. -/
def execPcieD3hot (s : State) : Out := .next { lostState s s.handle with d3hot := true }

/-- D3HOT_RESTART (R408): the device starts again from step 2 of R407. -/
def execD3hotRestart (s : State) : Out := .next (if s.d3hot then lostState s s.handle else s)

/-- CORE_CLOCK_GATE (R408): core `unit`, where no strand of it holds a task. -/
def execCoreClockGate (s : State) : Out :=
  .next (if (coreWeights s s.inp.unit).isEmpty then { s with gated := addOnce s.inp.unit s.gated } else s)

/-- WALE_FLIT_RECEIVE (R395, R396): the flit's 256 bytes `data` at port `unit`, corrected, then checked, and taken by their fields. -/
def execWaleFlitReceive (s : State) : Out :=
  .next (
    let bs := fecCorrected s.inp.data
    let w := ofBytes (bs.take 4)
    let bad := decide (crc32 (bs.take 240) ≠ BitVec.ofNat 32 (ofBytes ((bs.drop 240).take 4)))
    sendReplies s.inp.unit (receiveFlit s s.inp.unit (BitVec.ofNat 12 (bits w 0 12)) (BitVec.ofNat 12 (bits w 12 12)) (bits w 24 8)
      ((bs.drop 4).take 236) bad))

/-- WALE_REPLAY_REQUEST (R396): the sender resends from the requested sequence onward. -/
def execWaleReplayRequest (s : State) : Out :=
  .next (if (portAt s s.inp.unit).up then resendFrom s s.inp.unit (BitVec.ofNat 12 s.inp.idx) else s)

/-- WALE_PORT_RETRAIN (R396). -/
def execWalePortRetrain (s : State) : Out := .next (retrain s s.inp.unit)

/-- REMOTE_ACCESS_TIMEOUT (R396): an access of strand `gid` is not delivered within 1 ms: a scalar store (f0) becomes a pending trap of
cause 7, a copy (f1) fails on its tag, and any other finds that the window of the physical address `addr` does not answer: it raises cause 5 or
cause 7 at its element. -/
def execRemoteAccessTimeout (s : State) : Out :=
  .next (
    let g := s.inp.gid
    let t := strandAt s g
    if t.task.isNone then s
    else if s.inp.f0 then putStrand s g (addStoreTrap t 7 s.inp.va)
    else if s.inp.f1 then (copyAt s g s.inp.unit).elim s fun j => if j.outcome.isSome then s else failCopy s j false
    else (waleOf s.map s.inp.addr).elim s fun w => { s with timedOut := (g, w.base) :: (s.timedOut.filter fun p => p != (g, w.base)) })

end Sys2Proof.Machine
end

