-- ==== Sys2Proof/Machine/WeaveOps.lean ====
section
/-! DEFINITION. The Weave: nodes, ports, routes, one router's cycle, throttling, power-down, lost flits (R197 to R217, R403). A
node of a plane is numbered 16y + x on its die. The particulars of an event are in `State.inp`. -/

namespace Sys2Proof.Machine

/-- Column of a node id. -/
def nodeX (n : Nat) : Nat := n % 16
/-- Row of a node id. -/
def nodeY (n : Nat) : Nat := n / 16
/-- |a − b|. -/
def gap (a b : Nat) : Nat := (a - b) + (b - a)

/-- The column that joins a die to its horizontal neighbour (R216). -/
def edgeX (die : Nat) : Nat := if die % 2 = 0 then 15 else 0
/-- The row that joins a die to its vertical neighbour (R216). -/
def edgeY (die : Nat) : Nat := if die < 2 then 11 else 0

/-- Hops within a die. -/
def meshHops (a b : Nat) : Nat := gap (nodeX a) (nodeX b) + gap (nodeY a) (nodeY b)

/-- The least of `f 0 … f n`. -/
def leastTo (f : Nat → Nat) : Nat → Nat
  | 0 => f 0
  | n + 1 => Nat.min (leastTo f n) (f (n + 1))

/-- Hops to a node of the horizontal neighbour of a die: one bridge between equal rows (R216). -/
def hopsH (die a b : Nat) : Nat :=
  gap (nodeX a) (edgeX die) + 1 + gap (edgeX (die ^^^ 1)) (nodeX b) + gap (nodeY a) (nodeY b)

/-- Hops to a node of the vertical neighbour: one bridge between equal columns 2 to 13. -/
def hopsV (die a b : Nat) : Nat :=
  gap (nodeY a) (edgeY die) + 1 + gap (edgeY (die ^^^ 2)) (nodeY b) +
    leastTo (fun i => gap (nodeX a) (i + 2) + gap (i + 2) (nodeX b)) 11

/-- Hops of a shortest route between two nodes of a plane, each bridge counted as one (R206, R217). -/
def hops (a b : Node) : Nat :=
  if a.1 = b.1 then meshHops a.2 b.2
  else if a.1 ^^^ 1 = b.1 then hopsH a.1 a.2 b.2
  else if a.1 ^^^ 2 = b.1 then hopsV a.1 a.2 b.2
  else
    Nat.min
      (leastTo (fun y => hopsH a.1 a.2 (16 * y + edgeX (a.1 ^^^ 1)) + hopsV (a.1 ^^^ 1) (16 * y + edgeX (a.1 ^^^ 1)) b.2) 11)
      (leastTo (fun i =>
        hopsV a.1 a.2 (16 * edgeY (a.1 ^^^ 2) + (i + 2)) + hopsH (a.1 ^^^ 2) (16 * edgeY (a.1 ^^^ 2) + (i + 2)) b.2) 11)

/-- A router's four outward ports (R199); at an edge a bridge port may take the mesh port's place. -/
inductive Port where
  | north | east | south | west
  deriving DecidableEq, Repr

/-- The ports in order: the dimension of x before that of y (R207). -/
def ports : List Port := [.east, .west, .north, .south]

/-- Whether a port lies in the dimension of x. -/
def isHorizontal (p : Port) : Bool := decide (p = .east) || decide (p = .west)

/-- The node beyond a port, and whether the port is a bridge (R199, R216). -/
def beyond (n : Node) (p : Port) : Option (Node × Bool) :=
  let x := nodeX n.2
  let y := nodeY n.2
  match p with
  | .north =>
    if 0 < y then some ((n.1, n.2 - 16), false)
    else if 2 ≤ n.1 ∧ 2 ≤ x ∧ x ≤ 13 then some ((n.1 ^^^ 2, 16 * 11 + x), true)
    else none
  | .south =>
    if y < 11 then some ((n.1, n.2 + 16), false)
    else if n.1 < 2 ∧ 2 ≤ x ∧ x ≤ 13 then some ((n.1 ^^^ 2, x), true)
    else none
  | .east =>
    if x < 15 then some ((n.1, n.2 + 1), false)
    else if n.1 % 2 = 0 then some ((n.1 ^^^ 1, 16 * y), true)
    else none
  | .west =>
    if 0 < x then some ((n.1, n.2 - 1), false)
    else if n.1 % 2 = 1 then some ((n.1 ^^^ 1, 16 * y + 15), true)
    else none

/-- The nodes a flit is for (R200, R211): one, or the cores of its mask in its cluster. -/
def destsOfFlit (f : Flit) : List Node :=
  if f.mc then
    ((List.range 16).filter fun i => bits f.arg.toNat i 1 == 1).map fun i =>
      (f.ddie.toNat, nodeOfCore (f.dnode.toNat % 8 * 16 + i))
  else [(f.ddie.toNat, f.dnode.toNat)]

/-- Bits [111:0] of a flit's header (R200); the reserved bits are 0. -/
def headerOf (f : Flit) : Nat :=
  f.typ.toNat + (if f.mc then 2 ^ 4 else 0) + f.nf.toNat * 2 ^ 5 + f.fi.toNat * 2 ^ 7 + f.ddie.toNat * 2 ^ 9 +
    f.dnode.toNat * 2 ^ 11 + f.sdie.toNat * 2 ^ 19 + f.snode.toNat * 2 ^ 21 + f.strand.toNat * 2 ^ 29 + f.recNo.toNat * 2 ^ 31 +
    f.age.toNat * 2 ^ 36 + f.seq.toNat * 2 ^ 44 + f.arg.toNat * 2 ^ 60

/-- The CRC of a flit (R200). -/
def crcOf (f : Flit) : BitVec 16 := Config.crc16 (headerOf f) f.payload

/-- A flit with its CRC computed (R200). -/
def sealFlit (f : Flit) : Flit := { f with crc := crcOf f }

/-- Whether a flit passes its check at ejection (R200, R403). -/
def crcOk (f : Flit) : Bool := f.crc == crcOf f

/-- A flit with some of its destinations (R207): only the mask differs, and with it the CRC. -/
def withDests (f : Flit) (ds : List Node) : Flit :=
  if f.mc then
    sealFlit { f with arg := BitVec.ofNat 49 (f.arg.toNat / 2 ^ 16 * 2 ^ 16 + (((List.range 16).filter fun i =>
        bits f.arg.toNat i 1 == 1 && ds.contains (f.ddie.toNat, nodeOfCore (f.dnode.toNat % 8 * 16 + i))).map fun i => 2 ^ i).sum) }
  else f

/-- Whether a port is productive for a destination: its next node lies on a shortest route (R206). -/
def productive (n : Node) (p : Port) (d : Node) : Bool :=
  match beyond n p with
  | some (m, _) => hops m d + 1 == hops n d
  | none => false

/-- Whether flit `a` ranks before flit `b` (R206). -/
def flitBefore (a b : Flit) : Bool :=
  let sa := a.sdie.toNat * 192 + a.snode.toNat
  let sb := b.sdie.toNat * 192 + b.snode.toNat
  if a.age != b.age then decide (b.age.toNat < a.age.toNat)
  else if sa != sb then decide (sa < sb)
  else if a.seq != b.seq then decide (a.seq.toNat < b.seq.toNat)
  else decide (a.arg.toNat % 2 ^ 16 < b.arg.toNat % 2 ^ 16)

/-- A flit put in its place among ranked flits. -/
def insertFlit (f : Flit) : List Flit → List Flit
  | [] => [f]
  | g :: r => if flitBefore f g then f :: g :: r else g :: insertFlit f r

/-- Flits in rank order (R206). -/
def rankFlits (fs : List Flit) : List Flit := fs.foldr insertFlit []

/-- Remaining distance in each dimension over the package (R207). -/
def remaining (a b : Node) : Nat × Nat :=
  (gap (a.1 % 2 * 16 + nodeX a.2) (b.1 % 2 * 16 + nodeX b.2), gap (a.1 / 2 * 12 + nodeY a.2) (b.1 / 2 * 12 + nodeY b.2))

/-- How many of some destinations a port is productive for. -/
def gain (n : Node) (ds : List Node) (p : Port) : Nat := (ds.filter (productive n p)).length

/-- The ports in the order in which a flit prefers them (R207): the dimension with the larger remaining distance to a destination, then
x. Which destination of a multicast flit the distance is taken to, and which of two opposite ports comes first, the rule leaves
open: a free number says. -/
def portOrder (n : Node) (ds : List Node) (pick : Nat) : List Port :=
  let r := remaining n (ds.getD (pick / 2 % (ds.length + 1)) (ds.headD n))
  let all := if pick % 2 = 0 then ports else [.west, .east, .south, .north]
  if r.1 < r.2 then all.filter (fun p => !isHorizontal p) ++ all.filter isHorizontal else all

/-- The free port productive for the most destinations, in the order of preference (R207). -/
def bestPort (n : Node) (ds : List Node) (free : List Port) (pick : Nat) : Option Port :=
  ((portOrder n ds pick).filter fun p => free.contains p && decide (0 < gain n ds p)).foldl (fun acc p =>
    match acc with
    | none => some p
    | some q => if gain n ds q < gain n ds p then some p else some q) none

/-- Whether a port of a node is a bridge port (R216). -/
def isBridge (n : Node) (p : Port) : Bool := (beyond n p).any fun q => q.2

/-- The ports that a deflected flit may take (R207, R216): the free mesh ports, or where there is none the bridge port. -/
def deflections (n : Node) (free : List Port) : List Port :=
  let mesh := free.filter fun p => !isBridge n p
  if mesh.isEmpty then free else mesh

/-- The element of a list that a free number names. -/
def pickOf {α : Type} (xs : List α) (pick : Nat) : Option α := xs[pick % (xs.length + 1)]? <|> xs.head?

/-- The port a flit takes (R207): a productive one, else one at the router's choice. -/
def portFor (n : Node) (ds : List Node) (free : List Port) (pick : Nat) : Option Port :=
  bestPort n ds free pick <|> pickOf (deflections n free) pick

/-- Flits in rank order with their ports, and the ports still free. Each link brings one flit a cycle (R199), so that each flit finds
a port; in a state where more have come, one without a port stays. -/
def assignPorts (n : Node) (pick : Nat → Nat) : List Flit → List Port → List (Flit × Option Port) × List Port
  | [], free => ([], free)
  | f :: r, free =>
    let p := portFor n (destsOfFlit f) free (pick r.length)
    let rest := assignPorts n pick r (match p with
      | some q => free.erase q
      | none => free)
    ((f, p) :: rest.1, rest.2)

/-- Distinct destinations, one for each port of a list, each productive for its port. -/
def oneEach (n : Node) : List Port → List Node → Option (List (Port × Node))
  | [], _ => some []
  | p :: ps, ds => ds.findSome? fun d =>
      if productive n p d then (oneEach n ps (ds.erase d)).map fun r => (p, d) :: r else none

/-- A spread of destinations over as many ports as can be, among those given, with one destination for each (R207); where several
use equally many ports, a free number says which. -/
def spreadPorts (n : Node) (ds : List Node) (ps : List Port) (pick : Nat) : List (Port × Node) :=
  let all := ps.sublists.filterMap fun q => oneEach n q ds
  let most := (all.map List.length).foldl Nat.max 0
  (pickOf (all.filter fun q => q.length == most) pick).getD []

/-- The copies of a multicast flit over its own port and the free ones (R207): each destination on a port productive for it, at the
router's choice where several are; the remainder stays on its own port, or goes as one copy on one free port, a bridge port only
where no mesh port is free (R216). -/
def forkFlit (n : Node) (f : Flit) (own : Port) (free : List Port) (pick : Nat) : List (Flit × Port) :=
  let ds := destsOfFlit f
  let base := spreadPorts n ds (own :: free) pick
  let used := base.map Prod.fst
  let home : Node → Option Port := fun d =>
    match base.find? fun q => q.2 == d with
    | some q => some q.1
    | none => pickOf (used.filter fun p => productive n p d) (pick + d.2)
  let copies := used.map fun p => (withDests f (ds.filter fun d => home d == some p), p)
  let rest := ds.filter fun d => (home d).isNone
  if rest.isEmpty then copies
  else
    let p := (pickOf (own :: deflections n (free.filter fun p => !used.contains p)) pick).getD own
    if used.contains p then copies.map fun c => if c.2 = p then (withDests f (destsOfFlit c.1 ++ rest), p) else c
    else copies ++ [(withDests f rest, p)]

/-- Every assigned multicast flit forked, in rank order. -/
def forkAll (n : Node) (pick : Nat → Nat) : List (Flit × Port) → List Port → List (Flit × Port) × List Port
  | [], free => ([], free)
  | (f, p) :: r, free =>
    let out := if f.mc then forkFlit n f p free (pick r.length) else [(f, p)]
    let rest := forkAll n pick r (free.filter fun q => !(out.any fun c => c.2 == q))
    (out ++ rest.1, rest.2)

/-- A flit after a hop: AGE, saturating, and the CRC are rewritten (R200, R206, R216). -/
def aged (bridge : Bool) (f : Flit) : Flit :=
  sealFlit { f with age := BitVec.ofNat 8 (Nat.min 255 (f.age.toNat + if bridge then 144 else 1)) }

/-- A flit placed on a port arrives at the node beyond, whose router it wakes: in the next cycle, or over a bridge 144 cycles after it was
placed (R199, R215, R216). -/
def place (plane now : Nat) (n : Node) (s : State) (c : Flit × Port) : State :=
  match beyond n c.2 with
  | none => s
  | some (m, bridge) =>
    let k := routerNo m.1 plane m.2
    if bridge then { s with transit := s.transit ++ [(now + 144, (k, aged bridge c.1))] }
    else putRouter s k { routerAt s k with arriving := (routerAt s k).arriving ++ [aged bridge c.1], down := false }

/-- The flits on a plane's bridges whose transit is over arrive at their routers (R216). -/
def bridgeArrivals (s : State) (plane now : Nat) : State :=
  let due : Nat × (Nat × Flit) → Bool := fun p => p.2.1 / 192 % 8 == plane && decide (p.1 ≤ now)
  (s.transit.filter due).foldl (fun s p =>
    putRouter s p.2.1 { routerAt s p.2.1 with arriving := (routerAt s p.2.1).arriving ++ [p.2.2], down := false })
    { s with transit := s.transit.filter fun p => !due p }

/-- The slice of a plane at a node, where one stands there (R197). -/
def sliceOfNode (plane : Nat) (n : Node) : Option Nat :=
  if 4 ≤ nodeY n.2 ∧ nodeY n.2 < 8 then some (n.1 * 512 + 64 * plane + (16 * (nodeY n.2 - 4) + nodeX n.2)) else none

/-- The node of a slice in its column's plane (R197). -/
def nodeOfSlice (slice : Nat) : Node := (slice / 512, 16 * (4 + slice % 64 / 16) + slice % 16)

/-- The classes of replies that a record takes (R201, R203). -/
def isReply (typ : BitVec 4) : Bool := [1, 3, 5, 15].contains typ.toNat

/-- Whether a request in a slice's queue is the message of a flit. -/
def sameMessage (f : Flit) (q : SliceReq) : Bool :=
  q.src == (sourceOf f).1 * 192 + (sourceOf f).2 && q.typ == f.typ.toNat && q.recNo == f.recNo.toNat &&
    q.strand % 4 == f.strand.toNat && q.nf == f.nf.toNat && !q.whole

/-- Whether a node has room for a flit (R204): a slice takes the first flit of a request only while one of its 128 entries is free. -/
def hasRoom (s : State) (plane : Nat) (n : Node) (f : Flit) : Bool :=
  match sliceOfNode plane n with
  | some sl =>
    !isRequest f.typ || (sliceAt s sl).requests.any (sameMessage f) || decide ((sliceAt s sl).requests.length < 128)
  | none => true

/-- The line that a request's ARG names (R200): of device memory, or of what lies beyond it. -/
def argLine (s : State) (f : Flit) : Option Nat := (locOf s (f.arg.toNat * 128)).map lineOf

/-- Half `fi` of a line replaced by a flit's payload (R202). -/
def putHalf (bs : List Byte) (fi : Nat) (payload : List Byte) : List Byte :=
  (List.range 128).map fun i => if i / 64 = fi then payload.getD (i % 64) 0 else bs.getD i 0

/-- The clock in a write's tail flit: four 48-bit counters in bytes 16 to 39 (R202). -/
def tailClock (payload : List Byte) : Clock4 :=
  let c := fun i => BitVec.ofNat 48 (ofBytes ((payload.drop (16 + 6 * i)).take 6))
  ⟨c 0, c 1, c 2, c 3⟩

/-- The payload of a write's tail flit (R202). -/
def tailOf (mask : BitVec 128) (v : Clock4) : List Byte :=
  bytesOf 16 mask.toNat ++ bytesOf 6 v.c0.toNat ++ bytesOf 6 v.c1.toNat ++ bytesOf 6 v.c2.toNat ++ bytesOf 6 v.c3.toNat ++ bytesOf 24 0

/-- A message in a slice's queue with one more of its flits (R202, R204). -/
def SliceReq.take (q : SliceReq) (f : Flit) : SliceReq :=
  let q := { q with got := q.got ||| BitVec.ofNat 3 (2 ^ f.fi.toNat) }
  if f.typ = 2 ∧ f.fi = 2 then { q with mask := BitVec.ofNat 128 (ofBytes (f.payload.take 16)), clock := tailClock f.payload }
  else if f.typ = 2 then { q with payload := putHalf q.payload f.fi.toNat f.payload }
  else { q with payload := f.payload }

/-- A request's flit taken into a slice's queue (R204): into its message's entry, or a new one; a whole message for an owned line
moves to the recall list. -/
def queueFlit (s : State) (sl : Nat) (f : Flit) : State :=
  let k := sliceAt s sl
  let q0 := (k.requests.find? (sameMessage f)).getD
    { src := (sourceOf f).1 * 192 + (sourceOf f).2, seq := f.seq.toNat, typ := f.typ.toNat, line := (argLine s f).getD 0
      strand := (strandOfFlit (sourceOf f) f.strand).getD 0, recNo := f.recNo.toNat, got := 0, nf := f.nf.toNat
      payload := [], mask := 0, clock := Clock4.zero }
  let q := q0.take f
  let rest := k.requests.erase q0
  if q.whole && k.owned.any fun p => p.1 == q.line then
    onSlice s sl fun k => { k with requests := rest, recalls := k.recalls ++ [q] }
  else onSlice s sl fun k => { k with requests := rest ++ [q] }

/-- A flit of a multicast reply lands in the records of its line at a core (R202, R211); one for a record whose context is LOST is discarded
and logged (R355). -/
def landCopy (s : State) (plane core : Nat) (f : Flit) : State :=
  let mine : Record → Bool := fun r =>
    r.multicast && coreOf r.gid == core && r.plane == plane && r.recNo == f.recNo.toNat && !r.delivered
  let s := if s.records.any fun r => mine r && r.dead then logEvent s 2 (strandUnit (core * 4)) 0 [15] else s
  { s with records := s.records.map fun r =>
      if mine r && !r.dead then
        let got := r.got ||| BitVec.ofNat 3 (2 ^ (f.fi.toNat % 2))
        { r with got := got, bytes := putHalf r.bytes f.fi.toNat f.payload, delivered := decide (got = 3) }
      else r }

/-- The unicast record of a core's port that a reply's flit selects (R203). -/
def recordOfFlit (s : State) (plane : Nat) (n : Node) (f : Flit) : Option Record :=
  (strandOfFlit n f.strand).bind fun g =>
    s.records.find? fun r => !r.multicast && r.gid == g && r.plane == plane && r.recNo == f.recNo.toNat

/-- The location of the word that an atomic reply on the wire answers, for a strand and a line. -/
def atomicLoc (s : State) (gid line : Nat) : Option Nat :=
  s.wire.findSome? fun w => match w with
    | .atomicReply g loc _ _ => if g = gid ∧ lineOf loc = line then some loc else none
    | _ => none

/-- The line whose address a flit's payload bytes 0 to 7 hold (R201). -/
def payloadLine (s : State) (f : Flit) : Nat := lineOf ((locOf s (ofBytes (f.payload.take 8))).getD 0)

/-- A synchronisation answer reaches its strand's port (R201): its record is free; the instruction that waits takes the answer. -/
def landSync (s : State) (r : Record) : State := (landFlit s r 0 []).1

/-- A push flit at the core where it ejects (R201, R264): a request is granted where it can be; data arrives; a grant has come already. -/
def landPush (s : State) (from_ dest : Nat) : State :=
  match s.wire.findSome? fun w => match w with
      | .pushAsk g peer _ _ _ => if coreOf g = from_ ∧ coreOf peer = dest then some (g, true) else none
      | .pushGrant g peer _ _ _ _ => if coreOf g = from_ ∧ coreOf peer = dest then some (g, false) else none
      | _ => none with
  | some (g, true) => asStrand g pushGrant s
  | some (g, false) => asStrand g pushData s
  | none => s

/-- The update of a line at the head of what is on its way to a die (R244). -/
def firstUpdate (s : State) (die line : Nat) : Option Update := s.updates.find? fun u => u.die == die && u.line == line

/-- A replica update at its guest slice (R244): applied where the frontier allows it, else it waits there. -/
def landUpdate (s : State) (die line : Nat) : State :=
  match firstUpdate s die line with
  | some u => if mayApply s u then applyUpdate { s with updates := s.updates.erase u } u else s
  | none => s

/-- What a flit does at the node where it ejects, by its class (R201): a reply goes to its record, a request into the slice's queue, an
invalidation to the core's scalar L1 (R183, R211) and its acknowledgement to the slice, an update to the replica; what is for no one there
is left. -/
def landAt (s : State) (plane : Nat) (n : Node) (f : Flit) : State :=
  let keep : State := putRouter s (routerNo n.1 plane n.2)
    { routerAt s (routerNo n.1 plane n.2) with ejected := (routerAt s (routerNo n.1 plane n.2)).ejected ++ [f] }
  let record := recordOfFlit s plane n f
  match sliceOfNode plane n, coreOfNode n with
  | some sl, _ =>
    if isRequest f.typ then queueFlit s sl f
    else
      match f.typ.toNat with
      | 7 => ackInval s (f.sdie.toNat * 8 + clusterOfCore (((coreOfNode (sourceOf f)).getD 0) % 128)) (payloadLine s f)
      | 12 => landUpdate s n.1 (payloadLine s f)
      | _ => keep
  | none, some core =>
    match f.typ.toNat with
    | 1 => record.elim s fun r => landReply s r f.fi.toNat
    | 3 => record.elim s fun r => landAck s r.gid r.line
    | 5 => record.elim s fun r => (atomicLoc s r.gid r.line).elim s (landAtomic s r.gid)
    | 15 => landCopy s plane core f
    | 6 =>
      let gone := invalTargets s (clusterOfCore core) (payloadLine s f)
      { s with l1 := s.l1.filter fun p => !(p.1 == core && gone.contains p) }
    | 9 => record.elim s fun r => (s.wire.findSome? fun w => match w with
        | .ownerGrant a l => if a / 64 = r.gid ∧ l = r.line then some a else none
        | _ => none).elim s fun a => landGrant s a r.line
    | 10 => record.elim s (landSync s)
    | 11 => landPush s ((coreOfNode (sourceOf f)).getD 0) core
    | _ => keep
  | none, none => keep

/-- Records of a plane of a die marked as LOSS rises (R403). -/
def markRecords (s : State) (die plane : Nat) : State :=
  { s with records := s.records.map fun r =>
      if dieOf r.gid = die ∧ r.plane = plane then { r with marked := some (r.marked.getD (sget 0 s.planes plane)) } else r }

/-- The failed reply that a slice gives to a request whose flit fails its check (R403), by its class. -/
def failedReply (s : State) (f : Flit) : Option Msg :=
  (strandOfFlit (sourceOf f) f.strand).map fun g => failedReplyTo g ((argLine s f).getD 0) f.recNo.toNat f.typ.toNat

/-- Whether a record awaits a reply's flit at a node (R203, R211): a unicast one by its strand and number, a multicast one by its number. -/
def awaits (s : State) (plane : Nat) (n : Node) (f : Flit) (r : Record) : Bool :=
  if f.typ = 15 then
    r.multicast && (coreOfNode n).any (fun c => coreOf r.gid == c) && r.plane == plane && r.recNo == f.recNo.toNat && !r.delivered
  else recordOfFlit s plane n f == some r

/-- A flit whose CRC fails at ejection (R403): a reply's record is delivered as failed; a request is answered with a failed
reply; any other is dropped and logged. The node raises LOSS. -/
def dropFlit (s : State) (plane : Nat) (n : Node) (f : Flit) : State :=
  let k := routerNo n.1 plane n.2
  let s := putRouter s k { routerAt s k with loss := true }
  let s :=
    if isReply f.typ && s.records.any (awaits s plane n f) then
      landAt { s with records := s.records.map fun q => if awaits s plane n f q then { q with failed := true } else q } plane n f
    else
      match (if isRequest f.typ then failedReply s f else none) with
      | some m => { s with wire := s.wire ++ [m] }
      | none => logEvent s 2 (unitOn .router n.1 (k % 1536)) 0 [f.typ.toNat]
  markRecords s n.1 plane

/-- A flit ejected at a node: checked, then taken or dropped (R200, R403). -/
def ejectFlit (plane : Nat) (s : State) (c : Node × Flit) : State :=
  if crcOk c.2 then landAt s plane c.1 c.2 else dropFlit s plane c.1 c.2

/-- Whether the throttle lets a node inject in a cycle: at most one flit in any k consecutive cycles (R213). -/
def mayInject (now : Nat) (r : Router) : Bool := decide (r.injected + r.k ≤ now + 1)

/-- A node's flits in flight in a plane (R200): every copy of a multicast flit counts, which the rule leaves open (DESIGN CHOICE). -/
def flitsOf (s : State) (plane : Nat) (n : Node) : List Flit :=
  ((s.routers.filter fun p => p.1 / 192 % 8 == plane).flatMap fun p => p.2.arriving.filter fun f => sourceOf f == n) ++
    (s.transit.filter fun p => p.2.1 / 192 % 8 == plane && sourceOf p.2.2 == n).map fun p => p.2.2

/-- How many they are. -/
def inFlight (s : State) (plane : Nat) (n : Node) : Nat := (flitsOf s plane n).length

/-- The next sequence number of a node that none of its flits in flight carries (R200), from a number on. -/
def nextSeq (used : List (BitVec 16)) (from_ : BitVec 16) : BitVec 16 :=
  ((firstTo (fun i => !used.contains (from_ + BitVec.ofNat 16 i)) 32768).map fun i => from_ + BitVec.ofNat 16 i).getD from_

/-- The flit that a node injects next (R219): the first that is not the start of a request of a strand whose port is stopped. -/
def nextFlit (s : State) (r : Router) : Option Flit :=
  r.inject.find? fun f => !((requester f).any fun g => f.fi == 0 && portStopped s g)

/-- The port on which a node injects its next flit: a free one that is productive for it (R207), while fewer than 32,768 of its flits
are in flight (R200). -/
def injectPort (s : State) (plane now : Nat) (n : Node) (r : Router) (free : List Port) (pick : Nat) : Option (Flit × Port) :=
  (nextFlit s r).bind fun f =>
    if mayInject now r && decide (inFlight s plane n < 32768) then
      (bestPort n (destsOfFlit f) free pick).map fun p =>
        (sealFlit { f with age := 0, seq := nextSeq ((flitsOf s plane n).map fun g => g.seq) r.seq }, p)
    else none

/-- The injection interval after a window (R213). -/
def nextInterval (r : Router) : Nat := if 64 ≤ r.d then Nat.min (2 * r.k) 64 else if r.d < 16 then Nat.max (r.k / 2) 1 else r.k

/-- A router whose window of 256 cycles is over begins the next (R213). The windows begin at multiples of 256 of the plane's cycle: the rule
does not give their phase (DESIGN CHOICE). -/
def endWindow (now : Nat) (r : Router) : Router :=
  if r.since + 256 ≤ now then { r with k := nextInterval r, d := 0, loss := false, since := now / 256 * 256 } else r

/-- What one router does in a cycle: itself after it, the flits it places, and the flit it ejects. -/
structure Cycled where
  router : Router
  placed : List (Flit × Port)
  ejects : List Flit

/-- One cycle of a router (R207, R213, R215); a flit on its way to the local port may be damaged on its last link. That a cycle
which only ejects a flit counts as one that places none (R215) is the model's choice: the rule names placing alone. -/
def routerCycle (s : State) (plane now : Nat) (pick : Nat → Nat) (damaged : Bool) (n : Node) : Cycled :=
  let r := endWindow now (routerAt s (routerNo n.1 plane n.2))
  let ranked := rankFlits r.arriving
  let e := ranked.find? fun f => (destsOfFlit f).contains n && hasRoom s plane n f
  let left := ranked.filterMap fun f =>
    if some f = e then
      (let ds := (destsOfFlit f).filter fun d => d != n
       if ds.isEmpty then none else some (withDests f ds))
    else some f
  let free := ports.filter fun q => (beyond n q).isSome
  let a := assignPorts n pick left free
  let forked := forkAll n (fun i => pick (i + 8)) (a.1.filterMap fun c => c.2.map fun q => (c.1, q)) a.2
  let inj := injectPort s plane now n r forked.2 (pick 16)
  let injected := match inj with
    | some (f, q) => if f.mc then forkFlit n f q (forked.2.erase q) (pick 17) else [(f, q)]
    | none => []
  let all := forked.1 ++ injected
  let bent := (all.filter fun c => gain n (destsOfFlit c.1) c.2 < (destsOfFlit c.1).length).length
  { router := { r with
      arriving := a.1.filterMap fun c => if c.2.isNone then some c.1 else none
      inject := if inj.isSome then (nextFlit s r).elim r.inject r.inject.erase else r.inject
      seq := (inj.map fun c => c.1.seq + 1).getD r.seq
      d := r.d + bent
      injected := if inj.isSome then now + 1 else r.injected
      idleFrom := if all.isEmpty && r.inject.isEmpty then r.idleFrom else now + 1 }
    placed := all
    ejects := e.toList.map fun f => let g := withDests f [n]; if damaged then { g with crc := ~~~crcOf g } else g }

/-- The nodes of a plane whose routers are awake and have a flit, or a window or an interval to keep. -/
def planeNodes (s : State) (plane : Nat) : List Node :=
  (s.routers.filter fun p => p.1 / 192 % 8 == plane && !p.2.down).map fun p => (p.1 / 1536, p.1 % 192)

/-- One Weave cycle of a plane, over every die (R207): every router proceeds from what has arrived; then the flits placed arrive at
their neighbours, and those ejected are taken. The flit that ejects at `noisy` is damaged on the way. -/
def planeCycle (s : State) (plane : Nat) (noisy : Option Node) : State :=
  let now := sget 0 s.planes plane
  let s := bridgeArrivals s plane now
  let d := drawFam s
  let cs := (planeNodes s plane).map fun n =>
    (n, routerCycle s plane now (fun i => d.1 (32 * routerNo n.1 plane n.2 + i)) (noisy == some n) n)
  let t := { d.2 with planes := sput 0 s.planes plane (now + 1) }
  let t := cs.foldl (fun t c => putRouter t (routerNo c.1.1 plane c.1.2) c.2.router) t
  let t := cs.foldl (fun t c => c.2.placed.foldl (place plane now c.1) t) t
  (cs.flatMap fun c => c.2.ejects.map fun f => (c.1, f)).foldl (ejectFlit plane) t

/-- The node to which a request for a physical line address goes (R180, R197, R244): the slice that serves the line in the source's
die, or its home; for the host and a Wale window the slice of the source's own die. -/
def requestNodes (s : State) (plane : Nat) (n : Node) (pa : Nat) : List Node :=
  match locOf s pa with
  | none => []
  | some loc =>
    let sl := if isDevice loc then [homeSlice (lineOf loc), servingSlice s n.1 (lineOf loc)] else [sliceOn n.1 pa]
    (sl.filter fun k => k % 512 / 64 == plane).map nodeOfSlice

/-- Whether a flit of the same message and index is in a node's port or in the plane already. -/
def flitPresent (s : State) (plane : Nat) (n : Node) (f : Flit) : Bool :=
  let same : Flit → Bool := fun g => g.typ == f.typ && g.fi == f.fi && g.ddie == f.ddie && g.dnode == f.dnode && g.strand == f.strand &&
    g.recNo == f.recNo && g.payload == f.payload
  (routerAt s (routerNo n.1 plane n.2)).inject.any same || (flitsOf s plane n).any same

/-- Whether a slice's node sends what concerns a line: its home's node, or that of the guest slice that serves the line (R197, R244). -/
def lineNode (s : State) (plane : Nat) (n : Node) (line : Nat) : Bool :=
  planeOf line == plane && (nodeOfSlice (homeSlice line) == n || nodeOfSlice (servingSlice s n.1 line) == n)

/-- The slice and the record's line of the synchronisation request at the head of a strand's queue (R201, R310): a barrier's home and line,
or a Slath entry's slice, whose record stands for no line. -/
def syncTarget (s : State) (gid : Nat) : Option (Nat × Nat) :=
  let f := focusOn s gid
  let claim := fun sl : Nat => (sl, 2 ^ 72 + sl)
  match f.t.queue with
  | [] => none
  | e :: _ =>
    let barrier := fun acc => ((barrierLoc (ctxOfEntry f e) { f with t := { f.t with replay := some e } } acc).toOption).map fun loc =>
      (homeSlice (lineOf loc), lineOf loc)
    if e.done then none
    else
      match e.instr with
      | .vmBwait _ _ _ => barrier .read
      | .vmFenceb _ _ _ => barrier .write
      | .vxClaim _ _ _ => some (claim (slathSlice e.xa e.xb))
      | .vxFulfil _ _ | .vxAbandon _ | .vxFld _ _ | .vxFprobe _ _ | .vxRelease _ => some (claim (handleSlice e.xa))
      | _ => none

/-- Whether an answer of a slice's synchronisation to a strand is on the wire (R201). -/
def syncAnswer (s : State) (gid : Nat) : Bool :=
  s.wire.any fun w => match w with
    | .phase g _ _ _ | .slath g _ _ _ _ | .nackBwait g _ _ _ | .nackFld g _ _ => g == gid
    | _ => false

/-- Whether a reply's flit belongs to a message on the wire and comes from the slice that sends it, on its line's plane (R197, R201, R202). -/
def replyOnWire (s : State) (plane : Nat) (n : Node) (f : Flit) : Bool :=
  let dest : Node := (f.ddie.toNat, f.dnode.toNat)
  let record := (recordOfFlit s plane dest f).filter fun r => decide (2 ^ 72 ≤ r.line) || lineNode s plane n r.line
  let cluster := f.ddie.toNat * 8 + f.dnode.toNat % 8
  match f.typ.toNat with
  | 1 => f.nf == 1 && record.any fun r => (replyOf s r).any fun p => f.payload == (p.1.drop (64 * f.fi.toNat)).take 64
  | 3 => f.nf == 0 && record.any fun r => s.wire.any fun w => match w with
      | .writeAck g l st _ _ _ => g == r.gid && l == r.line && f.arg.toNat % 2 ^ 32 == st.toNat
      | _ => false
  | 5 => f.nf == 0 && record.any fun r => (atomicLoc s r.gid r.line).isSome
  | 6 =>
    let line := payloadLine s f
    f.mc && f.nf == 0 && lineNode s plane n line && s.invals.contains (cluster, line) &&
      f.arg.toNat % 2 ^ 16 == (((invalTargets s cluster line).map fun p => 2 ^ (p.1 % 16)).sum)
  | 7 =>
    let line := payloadLine s f
    f.nf == 0 && (coreOfNode n).any fun c => s.invals.contains (clusterOfCore c, line) && planeOf line == plane &&
      dest == nodeOfSlice (homeSlice line)
  | 9 => f.nf == 0 && record.any fun r => s.wire.any fun w => match w with
      | .ownerGrant a l => a / 64 == r.gid && l == r.line
      | _ => false
  | 10 => f.nf == 0 && record.any fun r => syncAnswer s r.gid &&
      (decide (r.line < 2 ^ 72) || nodeOfSlice (r.line % 2 ^ 72) == n)
  | 11 => (coreOfNode n).any fun a => (coreOfNode dest).any fun b => s.wire.any fun w => match w with
      | .pushAsk g peer _ _ _ => coreOf g == a && coreOf peer == b
      | .pushGrant g peer _ _ _ _ => (coreOf g == a && coreOf peer == b) || (coreOf g == b && coreOf peer == a)
      | _ => false
  | 12 =>
    let line := payloadLine s f
    nodeOfSlice (homeSlice line) == n && planeOf line == plane && (firstUpdate s dest.1 line).isSome && dest.2 == n.2
  | 15 => s.wire.any fun w => match w with
      | .mcReply d c m l bs mc _ _ =>
        d == dest.1 && f.mc == mc && f.nf == 1 && planeOf l == plane && nodeOfSlice (homeSlice l) == n && l % 32 == f.recNo.toNat &&
          f.payload == (bs.drop (64 * f.fi.toNat)).take 64 &&
          (if mc then c == cluster && f.arg.toNat % 2 ^ 16 == m.toNat
           else (coreOfNode dest).any fun core => clusterOfCore core == c && m.getLsbD (core % 16))
      | _ => false
  | _ => false

/-- Whether a request's flit is in form for its class (R202): a write has two flits, or three with its tail; the tail carries the die's clock
where the writer's die is not the line's, and a mask of some bytes where it is. Every other request has one. -/
def requestForm (s : State) (n : Node) (f : Flit) : Bool :=
  let line := (argLine s f).getD 0
  if f.typ = 2 ∧ isDevice (line * 128) = true then
    (f.nf == 1 && decide (homeDie line = n.1)) ||
      (f.nf == 2 && (f.fi != 2 || (f.payload == tailOf (BitVec.ofNat 128 (ofBytes (f.payload.take 16))) (writeClock s n.1) &&
        (decide (homeDie line ≠ n.1) || decide (BitVec.ofNat 128 (ofBytes (f.payload.take 16)) ≠ BitVec.allOnes 128)))))
  else f.nf == 0 || f.typ == 13

/-- Whether a core's flit is a request that its strand may make (R194, R197, R203): a line's to a slice that serves it on this plane, a copy's
for the ownership of the line that it writes next, or a synchronisation's to its slice. -/
def requestOk (s : State) (plane : Nat) (n : Node) (f : Flit) : Bool :=
  let dest : Node := (f.ddie.toNat, f.dnode.toNat)
  let atLine := (requestNodes s plane n (f.arg.toNat * 128)).contains dest
  !f.mc && requestForm s n f && (strandOfFlit n f.strand).any fun g =>
    match f.typ.toNat with
    | 8 => atLine && ((copyRunning s (copyAgent g ((f.payload.headD 0).toNat % 64))).bind (nextLine s)) == argLine s f
    | 10 => (syncTarget s g).any fun p => p.1 % 512 / 64 == plane && nodeOfSlice p.1 == dest
    | 14 => atLine && (argLine s f).any fun l => headWants s g l && BitVec.ofNat 16 (ofBytes (f.payload.take 2)) == headMask s g
    | _ => atLine

/-- Whether a node may want to inject a flit (R197, R200 to R203): its fields are in form; a request is one that its strand may make; a
reply, an invalidation or another message of a slice or a core is one that is on its way. -/
def flitOk (s : State) (plane : Nat) (n : Node) (f : Flit) : Bool :=
  decide (f.nf ≠ 3) && decide (f.fi.toNat ≤ f.nf.toNat) && decide (f.payload.length = 64) &&
    (f.mc || decide (f.dnode.toNat < 192)) && (!f.mc || decide (f.dnode.toNat < 8)) && !flitPresent s plane n f &&
    (if isRequest f.typ && (coreOfNode n).isSome then requestOk s plane n f else replyOnWire s plane n f)

/-- Flits of the reply to a request, less one (R202). -/
def replyNf (typ : BitVec 4) : Nat := if typ = 0 then 1 else 0

/-- A request's flit with its record (R203): the first flit reserves one, and the later ones name it; `none` where the port may not
inject the request now. -/
def withRecord (s : State) (plane gid line : Nat) (f : Flit) : Option (State × Flit) :=
  if f.fi = 0 then
    (reserve s gid plane line (replyNf f.typ) s.inp.f0).map fun p => (p.1, { f with recNo := BitVec.ofNat 5 p.2 })
  else
    (s.records.find? fun r => !r.multicast && r.gid == gid && r.plane == plane && r.line == line).map fun r =>
      (s, { f with recNo := BitVec.ofNat 5 r.recNo })

/-- A flit from an event's numbers and data (R200): what the node wants to inject. -/
def flitOf (i : Input) (n : Node) : Option Flit :=
  match i.nums with
  | [typ, mc, nf, fi, ddie, dnode, strand, recNo, arg] =>
    some ⟨BitVec.ofNat 4 typ, mc == 1, BitVec.ofNat 2 nf, BitVec.ofNat 2 fi, BitVec.ofNat 2 ddie, BitVec.ofNat 8 dnode,
      BitVec.ofNat 2 n.1, BitVec.ofNat 8 n.2, BitVec.ofNat 2 strand, BitVec.ofNat 5 recNo, 0, 0, BitVec.ofNat 49 arg, 0, i.data⟩
  | _ => none

/-- A multicast reply that a slice's node sends: both halves of the line, with the clock of its value for the records that wait; the message
is off the wire (R202, R211, R244). -/
def sendCopy (s : State) (plane : Nat) (n : Node) (f : Flit) : State :=
  let k := routerNo n.1 plane n.2
  match s.wire.find? fun w => match w with
      | .mcReply d c m l bs mc _ _ => d == f.ddie.toNat && planeOf l == plane && l % 32 == f.recNo.toNat && mc == f.mc &&
          f.payload == (bs.drop (64 * f.fi.toNat)).take 64 && (!mc || (c % 8 == f.dnode.toNat % 8 && f.arg.toNat % 2 ^ 16 == m.toNat))
      | _ => false with
  | some (.mcReply d c m l bs mc failed v) =>
    let half := fun i : Nat => { f with fi := BitVec.ofNat 2 i, nf := 1, payload := (bs.drop (64 * i)).take 64 }
    let s := { s with
      wire := s.wire.erase (.mcReply d c m l bs mc failed v)
      records := s.records.map fun r =>
        if r.multicast && r.line == l && clusterOf r.gid == c && m.getLsbD (coreOf r.gid % 16) && !r.delivered then
          { r with clock := v, failed := r.failed || failed }
        else r }
    putRouter s k { routerAt s k with inject := (routerAt s k).inject ++ [half 0, half 1], down := false }
  | _ => s

/-- A flit that a node newly wants to inject, which wakes its router (R203, R215). -/
def wantFlit (s : State) (plane : Nat) (n : Node) (f : Flit) : State :=
  let k := routerNo n.1 plane n.2
  let add : State × Flit → State := fun p =>
    putRouter p.1 k { routerAt p.1 k with inject := (routerAt p.1 k).inject ++ [p.2], down := false }
  if !flitOk s plane n f then s
  else
    match (if isRequest f.typ then strandOfFlit n f.strand else none), f.typ.toNat with
    | some g, 14 => (((argLine s f).bind (mcReserve s g)).map fun s => add (s, { f with recNo := BitVec.ofNat 5 ((argLine s f).getD 0 % 32) })).getD s
    | some g, 10 => (((syncTarget s g).bind fun p => withRecord s plane g p.2 f).map add).getD s
    | some g, _ => (((argLine s f).bind fun l => withRecord s plane g l f).map add).getD s
    | none, 15 => sendCopy s plane n f
    | none, _ => add (s, f)

/-- ROUTER_CYCLE (R207): a Weave cycle of plane `plane`; the numbers, where they make a flit, are what node `unit` of die `die` newly
wants to inject; `f1`: the flit that ejects there is damaged on its way. -/
def execRouterCycle (s : State) : Out :=
  .next (
    let n : Node := (s.inp.die % 4, s.inp.unit % 192)
    let plane := s.inp.plane % 8
    let s' := match flitOf s.inp n with
      | some f => wantFlit s plane n f
      | none => s
    planeCycle s' plane (if s.inp.f1 then some n else none))

/-- RECORD_LOSS_TIMEOUT (R403): a marked record still unanswered 2^24 Weave cycles later fails, and its requester raises
DATA-ERROR. -/
def execRecordLossTimeout (s : State) : Out :=
  .next (match s.records.find? fun r =>
      !r.delivered && (r.marked.any fun m => decide (m + 2 ^ 24 ≤ sget 0 s.planes r.plane)) && r.gid == s.inp.gid && r.line == s.inp.line with
    | none => s
    | some r =>
      if r.multicast then { s with records := s.records.map fun q => if q = r then { r with failed := true, delivered := true } else q }
      else
        let t := { s with records := s.records.erase r }
        if r.dead then t else failAccess t r 27)

/-- The router that an event names. -/
def routerOf (s : State) : Nat := routerNo (s.inp.die % 4) (s.inp.plane % 8) (s.inp.unit % 192)

/-- THROTTLE_WINDOW_END (R213): of a router whose window is over. -/
def execThrottleWindowEnd (s : State) : Out :=
  .next (putRouter s (routerOf s) (endWindow (sget 0 s.planes (s.inp.plane % 8)) (routerAt s (routerOf s))))

/-- Whether a node has a bridge port (R215, R216). -/
def hasBridge (n : Node) : Bool := ports.any (isBridge n)

/-- ROUTER_POWER_DOWN (R215): after 2,048 idle cycles; a router with a bridge port never powers down. A flit that arrives or waits to
be injected in the same cycle wins, and the router counts a fresh idle window. -/
def execRouterPowerDown (s : State) : Out :=
  .next (
    let r := routerAt s (routerOf s)
    let now := sget 0 s.planes (s.inp.plane % 8)
    if hasBridge (s.inp.die % 4, s.inp.unit % 192) || decide (now < r.idleFrom + 2048) then s
    else if !r.arriving.isEmpty || !r.inject.isEmpty then putRouter s (routerOf s) { r with idleFrom := now }
    else putRouter s (routerOf s) { r with down := true, idleFrom := now })

end Sys2Proof.Machine
end

