-- ==== Sys2Proof/Machine/Dispatch.lean ====
section
/-! DEFINITION. The meaning of every instruction and event row, one arm each. -/

namespace Sys2Proof.Machine

/-- What an instruction, or an event of the table, does to the package. -/
def exec (i : Instr) (s : State) : Host.Outcome State Fault Refusal :=
  match i with
  | .vaAddIvv d a b m => Sys2Proof.Machine.execVaAddIvv d a b m s
  | .vaSubIvv d a b m => Sys2Proof.Machine.execVaSubIvv d a b m s
  | .vaMulIvv d a b m => Sys2Proof.Machine.execVaMulIvv d a b m s
  | .vaMulhIvv d a b m => Sys2Proof.Machine.execVaMulhIvv d a b m s
  | .vaMinIvv d a b m => Sys2Proof.Machine.execVaMinIvv d a b m s
  | .vaMaxIvv d a b m => Sys2Proof.Machine.execVaMaxIvv d a b m s
  | .vaMinuIvv d a b m => Sys2Proof.Machine.execVaMinuIvv d a b m s
  | .vaMaxuIvv d a b m => Sys2Proof.Machine.execVaMaxuIvv d a b m s
  | .vaAndIvv d a b m => Sys2Proof.Machine.execVaAndIvv d a b m s
  | .vaOrIvv d a b m => Sys2Proof.Machine.execVaOrIvv d a b m s
  | .vaXorIvv d a b m => Sys2Proof.Machine.execVaXorIvv d a b m s
  | .vaSllIvv d a b m => Sys2Proof.Machine.execVaSllIvv d a b m s
  | .vaSrlIvv d a b m => Sys2Proof.Machine.execVaSrlIvv d a b m s
  | .vaSraIvv d a b m => Sys2Proof.Machine.execVaSraIvv d a b m s
  | .vaMergeIvv d a b m => Sys2Proof.Machine.execVaMergeIvv d a b m s
  | .vaMulhuIvv d a b m => Sys2Proof.Machine.execVaMulhuIvv d a b m s
  | .vaAddIvx d a b m => Sys2Proof.Machine.execVaAddIvx d a b m s
  | .vaSubIvx d a b m => Sys2Proof.Machine.execVaSubIvx d a b m s
  | .vaMulIvx d a b m => Sys2Proof.Machine.execVaMulIvx d a b m s
  | .vaMulhIvx d a b m => Sys2Proof.Machine.execVaMulhIvx d a b m s
  | .vaMinIvx d a b m => Sys2Proof.Machine.execVaMinIvx d a b m s
  | .vaMaxIvx d a b m => Sys2Proof.Machine.execVaMaxIvx d a b m s
  | .vaMinuIvx d a b m => Sys2Proof.Machine.execVaMinuIvx d a b m s
  | .vaMaxuIvx d a b m => Sys2Proof.Machine.execVaMaxuIvx d a b m s
  | .vaAndIvx d a b m => Sys2Proof.Machine.execVaAndIvx d a b m s
  | .vaOrIvx d a b m => Sys2Proof.Machine.execVaOrIvx d a b m s
  | .vaXorIvx d a b m => Sys2Proof.Machine.execVaXorIvx d a b m s
  | .vaSllIvx d a b m => Sys2Proof.Machine.execVaSllIvx d a b m s
  | .vaSrlIvx d a b m => Sys2Proof.Machine.execVaSrlIvx d a b m s
  | .vaSraIvx d a b m => Sys2Proof.Machine.execVaSraIvx d a b m s
  | .vaMergeIvx d a b m => Sys2Proof.Machine.execVaMergeIvx d a b m s
  | .vaMulhuIvx d a b m => Sys2Proof.Machine.execVaMulhuIvx d a b m s
  | .vaAddIvi d a b m => Sys2Proof.Machine.execVaAddIvi d a b m s
  | .vaSubIvi d a b m => Sys2Proof.Machine.execVaSubIvi d a b m s
  | .vaMinIvi d a b m => Sys2Proof.Machine.execVaMinIvi d a b m s
  | .vaMaxIvi d a b m => Sys2Proof.Machine.execVaMaxIvi d a b m s
  | .vaMinuIvi d a b m => Sys2Proof.Machine.execVaMinuIvi d a b m s
  | .vaMaxuIvi d a b m => Sys2Proof.Machine.execVaMaxuIvi d a b m s
  | .vaAndIvi d a b m => Sys2Proof.Machine.execVaAndIvi d a b m s
  | .vaOrIvi d a b m => Sys2Proof.Machine.execVaOrIvi d a b m s
  | .vaXorIvi d a b m => Sys2Proof.Machine.execVaXorIvi d a b m s
  | .vaSllIvi d a b m => Sys2Proof.Machine.execVaSllIvi d a b m s
  | .vaSrlIvi d a b m => Sys2Proof.Machine.execVaSrlIvi d a b m s
  | .vaSraIvi d a b m => Sys2Proof.Machine.execVaSraIvi d a b m s
  | .vaMergeIvi d a b m => Sys2Proof.Machine.execVaMergeIvi d a b m s
  | .vaFaddFvv d a b m => Sys2Proof.Machine.execVaFaddFvv d a b m s
  | .vaFsubFvv d a b m => Sys2Proof.Machine.execVaFsubFvv d a b m s
  | .vaFmulFvv d a b m => Sys2Proof.Machine.execVaFmulFvv d a b m s
  | .vaFdivFvv d a b m => Sys2Proof.Machine.execVaFdivFvv d a b m s
  | .vaFminFvv d a b m => Sys2Proof.Machine.execVaFminFvv d a b m s
  | .vaFmaxFvv d a b m => Sys2Proof.Machine.execVaFmaxFvv d a b m s
  | .vaFmaccFvv d a b m => Sys2Proof.Machine.execVaFmaccFvv d a b m s
  | .vaFnmaccFvv d a b m => Sys2Proof.Machine.execVaFnmaccFvv d a b m s
  | .vaFmsacFvv d a b m => Sys2Proof.Machine.execVaFmsacFvv d a b m s
  | .vaFnmsacFvv d a b m => Sys2Proof.Machine.execVaFnmsacFvv d a b m s
  | .vaFsgnjFvv d a b m => Sys2Proof.Machine.execVaFsgnjFvv d a b m s
  | .vaFsgnjnFvv d a b m => Sys2Proof.Machine.execVaFsgnjnFvv d a b m s
  | .vaFsgnjxFvv d a b m => Sys2Proof.Machine.execVaFsgnjxFvv d a b m s
  | .vaFaddFvx d a b m => Sys2Proof.Machine.execVaFaddFvx d a b m s
  | .vaFsubFvx d a b m => Sys2Proof.Machine.execVaFsubFvx d a b m s
  | .vaFmulFvx d a b m => Sys2Proof.Machine.execVaFmulFvx d a b m s
  | .vaFdivFvx d a b m => Sys2Proof.Machine.execVaFdivFvx d a b m s
  | .vaFminFvx d a b m => Sys2Proof.Machine.execVaFminFvx d a b m s
  | .vaFmaxFvx d a b m => Sys2Proof.Machine.execVaFmaxFvx d a b m s
  | .vaFmaccFvx d a b m => Sys2Proof.Machine.execVaFmaccFvx d a b m s
  | .vaFnmaccFvx d a b m => Sys2Proof.Machine.execVaFnmaccFvx d a b m s
  | .vaFmsacFvx d a b m => Sys2Proof.Machine.execVaFmsacFvx d a b m s
  | .vaFnmsacFvx d a b m => Sys2Proof.Machine.execVaFnmsacFvx d a b m s
  | .vaFsgnjFvx d a b m => Sys2Proof.Machine.execVaFsgnjFvx d a b m s
  | .vaFsgnjnFvx d a b m => Sys2Proof.Machine.execVaFsgnjnFvx d a b m s
  | .vaFsgnjxFvx d a b m => Sys2Proof.Machine.execVaFsgnjxFvx d a b m s
  | .vaSeq d a b m => Sys2Proof.Machine.execVaSeq d a b m s
  | .vaSne d a b m => Sys2Proof.Machine.execVaSne d a b m s
  | .vaSlt d a b m => Sys2Proof.Machine.execVaSlt d a b m s
  | .vaSltu d a b m => Sys2Proof.Machine.execVaSltu d a b m s
  | .vaSle d a b m => Sys2Proof.Machine.execVaSle d a b m s
  | .vaSleu d a b m => Sys2Proof.Machine.execVaSleu d a b m s
  | .vaFeq d a b m => Sys2Proof.Machine.execVaFeq d a b m s
  | .vaFlt d a b m => Sys2Proof.Machine.execVaFlt d a b m s
  | .vaFle d a b m => Sys2Proof.Machine.execVaFle d a b m s
  | .vaFne d a b m => Sys2Proof.Machine.execVaFne d a b m s
  | .vaKand d a b => Sys2Proof.Machine.execVaKand d a b s
  | .vaKor d a b => Sys2Proof.Machine.execVaKor d a b s
  | .vaKxor d a b => Sys2Proof.Machine.execVaKxor d a b s
  | .vaKandn d a b => Sys2Proof.Machine.execVaKandn d a b s
  | .vaKnot d b => Sys2Proof.Machine.execVaKnot d b s
  | .vaFsqrt d b m => Sys2Proof.Machine.execVaFsqrt d b m s
  | .vaFrsqrte d b m => Sys2Proof.Machine.execVaFrsqrte d b m s
  | .vaFrece d b m => Sys2Proof.Machine.execVaFrece d b m s
  | .vaFlog2 d b m => Sys2Proof.Machine.execVaFlog2 d b m s
  | .vaFexp2 d b m => Sys2Proof.Machine.execVaFexp2 d b m s
  | .vaFclass d b m => Sys2Proof.Machine.execVaFclass d b m s
  | .vaFcvt d a b m => Sys2Proof.Machine.execVaFcvt d a b m s
  | .vaMv d b m => Sys2Proof.Machine.execVaMv d b m s
  | .vaSplat d b m => Sys2Proof.Machine.execVaSplat d b m s
  | .vaIota d m => Sys2Proof.Machine.execVaIota d m s
  | .vaRng d b m => Sys2Proof.Machine.execVaRng d b m s
  | .vaRedsum d b m => Sys2Proof.Machine.execVaRedsum d b m s
  | .vaFredsum d b m => Sys2Proof.Machine.execVaFredsum d b m s
  | .vaRedmax d b m => Sys2Proof.Machine.execVaRedmax d b m s
  | .vaRedmin d b m => Sys2Proof.Machine.execVaRedmin d b m s
  | .vaFredmax d b m => Sys2Proof.Machine.execVaFredmax d b m s
  | .vaFredmin d b m => Sys2Proof.Machine.execVaFredmin d b m s
  | .vaRedmaxi d b m => Sys2Proof.Machine.execVaRedmaxi d b m s
  | .vaFredmaxi d b m => Sys2Proof.Machine.execVaFredmaxi d b m s
  | .vaRedand d b m => Sys2Proof.Machine.execVaRedand d b m s
  | .vaRedor d b m => Sys2Proof.Machine.execVaRedor d b m s
  | .vaRedxor d b m => Sys2Proof.Machine.execVaRedxor d b m s
  | .vaKpop d b m => Sys2Proof.Machine.execVaKpop d b m s
  | .vaKfirst d b m => Sys2Proof.Machine.execVaKfirst d b m s
  | .vaSetvl d a b => Sys2Proof.Machine.execVaSetvl d a b s
  | .vaSetvlP d a b => Sys2Proof.Machine.execVaSetvlP d a b s
  | .vaSetcfg d a => Sys2Proof.Machine.execVaSetcfg d a s
  | .vaSetkey d a => Sys2Proof.Machine.execVaSetkey d a s
  | .vmLd d a m => Sys2Proof.Machine.execVmLd d a m s
  | .vmLds d a b m => Sys2Proof.Machine.execVmLds d a b m s
  | .vmLdx d a b m => Sys2Proof.Machine.execVmLdx d a b m s
  | .vmLdff d a m => Sys2Proof.Machine.execVmLdff d a m s
  | .vmLdnc d a m => Sys2Proof.Machine.execVmLdnc d a m s
  | .vmLdsc d a m => Sys2Proof.Machine.execVmLdsc d a m s
  | .vmLdmc d a b m => Sys2Proof.Machine.execVmLdmc d a b m s
  | .vmLdraw d a m => Sys2Proof.Machine.execVmLdraw d a m s
  | .vmLdgl d a b m => Sys2Proof.Machine.execVmLdgl d a b m s
  | .vmLdffx d a b m => Sys2Proof.Machine.execVmLdffx d a b m s
  | .vmSt d a m => Sys2Proof.Machine.execVmSt d a m s
  | .vmSts d a b m => Sys2Proof.Machine.execVmSts d a b m s
  | .vmStx d a b m => Sys2Proof.Machine.execVmStx d a b m s
  | .vmStsc d a m => Sys2Proof.Machine.execVmStsc d a m s
  | .vmStraw d a m => Sys2Proof.Machine.execVmStraw d a m s
  | .vmStcx d a b m => Sys2Proof.Machine.execVmStcx d a b m s
  | .vmAmoadd d a b m => Sys2Proof.Machine.execVmAmoadd d a b m s
  | .vmAmofadd d a b m => Sys2Proof.Machine.execVmAmofadd d a b m s
  | .vmAmomin d a b m => Sys2Proof.Machine.execVmAmomin d a b m s
  | .vmAmomax d a b m => Sys2Proof.Machine.execVmAmomax d a b m s
  | .vmAmominu d a b m => Sys2Proof.Machine.execVmAmominu d a b m s
  | .vmAmomaxu d a b m => Sys2Proof.Machine.execVmAmomaxu d a b m s
  | .vmAmoand d a b m => Sys2Proof.Machine.execVmAmoand d a b m s
  | .vmAmoor d a b m => Sys2Proof.Machine.execVmAmoor d a b m s
  | .vmAmoxor d a b m => Sys2Proof.Machine.execVmAmoxor d a b m s
  | .vmAmoswap d a b m => Sys2Proof.Machine.execVmAmoswap d a b m s
  | .vmAmocas d a b m => Sys2Proof.Machine.execVmAmocas d a b m s
  | .vmAmoaddR d a b m => Sys2Proof.Machine.execVmAmoaddR d a b m s
  | .vmAmofaddR d a b m => Sys2Proof.Machine.execVmAmofaddR d a b m s
  | .vmAmominR d a b m => Sys2Proof.Machine.execVmAmominR d a b m s
  | .vmAmomaxR d a b m => Sys2Proof.Machine.execVmAmomaxR d a b m s
  | .vmAmominuR d a b m => Sys2Proof.Machine.execVmAmominuR d a b m s
  | .vmAmomaxuR d a b m => Sys2Proof.Machine.execVmAmomaxuR d a b m s
  | .vmAmoandR d a b m => Sys2Proof.Machine.execVmAmoandR d a b m s
  | .vmAmoorR d a b m => Sys2Proof.Machine.execVmAmoorR d a b m s
  | .vmAmoxorR d a b m => Sys2Proof.Machine.execVmAmoxorR d a b m s
  | .vmAmoswapR d a b m => Sys2Proof.Machine.execVmAmoswapR d a b m s
  | .vmAmocasR d a b m => Sys2Proof.Machine.execVmAmocasR d a b m s
  | .vmUpdadd d a m => Sys2Proof.Machine.execVmUpdadd d a m s
  | .vmUpdfadd d a m => Sys2Proof.Machine.execVmUpdfadd d a m s
  | .vmUpdmin d a m => Sys2Proof.Machine.execVmUpdmin d a m s
  | .vmUpdmax d a m => Sys2Proof.Machine.execVmUpdmax d a m s
  | .vmUpdfmax d a m => Sys2Proof.Machine.execVmUpdfmax d a m s
  | .vmUpdfmin d a m => Sys2Proof.Machine.execVmUpdfmin d a m s
  | .vmFence a m => Sys2Proof.Machine.execVmFence a m s
  | .vmFenceb a b m => Sys2Proof.Machine.execVmFenceb a b m s
  | .vmBwait a b m => Sys2Proof.Machine.execVmBwait a b m s
  | .vmGcsleep d a b m => Sys2Proof.Machine.execVmGcsleep d a b m s
  | .vmRofence m => Sys2Proof.Machine.execVmRofence m s
  | .vmCp a b m => Sys2Proof.Machine.execVmCp a b m s
  | .vmCpwany d a m => Sys2Proof.Machine.execVmCpwany d a m s
  | .vmCpwall d a m => Sys2Proof.Machine.execVmCpwall d a m s
  | .vmCpffr d a m => Sys2Proof.Machine.execVmCpffr d a m s
  | .vmCpclr a m => Sys2Proof.Machine.execVmCpclr a m s
  | .vpSort d b => Sys2Proof.Machine.execVpSort d b s
  | .vpChk d b => Sys2Proof.Machine.execVpChk d b s
  | .vpMerge d a b => Sys2Proof.Machine.execVpMerge d a b s
  | .vpMergec d a b => Sys2Proof.Machine.execVpMergec d a b s
  | .vpIsect d a b => Sys2Proof.Machine.execVpIsect d a b s
  | .vpDiff d a b => Sys2Proof.Machine.execVpDiff d a b s
  | .vpUniq d b => Sys2Proof.Machine.execVpUniq d b s
  | .vpRank d a b => Sys2Proof.Machine.execVpRank d a b s
  | .vpPart d a b => Sys2Proof.Machine.execVpPart d a b s
  | .vpKeys d b => Sys2Proof.Machine.execVpKeys d b s
  | .vpSpk d b => Sys2Proof.Machine.execVpSpk d b s
  | .vpSpx d b => Sys2Proof.Machine.execVpSpx d b s
  | .vpSpadd d a b => Sys2Proof.Machine.execVpSpadd d a b s
  | .vpSpmul d a b => Sys2Proof.Machine.execVpSpmul d a b s
  | .vpSpdot d a b => Sys2Proof.Machine.execVpSpdot d a b s
  | .vpSpbuild d b => Sys2Proof.Machine.execVpSpbuild d b s
  | .vpSpcoord d b => Sys2Proof.Machine.execVpSpcoord d b s
  | .vpSpval d b => Sys2Proof.Machine.execVpSpval d b s
  | .vpTopk d a b => Sys2Proof.Machine.execVpTopk d a b s
  | .vpHist d a b => Sys2Proof.Machine.execVpHist d a b s
  | .vpScan d b => Sys2Proof.Machine.execVpScan d b s
  | .vpScani d b => Sys2Proof.Machine.execVpScani d b s
  | .vpGperm d a b => Sys2Proof.Machine.execVpGperm d a b s
  | .vpSlideup d a b => Sys2Proof.Machine.execVpSlideup d a b s
  | .vpSlidedn d a b => Sys2Proof.Machine.execVpSlidedn d a b s
  | .vpPerm d a b => Sys2Proof.Machine.execVpPerm d a b s
  | .vpCompress d a b => Sys2Proof.Machine.execVpCompress d a b s
  | .vpExpand d a b => Sys2Proof.Machine.execVpExpand d a b s
  | .vpRotg d a b => Sys2Proof.Machine.execVpRotg d a b s
  | .vpBcast d a b => Sys2Proof.Machine.execVpBcast d a b s
  | .vpExt d a b => Sys2Proof.Machine.execVpExt d a b s
  | .vpIns d a b => Sys2Proof.Machine.execVpIns d a b s
  | .vpGetd d b => Sys2Proof.Machine.execVpGetd d b s
  | .vpSetd d a => Sys2Proof.Machine.execVpSetd d a s
  | .vxMmac d a b => Sys2Proof.Machine.execVxMmac d a b s
  | .vxMmacs d a e n => Sys2Proof.Machine.execVxMmacs d a e n s
  | .vxMgemm d a => Sys2Proof.Machine.execVxMgemm d a s
  | .vxMtld d a b => Sys2Proof.Machine.execVxMtld d a b s
  | .vxMcomp d a b => Sys2Proof.Machine.execVxMcomp d a b s
  | .vxMunf a => Sys2Proof.Machine.execVxMunf a s
  | .vxMzero d => Sys2Proof.Machine.execVxMzero d s
  | .vxPush d a b m => Sys2Proof.Machine.execVxPush d a b m s
  | .vxTake d => Sys2Proof.Machine.execVxTake d s
  | .vxFe d => Sys2Proof.Machine.execVxFe d s
  | .vxClaim d a b => Sys2Proof.Machine.execVxClaim d a b s
  | .vxFulfil a b => Sys2Proof.Machine.execVxFulfil a b s
  | .vxAbandon a => Sys2Proof.Machine.execVxAbandon a s
  | .vxFld d a => Sys2Proof.Machine.execVxFld d a s
  | .vxFprobe d a => Sys2Proof.Machine.execVxFprobe d a s
  | .vxRelease a => Sys2Proof.Machine.execVxRelease a s
  | .vxSpawn d a => Sys2Proof.Machine.execVxSpawn d a s
  | .vxDep d a b => Sys2Proof.Machine.execVxDep d a b s
  | .vxGlaunch a => Sys2Proof.Machine.execVxGlaunch a s
  | .vxLvl d a => Sys2Proof.Machine.execVxLvl d a s
  | .vxSave a => Sys2Proof.Machine.execVxSave a s
  | .vxIcinv a => Sys2Proof.Machine.execVxIcinv a s
  | .vxTlbinv a b => Sys2Proof.Machine.execVxTlbinv a b s
  | .reservedWord w => Sys2Proof.Machine.execReservedWord w s
  | .fenceI imm rs1 rd => Sys2Proof.Machine.execFenceI imm rs1 rd s
  | .sfenceVma rs1 rs2 => Sys2Proof.Machine.execSfenceVma rs1 rs2 s
  | .scalarFence fm pred succ rs1 rd => Sys2Proof.Machine.execScalarFence fm pred succ rs1 rd s
  | .scalarLoad k rd rs1 imm => Sys2Proof.Machine.execScalarLoad k rd rs1 imm s
  | .scalarStore k rs1 rs2 imm => Sys2Proof.Machine.execScalarStore k rs1 rs2 imm s
  | .scalarAmo op dword aq rl rd rs1 rs2 => Sys2Proof.Machine.execScalarAmo op dword aq rl rd rs1 rs2 s
  | .csrReadWait csr op rd => Sys2Proof.Machine.execCsrReadWait csr op rd s
  | .csrWriteVstat op rd src => Sys2Proof.Machine.execCsrWriteVstat op rd src s
  | .csrWriteVrthr op rd src => Sys2Proof.Machine.execCsrWriteVrthr op rd src s
  | .csrWriteDatp op rd src => Sys2Proof.Machine.execCsrWriteDatp op rd src s
  | .csrWriteFmtb op rd src => Sys2Proof.Machine.execCsrWriteFmtb op rd src s
  | .csrWrite csr op rd src => Sys2Proof.Machine.execCsrWrite csr op rd src s
  | .scalarInstruction op => Sys2Proof.Machine.execScalarInstruction op s
  | .vxEnd => Sys2Proof.Machine.execVxEnd s
  | .vxYield => Sys2Proof.Machine.execVxYield s
  | .vxRestore => Sys2Proof.Machine.execVxRestore s
  | .vxVdrain => Sys2Proof.Machine.execVxVdrain s
  | .vxWdpet => Sys2Proof.Machine.execVxWdpet s
  | .wfi => Sys2Proof.Machine.execWfi s
  | .sret => Sys2Proof.Machine.execSret s
  | .mret => Sys2Proof.Machine.execMret s
  | .ecallFromS => Sys2Proof.Machine.execEcallFromS s
  | .elementGroupIssue => Sys2Proof.Machine.execElementGroupIssue s
  | .vectorCommit => Sys2Proof.Machine.execVectorCommit s
  | .trapEntry => Sys2Proof.Machine.execTrapEntry s
  | .supervisorTimerInterrupt => Sys2Proof.Machine.execSupervisorTimerInterrupt s
  | .preemptionRequest => Sys2Proof.Machine.execPreemptionRequest s
  | .forcedSave => Sys2Proof.Machine.execForcedSave s
  | .saveEngineTimeout => Sys2Proof.Machine.execSaveEngineTimeout s
  | .watchdogExpiry => Sys2Proof.Machine.execWatchdogExpiry s
  | .taskDispatch => Sys2Proof.Machine.execTaskDispatch s
  | .taskResumption => Sys2Proof.Machine.execTaskResumption s
  | .nodeReady => Sys2Proof.Machine.execNodeReady s
  | .readRequest => Sys2Proof.Machine.execReadRequest s
  | .readReply => Sys2Proof.Machine.execReadReply s
  | .writeRequest => Sys2Proof.Machine.execWriteRequest s
  | .writeAcknowledgement => Sys2Proof.Machine.execWriteAcknowledgement s
  | .atomicRequest => Sys2Proof.Machine.execAtomicRequest s
  | .atomicReply => Sys2Proof.Machine.execAtomicReply s
  | .lineLockRequest => Sys2Proof.Machine.execLineLockRequest s
  | .amoLockRetry => Sys2Proof.Machine.execAmoLockRetry s
  | .scalarL1Invalidation => Sys2Proof.Machine.execScalarL1Invalidation s
  | .invalidationAcknowledgement => Sys2Proof.Machine.execInvalidationAcknowledgement s
  | .ownershipRequest => Sys2Proof.Machine.execOwnershipRequest s
  | .ownershipGrant => Sys2Proof.Machine.execOwnershipGrant s
  | .ownershipRecall => Sys2Proof.Machine.execOwnershipRecall s
  | .barrierArrival => Sys2Proof.Machine.execBarrierArrival s
  | .barrierWaitRequest => Sys2Proof.Machine.execBarrierWaitRequest s
  | .nackRetry => Sys2Proof.Machine.execNackRetry s
  | .slathClaimRequest => Sys2Proof.Machine.execSlathClaimRequest s
  | .slathFldRequest => Sys2Proof.Machine.execSlathFldRequest s
  | .slathFulfilRequest => Sys2Proof.Machine.execSlathFulfilRequest s
  | .slathAbandonRequest => Sys2Proof.Machine.execSlathAbandonRequest s
  | .slathReleaseRequest => Sys2Proof.Machine.execSlathReleaseRequest s
  | .slathProbeRequest => Sys2Proof.Machine.execSlathProbeRequest s
  | .scTicket => Sys2Proof.Machine.execScTicket s
  | .pushRequest => Sys2Proof.Machine.execPushRequest s
  | .pushGrant => Sys2Proof.Machine.execPushGrant s
  | .pushData => Sys2Proof.Machine.execPushData s
  | .replicaUpdate => Sys2Proof.Machine.execReplicaUpdate s
  | .epochCloseTimeout => Sys2Proof.Machine.execEpochCloseTimeout s
  | .restamp => Sys2Proof.Machine.execRestamp s
  | .forwardedAccess => Sys2Proof.Machine.execForwardedAccess s
  | .multicastReadRequest => Sys2Proof.Machine.execMulticastReadRequest s
  | .mergeWindowClose => Sys2Proof.Machine.execMergeWindowClose s
  | .multicastReadReply => Sys2Proof.Machine.execMulticastReadReply s
  | .routerCycle => Sys2Proof.Machine.execRouterCycle s
  | .recordLossTimeout => Sys2Proof.Machine.execRecordLossTimeout s
  | .throttleWindowEnd => Sys2Proof.Machine.execThrottleWindowEnd s
  | .routerPowerDown => Sys2Proof.Machine.execRouterPowerDown s
  | .gcsleepWake => Sys2Proof.Machine.execGcsleepWake s
  | .gcsleepPoll => Sys2Proof.Machine.execGcsleepPoll s
  | .pageWalk => Sys2Proof.Machine.execPageWalk s
  | .copyStart => Sys2Proof.Machine.execCopyStart s
  | .copyComplete => Sys2Proof.Machine.execCopyComplete s
  | .copyFailure => Sys2Proof.Machine.execCopyFailure s
  | .mgemmStep => Sys2Proof.Machine.execMgemmStep s
  | .glaunchBlockServe => Sys2Proof.Machine.execGlaunchBlockServe s
  | .glaunchNode => Sys2Proof.Machine.execGlaunchNode s
  | .glaunchDone => Sys2Proof.Machine.execGlaunchDone s
  | .queueDoorbell => Sys2Proof.Machine.execQueueDoorbell s
  | .queueStart => Sys2Proof.Machine.execQueueStart s
  | .queueStop => Sys2Proof.Machine.execQueueStop s
  | .packetTake => Sys2Proof.Machine.execPacketTake s
  | .taskAbort => Sys2Proof.Machine.execTaskAbort s
  | .tlbctlGo => Sys2Proof.Machine.execTlbctlGo s
  | .bar0RegisterWrite => Sys2Proof.Machine.execBar0RegisterWrite s
  | .bar2Read => Sys2Proof.Machine.execBar2Read s
  | .bar2Write => Sys2Proof.Machine.execBar2Write s
  | .setPhysicalMap => Sys2Proof.Machine.execSetPhysicalMap s
  | .setWaleWindow => Sys2Proof.Machine.execSetWaleWindow s
  | .setBasketPartition => Sys2Proof.Machine.execSetBasketPartition s
  | .setContextTable => Sys2Proof.Machine.execSetContextTable s
  | .setLinkBonding => Sys2Proof.Machine.execSetLinkBonding s
  | .setPowerLimit => Sys2Proof.Machine.execSetPowerLimit s
  | .sensorRead => Sys2Proof.Machine.execSensorRead s
  | .logRead => Sys2Proof.Machine.execLogRead s
  | .firmwareUpdate => Sys2Proof.Machine.execFirmwareUpdate s
  | .attestation => Sys2Proof.Machine.execAttestation s
  | .sensorSample => Sys2Proof.Machine.execSensorSample s
  | .scrub => Sys2Proof.Machine.execScrub s
  | .structureError => Sys2Proof.Machine.execStructureError s
  | .coldReset => Sys2Proof.Machine.execColdReset s
  | .packageReset => Sys2Proof.Machine.execPackageReset s
  | .dieReset => Sys2Proof.Machine.execDieReset s
  | .pcieD3hot => Sys2Proof.Machine.execPcieD3hot s
  | .coreClockGate => Sys2Proof.Machine.execCoreClockGate s
  | .waleFlitReceive => Sys2Proof.Machine.execWaleFlitReceive s
  | .waleReplayRequest => Sys2Proof.Machine.execWaleReplayRequest s
  | .walePortRetrain => Sys2Proof.Machine.execWalePortRetrain s
  | .remoteAccessTimeout => Sys2Proof.Machine.execRemoteAccessTimeout s
  | .remoteAccess => Sys2Proof.Machine.execRemoteAccess s
  | .replicaDrop => Sys2Proof.Machine.execReplicaDrop s
  | .d3hotRestart => Sys2Proof.Machine.execD3hotRestart s

end Sys2Proof.Machine
end

