-- ==== Sys2Proof/Machine/Fetch.lean ====
section
/-! DEFINITION. Fetching an instruction, the work of the package's own agents, and what the focus strand attends to before it
takes an instruction (R36, R182, R343 to R359, R364). -/

namespace Sys2Proof.Machine

/-- Time passes (R2, R5, R36): `time` at 100 MHz, arithmetic clocks at their present rate, Weave clocks at 2.4 GHz; how many counts
of `time` a step takes is the model's own pace. TLBCTL.GO falls once the last wait of its invalidation has ended (R393). -/
def tick (s : State) : State :=
  { s with
    clock := s.clock + s.timePace * s.handle.clockMhz / 100
    weave := s.weave + 24 * s.timePace
    time := s.time + word s.timePace
    tlbGo := if goReads s then s.tlbGo else none }

/-- A byte as the front end of the focus strand fetches it: from the core's instruction cache, else as a load reads it (R182). -/
def fetchByte (s : State) (loc : Nat) : Byte :=
  match s.icache.find? fun p => p.1 == coreOf s.gid && p.2.1 == lineOf loc with
  | some p => p.2.2.getD (loc % 128) 0
  | none => seenOn s (dieOf s.gid) loc

/-- Whether the fetch at the pc waits for a line that a vector atomic has locked: a PTE's, or the instruction's own where the instruction
cache does not hold it (R255). -/
def fetchWaits (s : State) : Bool :=
  decide (s.t.pc.toNat % 4 = 0) && (walkWaits s (coreOf s.gid) (xlateNow s) s.t.pc.toNat ||
    match locate s (coreOf s.gid) (xlateNow s) .fetch s.t.pc.toNat with
    | .ok (loc, _) => isDevice loc && lineLocked s (lineOf loc) &&
        !(s.icache.any fun p => p.1 == coreOf s.gid && p.2.1 == lineOf loc)
    | .error _ => false)

/-- The word at the pc, or the cause its fetch raises (R36, R364). -/
def fetchWord (s : State) : Except Nat InstrWord :=
  if s.t.pc.toNat % 4 ≠ 0 then .error 0
  else
    match locate s (coreOf s.gid) (xlateNow s) .fetch s.t.pc.toNat with
    | .error f => .error (sCause .fetch f)
    | .ok (loc, _) =>
      if readFails s loc 4 then .error 27
      else .ok (BitVec.ofNat 32 (ofBytes ((List.range 4).map fun i => fetchByte s (loc + i))))

/-- Whether a block has a turn of its own to take. -/
def blockWork (s : State) (b : Nat) (k : GBlock) : Bool :=
  match k.served.find? fun v => v.serving with
  | some v => (nextNode v v.counts).isNone || decide (poolCount s (b / 4) < 4096)
  | none => match k.queue with
    | q :: _ => !requestWaits s q
    | [] => false

/-- What the copy engines do next (R191, R193, R233). -/
def copyWork (s : State) : Option State :=
  let moved : State → Option State := fun t => if t.copies = s.copies ∧ t.slices = s.slices then none else some t
  (s.slices.findSome? fun p => p.2.ownerQueue.findSome? fun q => moved (grantOwner s q.1)) <|> s.copies.findSome? fun j =>
    match j.outcome with
    | some ok => some (endCopy s j.gid j.tag ok)
    | none =>
      if j.started then
        moved (stepCopy false false s j)
      else if copyMayStart s j then some (putCopy s { j with started := true })
      else none

/-- A merge window that is over closes, and a reply to multicast requests lands (R211, R212). -/
def mergeWork (s : State) : Option State :=
  (s.slices.findSome? fun p => (p.2.windows.find? (windowDue s)).map (closeWindow s)) <|>
    s.wire.findSome? fun w => match w with
      | .mcReply _ c _ l _ _ _ _ => some (landMulticast s l c)
      | _ => none

/-- An invalidation performed and acknowledged, or a write that waits for none any more accepted (R183). -/
def writeWork (s : State) : Option State :=
  match s.invals with
  | p :: _ => some (ackInval { s with l1 := s.l1.filter fun q => !(invalTargets s p.1 p.2).contains q } p.1 p.2)
  | [] => s.waits.findSome? fun w =>
      let t := settleWrite s w.line
      if t.waits = s.waits then none else some t

/-- A message on the wire reaches the port that waits for it (R203, R205, R253, R255, R397); one that no record awaits is gone. -/
def landWire (s : State) (w : Msg) : Option State :=
  let rest := { s with wire := s.wire.erase w }
  match w with
  | .readReply g l n _ _ _ =>
    let mine : Record → Bool := fun r => recordFor g l r && r.recNo == n
    match s.records.find? mine with
    | none => some rest
    | some r =>
      let t := landReply s r 0
      some ((t.records.find? mine).elim t fun q => landReply t q 1)
  | .writeAck g l _ _ _ _ => some (landAck s g l)
  | .atomicReply g loc _ _ => some (landAtomic s g loc)
  | .lockReply g _ granted => if granted then some rest else some (asStrand g unlock rest)
  | .ownerGrant a l => some (landGrant s a l)
  | .forwardReply g l failed => some (landOne rest g l failed 27)
  | .remoteReply _ _ => ((List.range 36).find? (portReady s)).map fun n => sendReplies n s
  | _ => none

/-- A whole request in a slice's queue served (R204): a read, a write or a multicast read at its slice; one of another class belongs to an
instruction or an engine that performs its access itself, and its record is free. -/
def serveQueued (s : State) (sl : Nat) (q : SliceReq) : Option State :=
  if !q.whole || lineLocked s q.line then none
  else
    let t := match q.typ with
      | 0 => readLine s q.strand q.line .record false
      | 2 => writeLine s q.strand (q.line * 128) [] false 0
      | 14 => joinWindow (dropRequest s sl q) (coreOf q.strand) q.line (BitVec.ofNat 16 (ofBytes (q.payload.take 2)))
      | _ => landOne (dropRequest s sl q) q.strand q.line false 27
    if t.slices = s.slices then none else some t

/-- What is on the wire lands, and what stands whole in a slice's queue is served (R203, R204). -/
def wireWork (s : State) : Option State :=
  s.wire.findSome? (landWire s) <|> s.slices.findSome? fun p => (p.2.requests ++ p.2.recalls).findSome? (serveQueued s p.1)

/-- What came in from outside and waited is performed where it can be (R388, R397). -/
def outsideWork (s : State) : Option State :=
  (s.incoming.findSome? fun q => let t := performRemote s q; if t.incoming = s.incoming then none else some t) <|>
    let t := performPosted s.posted.length s
    if t.posted = s.posted then none else some t

/-- A request answered NACK that is answered otherwise when it is sent again (R263). -/
def nackWork (s : State) : Option State :=
  s.wire.findSome? fun w =>
    match w with
    | .nackBwait g _ _ _ | .nackFld g _ _ =>
      let t := resend s w
      if (nackOf t g).isNone then some t else none
    | _ => none

/-- A running node of a block ended, or the waiting one placed where the dispatcher can place it now. -/
def nodeWork (s : State) (b : Nat) (k : GBlock) : Option State :=
  (k.nodes.findSome? fun n => (if n.status = 1 then runningNode k n.on else none).bind fun q =>
    if nodeWaits s n.on q then none else some (finishNode s b n.on)) <|>
  (waitingNode k).bind fun q =>
    if outranked s (b / 4) (nodeRank q) then none else (freeOnDie s (b / 4)).map fun g => placeNode s b g

/-- What the grouped-launch blocks do next (R269, R285). -/
def glaunchWork (s : State) : Option State :=
  s.blocks.findSome? fun p =>
    if blockWork s p.1 p.2 then some (serveBlock s p.1)
    else nodeWork s p.1 p.2 <|> (let t := glaunchDone s p.1; if t.blocks = s.blocks then none else some t)

/-- What the control plane does next with the launch queues (R391). -/
def packetWork (s : State) : Option State :=
  s.queues.findSome? fun p =>
    match p.2.stuck with
    | some r => insertPacket (putQueue s p.1 { p.2 with stuck := none }) p.1 r.1 r.2.1 r.2.2
    | none => if p.2.state = .run ∧ p.2.head ≠ p.2.tail then some (takePacket s p.1) else none

/-- A node that becomes ready (R332). -/
def readyWork (s : State) : Option State :=
  s.launches.findSome? fun l =>
    if l.hold || l.edges.any fun k => (launchOf s k).isSome then none
    else ((nodeDies l).find? fun d => !(l.ready.any fun p => p.1 == d)).map fun d => readyNode s l d

/-- A dispatch or a resumption (R332, R356). -/
def dispatchWork (s : State) : Option State :=
  let p := draw s
  match nextStart p.2 p.1 with
  | some (l, x, b, i, g) => some (dispatchTask p.2 l x b i g)
  | none => (nextResume s).map fun q => resumeOn s q.1 q.2

/-- The next thing that an agent of the package does by itself while the strands wait. -/
def background (s : State) : Option State :=
  (copyWork s <|> writeWork s <|> mergeWork s <|> nackWork s <|> wireWork s <|> outsideWork s <|> glaunchWork s <|> packetWork s <|>
    readyWork s) <|> dispatchWork s

/-- The strand that takes the focus after the present one: the next in number that holds a task, or the lowest. -/
def nextFocus (s : State) : Option Nat :=
  let gs := (s.peers.map Prod.fst).filter fun g => (strandAt s g).task.isSome
  match gs.find? fun g => decide (s.gid < g) with
  | some g => some g
  | none => gs.head?

/-- The focus strand can go no further now: another agent acts, else another strand takes the focus. -/
def yieldTurn (s : State) : State :=
  match background { s with stalled := false } with
  | some t => { t with stalled := false }
  | none =>
    match nextFocus s with
    | some g => { focusOn s g with stalled := false }
    | none => { s with stalled := false }

/-- The firmware's answer to a trap to machine mode (R350). -/
def serveFirmware (s : State) : State :=
  if s.t.mcause = 9 then outState s (execEcallFromS s) else failTaskOn s s.gid false 163

/-- A frame that waited for owed flits (R351, R355): written once they are in, the watchdog having stood meanwhile (R358); LOST 10 ms after
its start. -/
def finishFraming (s : State) (f : Framing) : State :=
  if f.since + microseconds s 10000 ≤ s.clock then contextLost s 129
  else if recordsOwed s s.gid || saveLocked s then yieldTurn s
  else
    let late := if s.t.watchdog ≠ 0 ∧ s.t.ctxState = .active then s.t.watchdog + (s.clock - f.since) else s.t.watchdog
    frameTrap { s with t := { s.t with framing := none, watchdog := late } } f.cause f.tval f.epc f.entries

/-- Whether a forced save of the focus strand has begun (R354). -/
def saveDue (s : State) : Bool := portStopped s s.gid

/-- Whether the oldest entry completes before the forced save goes on (R354): it holds a lock or the ticket, or its answer is
in flight (R235, R256, R326). -/
def mustFinish (s : State) : Bool :=
  !s.t.queue.isEmpty && (!s.t.locks.isEmpty || s.scOut == some s.gid || answerInFlight s s.gid)

/-- What a forced save that has begun does next (R354, R355); nothing of its own while the oldest entry must still complete. -/
def saveStep (s : State) : Option State :=
  if s.t.preempt.any fun r => decide (r.deadline + microseconds s 10000 ≤ s.clock) then some (saveTimeout s)
  else if mustFinish s then none
  else some (let s := withdrawWaiting s s.gid; if saveWaits s then yieldTurn s else forcedSave s)

/-- A `wfi` that waits (R36, R344): it ends once an interrupt is pending and enabled, whatever the vector queue holds. -/
def wfiStep (s : State) : Option State :=
  if !s.t.waiting then none
  else if wakePending s then some { s with t := { s.t with waiting := false } }
  else if s.t.queue.isEmpty then some (yieldTurn s)
  else none

/-- What comes before the focus strand's next instruction, where something does: no task; the firmware; a failing task; a frame
being written; the watchdog; the deadline of a pre-emption request; a pending trap; a wait for an interrupt (R343 to R359). -/
def attend (s : State) : Option State :=
  let t := s.t
  if t.task.isNone then some (yieldTurn s)
  else
    match t.failing, t.framing with
    | some (lost, err), _ =>
      some (if copiesOpen s s.gid || closeLocked s s.gid then yieldTurn s else endTaskOn s s.gid lost err)
    | none, some f => some (finishFraming s f)
    | none, none =>
      if t.firmware then some (serveFirmware s)
      else if watchdogOut s t then some (watchdogExpires s)
      else if saveDue s then saveStep s
      else takePending s <|> wfiStep s

/-- Whether the front end executes nothing now (R343, R354): a trap of a refused store or an interrupt is to be taken, or a
forced save has begun. -/
def frontStopped (s : State) : Bool := !s.t.storeTraps.isEmpty || (intrNow s).isSome || saveDue s

/-- Whether the scalar stream waits at an instruction that writes an x register, or at a `vx.tlbinv` until it has committed (R19). -/
def xWaits (t : Strand) : Bool := t.queue.any fun e => (e.xw && !e.done) || match e.instr with
  | .vxTlbinv _ _ => true
  | _ => false

/-- Whether the vector stream takes the focus strand's next turn: it is its turn, or the scalar stream stands. -/
def vectorNext (s : State) : Bool := (s.t.vectorTurn && !held s) || s.t.waiting || xWaits s.t || frontStopped s

/-- The state in which the vector stream tries the entry in a place of its queue, its elements below `upto` alone where that is given: the
scalar stream has the next turn. -/
def vectorSide (s : State) (n : Nat) (peek : Bool) (upto : Option Nat) (e : QEntry) : State :=
  { s with t := { s.t with replay := some e, place := n, peek := peek, upto := upto, vectorTurn := false } }

/-- The state in which the scalar stream takes an instruction: the vector stream has the next turn. -/
def scalarSide (s : State) : State := { s with t := { s.t with vectorTurn := true } }

/-- How many units of its kind an event may name (R1, R11, R197, R285, R397). -/
def unitsOf (i : Instr) : Nat :=
  match i with
  | .waleFlitReceive | .waleReplayRequest | .walePortRetrain | .remoteAccess => 36
  | .elementGroupIssue | .coreClockGate => 512
  | .glaunchBlockServe | .glaunchNode | .glaunchDone => 16
  | .copyStart | .copyComplete | .copyFailure | .remoteAccessTimeout => 64
  | .routerCycle | .throttleWindowEnd | .routerPowerDown => 192
  | .scalarL1Invalidation | .invalidationAcknowledgement | .mergeWindowClose | .multicastReadReply => 32
  | .queueDoorbell | .queueStart | .queueStop | .bar0RegisterWrite | .bar2Write => 2
  | _ => 2 ^ 64

/-- Whether an error names a structure that the package has (R11, R41, R45, R257, R263, R285, R312, R332). -/
def errorOk (e : StructErr) : Bool :=
  match e with
  | .slath sl n => decide (sl < 2048) && decide (n < 64)
  | .link sl _ g => decide (sl < 2048) && decide (g < 2048)
  | .deferral sl _ => decide (sl < 2048)
  | .poolNode d i => decide (d < 4) && decide (i < 4096)
  | .groupNode b _ _ => decide (b < 16)
  | .soft l => decide (l * 128 < hostLoc)
  | .xReg g n => decide (g < 2048) && decide (n < 32)
  | .vReg g n i => decide (g < 2048) && decide (n < 32) && decide (i < 1024)
  | .kReg g n i => decide (g < 2048) && decide (n < 8) && decide (i < 4096)

/-- Whether a register of BAR0 is one that the device has (R389, R390). -/
def regOk (b : Bar0Reg) : Bool :=
  match b with
  | .arenaBase d | .arenaSize d => decide (d < 4)
  | .queueBase q | .queueSize q | .queueCbase q | .queueInte q => decide (q < 64)
  | .devId | .tlbVa | .other _ => true

/-- The rows that are the Handle's work, which its firmware does (R394, R398 to R401). -/
def isHandleRow (i : Instr) : Bool :=
  match i with
  | .setPhysicalMap | .setWaleWindow | .setBasketPartition | .setContextTable | .setLinkBonding | .setPowerLimit | .sensorRead | .logRead
  | .firmwareUpdate | .attestation | .sensorSample | .walePortRetrain => true
  | _ => false

/-- Whether the particulars of an event name units that the package has; a Wale flit has 256 bytes (R395). -/
def inputOk (i : Instr) (p : Input) : Bool :=
  errorOk p.bad && regOk p.reg &&
  decide (p.gid < 2048) && decide (p.peer < 2048) && decide (p.die < 4) && decide (p.plane < 8) && decide (p.unit < unitsOf i) &&
    (i != .waleFlitReceive || decide (p.data.length = 256))

/-- Whether a row of the table is an event of the package and no word of the front end. -/
def isEvent (i : Instr) : Bool :=
  match i with
  | .reservedWord _ => false
  | i => (encode i).isNone

end Sys2Proof.Machine
end

