-- ==== Sys2Proof/Machine/Turn.lean ====
section
/-! DEFINITION. The turns of a step: an event of the agenda, or the focus strand's scalar or vector stream; and how an
instruction is placed where the next step fetches. -/

namespace Sys2Proof.Machine

/-- An outcome with its next state changed. -/
def mapNext (o : Host.Outcome State Fault Refusal) (f : State → State) : Host.Outcome State Fault Refusal :=
  match o with
  | .next t => .next (f t)
  | .fault e => .fault e
  | .refused e => .refused e

/-- A register that a scalar instruction has written keeps its value when an older vector instruction is unwound (R28.4). -/
def forgetX (i : Instr) (e : QEntry) : QEntry :=
  if (e.xhist.any fun p => (xWrite i false).contains p.1.toNat) then { e with xhist := none } else e

/-- What follows a scalar instruction's write of its registers: they have good parity, and no older vector instruction that is unwound takes them
back (R28.4, R360). -/
def wrote (s u : State) (i : Instr) : State :=
  let u := afterWrite s u i true (pushEntry s i)
  if u.stalled || u.t.queue.all fun q => q.xhist.isNone then u else { u with t := { u.t with queue := u.t.queue.map (forgetX i) } }

/-- A decoded instruction performed by the scalar stream. One that reads an x register of bad parity raises the scalar trap of R360; a
vector instruction with a vector or mask source of bad parity goes through the queue. -/
def runInstr (s : State) (i : Instr) : Host.Outcome State Fault Refusal :=
  let e := pushEntry s i
  if xParity s i then .next (scalarTrap s 27 0)
  else
    let s := if (badElement s e).isSome then { s with t := { s.t with heldUntil := s.clock + 1 } } else s
    mapNext (exec i s) fun u => if u.t.queue.length = s.t.queue.length then wrote s u i else u

/-- The instruction at the pc performed, its word being given; a word the decoder rejects is illegal (R57). -/
def runWord (s : State) (w : InstrWord) : Host.Outcome State Fault Refusal :=
  match decode w with
  | .ok i => runInstr s i
  | .error _ => exec (.reservedWord w) s

/-- The scalar stream's turn: fetch, decode, perform (R17, R57). -/
def scalarTurn (s : State) : Host.Outcome State Fault Refusal :=
  if fetchWaits s then .next (stall s)
  else
    match fetchWord s with
    | .error c => .next (scalarTrap s c s.t.pc)
    | .ok w => runWord s w

/-- The entry in a place of the focus strand's queue tried: an entry that may not complete ahead of older ones is only tested for
its fault point (R27). -/
def tryEntry (s : State) (n : Nat) : Host.Outcome State Fault Refusal :=
  match s.t.queue[n]? with
  | some e => mapNext (exec e.instr (vectorSide s n (!mayComplete s n) none e)) fun u =>
      if (u.t.queue[n]?).any fun d => d.done then afterWrite s u e.instr e.xw e else u
  | none => .next s

/-- The oldest entry performed, or where it meets bad parity at an element its trap, the elements below that one being performed
(R360). -/
def headTurn (s : State) (e : QEntry) : Host.Outcome State Fault Refusal :=
  match badElement s e with
  | none => tryEntry s 0
  | some 0 => .next (parityTrap s s e 0)
  | some p =>
    mapNext (exec e.instr (vectorSide s 0 false none { e with vl := BitVec.ofNat 13 p })) fun u =>
      match u.t.queue with
      | d :: _ => if d.done then parityTrap s u e p else if u.t.gen = s.t.gen then stall s else u
      | [] => u

/-- The focus strand's turn: its vector queue and its scalar stream take turns (R17, R18). -/
def strandTurn (s : State) : Host.Outcome State Fault Refusal :=
  match s.t.queue with
  | [] => if s.t.waiting then .next (yieldTurn s) else scalarTurn s
  | e :: _ =>
    if e.done then .next (commitHead s)
    else if vectorNext s then
      match tryPlace s with
      | some 0 => headTurn s e
      | some n => tryEntry s n
      | none => .next (stall { s with t := { s.t with place := 0, vectorTurn := false } })
    else scalarTurn (scalarSide s)

/-- The entry that the agenda names tried, where the strand is free to go on and the entry may be tried. -/
def vectorTurnAt (s : State) (n : Nat) : Host.Outcome State Fault Refusal :=
  match attend s with
  | some t => .next t
  | none =>
    match s.t.queue with
    | [] => .next s
    | e :: _ => if e.done || !mayTry s n then .next s else if n = 0 then headTurn s e else tryEntry s n

/-- The elements of the entry that the agenda names performed that stand below one, where it may be performed now. -/
def partTurn (s : State) (n upto : Nat) : Host.Outcome State Fault Refusal :=
  match attend s, s.t.queue[n]? with
  | some t, _ => .next t
  | none, none => .next s
  | none, some e =>
    if !mayTryTo s n upto || !mayComplete s n || (badElement s e).isSome then .next s
    else exec e.instr (vectorSide s n false (some upto) e)

/-- A turn that the agenda names. -/
def agendaTurn (s : State) (u : Turn) : Host.Outcome State Fault Refusal :=
  match u with
  | .focus g => if g < 2048 then .next { focusOn s g with stalled := false } else .fault .noSuchUnit
  | .vector n => vectorTurnAt s n
  | .part n upto => partTurn s n upto
  | .hold => .next { s with t := { s.t with heldUntil := s.clock + 64 } }
  | .event i p =>
    if isEvent i && inputOk i p then
      (if isHandleRow i && !s.handle.running then .next { s with inp := p } else exec i { s with inp := p })
    else .fault .noSuchUnit

/-- A task that runs on the focus strand, for a program placed by `withFetchWord`. -/
def placedTask : Task :=
  { id := 0, launch := 0, index := 0, total := 1, levels := [], compl := 0, prio := 0, ctx := 0, order := 0 }

/-- The focus strand ready to take an instruction at its pc: in supervisor mode without translation, with nothing pending. -/
def placedStrand (t : Strand) : Strand :=
  { t with
    task := some (t.task.getD placedTask)
    pc := if t.pc.toNat < hbmSize then t.pc &&& ~~~3#64 else 0
    mode := .supervisor
    datp := 0
    queue := []
    replay := none
    place := 0
    peek := false
    upto := none
    heldUntil := 0
    framing := none
    mie := 0
    preempt := none
    watchdog := 0
    storeTraps := []
    firmware := false
    waiting := false
    failing := none }

/-- The state with an instruction's bytes where the next step fetches, the focus strand being ready for it. -/
def placeWord (s : State) (w : Nat) : State :=
  let t := placedStrand s.t
  let line := lineOf t.pc.toNat
  pokeBytes
    { s with
      t := t
      map := { s.map with hbmb := some 0 }
      errs := s.errs.filter fun l => l != line
      replicas := s.replicas.filter fun r => r.line != line
      icache := s.icache.filter fun p => p.2.1 != line
      slices := (mapSlices s fun k =>
        { k with locks := k.locks.filter fun q => q.1 != line, owned := k.owned.filter fun q => q.1 != line }).slices
      stalled := false
      agenda := [] }
    t.pc.toNat (bytesOf 4 (w % 2 ^ 32))

end Sys2Proof.Machine
end

