-- ==== Sys2Proof/Machine/Step.lean ====
section
/-! DEFINITION. One step of the package: an event of the agenda, or a turn of the strand in focus. -/

namespace Sys2Proof.Machine

/-- One step: time passes; then the agenda's next turn; else, where the focus strand waits, another agent's; else the focus
strand's. -/
def step (s : State) : Host.Outcome State Fault Refusal :=
  let s := tick s
  match s.agenda with
  | u :: r => agendaTurn { s with agenda := r } u
  | [] =>
    if s.stalled then .next (yieldTurn s)
    else
      match attend s with
      | some t => .next t
      | none => strandTurn s

/-- The state with an instruction's bytes where the next step fetches (the table gives every coded row 32 bits). -/
def State.withFetchWord (s : State) (_nbits w : Nat) : State := placeWord s w

end Sys2Proof.Machine
end

