-- ==== Sys2Proof/Safety.lean ====
section
/-! DEFINITION. What a safe run of the package is: no step of it stops, and every state of it is well formed. -/

namespace Sys2Proof.Machine

/-- A step that goes on, to the state given. -/
def Steps (s t : State) : Prop := step s = .next t

/-- A strand's `vcfg` and `vl` as `va.setcfg` and `va.setvl` leave them (R22, R46, R98, R100): FMT is assigned, and VL is at most
VLMAX. -/
def Strand.Granted (t : Strand) : Prop := fmtLegal (cfgFmt t.vcfg) = true ∧ t.vl.toNat ≤ cfgVlmax t.vcfg

/-- What every state of a run keeps: the sparse maps in their canonical form, so that equal contents are equal data, and every
strand's length within its format's. -/
structure State.Inv (s : State) : Prop where
  memory : Memory.wf s.mem = true
  written : swf [] s.hbm = true
  strands : swf Strand.reset s.peers = true
  slices : swf Slice.reset s.slices = true
  slath : ∀ p ∈ s.slices, swf SlathEntry.reset p.2.slath = true
  lines : swf LineInfo.reset s.lines = true
  clocks : swf Clock4.zero s.clocks = true
  queues : swf HostQueue.reset s.queues = true
  blocks : swf GBlock.reset s.blocks = true
  ports : swf WalePort.reset s.ports = true
  routers : swf Router.reset s.routers = true
  planes : swf 0 s.planes = true
  rims : swf Rim.reset s.rims = true
  nodes : swf 0 s.nodeGen = true
  baskets : swf 0 s.basket = true
  tables : swf 0 s.ctxTable = true
  arenas : swf (0, 0) s.arena = true
  issued : swf 0 s.issuedNow = true
  turns : swf 0 s.decided = true
  focus : Strand.Granted s.t
  others : ∀ p ∈ s.peers, Strand.Granted p.2
  suspended : ∀ c ∈ s.suspended, Strand.Granted c.saved
  saved : ∀ p ∈ s.scalarFrames, Strand.Granted p.saved

/-- A run of `n` steps from one state to another. -/
inductive Runs : State → Nat → State → Prop where
  | refl (s : State) : Runs s 0 s
  | step {s t u : State} {n : Nat} (h : Steps s t) (r : Runs t n u) : Runs s (n + 1) u

/-- A state from which no run stops with a fault or a refusal, and all of whose runs keep the invariant. -/
def Safe (s : State) : Prop := ∀ n t, Runs s n t → t.Inv ∧ ∃ u, Steps t u

end Sys2Proof.Machine
end

