-- ==== Sys2Proof/Certificates/Slice0/Obligations.lean ====
section
/-! DEFINITION. What is claimed of the model, rule by rule of the specification. -/

namespace Sys2Proof.Claims

open Sys2Proof.Machine

/-- Nothing older waits in the vector queue and the lanes issue what the strand pushes: a vector instruction of the scalar stream is
performed at once (R17, R34). -/
def Direct (s : State) : Prop := s.t.replay = none ∧ s.t.queue = [] ∧ held s = false

/-- `vcfg` and `vl` as `va.setcfg` and `va.setvl` leave them (R22, R46, R100). -/
def Granted (s : State) : Prop := s.t.Granted

/-- The width of an element. -/
abbrev wd (s : State) : Nat := cfgW s.t.vcfg

/-- VL. -/
abbrev vl (s : State) : Nat := s.t.vl.toNat

/-- The bits of a word's field. -/
abbrev low (w : Nat) (x : Word) : Nat := x.toNat % 2 ^ w

/-- Element i of a vector register. -/
def el (s : State) (r : Reg) (i : Nat) : Nat := elem (wd s) s.t.v[r.toNat].bits i

/-- Bit i of a mask register; k0 reads all true (R41). -/
def kb (s : State) (k : KReg) (i : Nat) : Bool := if k = 0 then decide (i < 4096) else s.t.k[k.toNat].getLsbD i

/-- Whether element i is active under km (R37). -/
def act (s : State) (m : KReg) (i : Nat) : Bool := if m = 0 then true else s.t.k[m.toNat].getLsbD i

/-- A scalar register; x0 reads zero (R41). -/
def xr (s : State) (r : Reg) : Word := if r = 0 then 0 else s.t.x[r.toNat]

/-- The state after an instruction that has retired to an address (R36). -/
def toPc (u : State) (pc : Word) : State :=
  { u with t := { u.t with pc := pc, minstret := if u.t.mcountinhibit.getLsbD 2 then u.t.minstret else u.t.minstret + 1 } }

/-- The state after a scalar instruction with the effect given. -/
def scalarDone (u : State) : State := toPc u (u.t.pc + 4)

/-- The state after a vector instruction that was performed at once, with the effect given: it has committed (R18, R20). -/
def vectorDone (u : State) : State := scalarDone { u with t := { u.t with vcpPc := u.t.pc } }

/-- A vector instruction's trap taken in the state given (R28, R255): the strand's line locks are given back, and no push of it is in
progress. -/
def trapped (u : State) (cause : Nat) (tval epc : Word) : State :=
  let w := dropLocks { u with t := { u.t with replay := none, place := 0, peek := false, upto := none } } u.gid
  takeTrap { w with t := { w.t with queue := [], bound := none } } false cause tval epc

/-- The state after a vector instruction that was performed at once and trapped, without effect (R28, R343): the pc is past it. -/
def vectorTrapped (s : State) (cause : Nat) (tval : Word) : State := trapped (vectorDone s) cause tval (s.t.pc + 4)

/-- The state after an instruction that writes an x register has trapped: `instret` has counted it, and the pc is the instruction's
(R28, R36, R343). -/
def scalarTrapped (s : State) (cause : Nat) (tval : Word) : State :=
  trapped (toPc { s with t := { s.t with vcpPc := s.t.pc } } s.t.pc) cause tval s.t.pc

/-- The state in which an instruction has been pushed into the empty queue and waits there (R17). -/
def Waits (s : State) (i : Instr) (t : State) : Prop :=
  (t.t.queue.map fun e => (e.instr, e.pc, e.done)) = [(i, s.t.pc, false)] ∧ t.t.pc = s.t.pc + 4

/-- A vector register written. -/
def withV (s : State) (d : Reg) (X : VReg) : State := { s with t := { s.t with v := s.t.v.set d.toNat X } }

/-- A mask register written. -/
def withK (s : State) (d : KReg) (K : KBits) : State := { s with t := { s.t with k := s.t.k.set d.toNat K } }

/-- A scalar register written; x0 discards (R41). -/
def withX (s : State) (d : Reg) (x : Word) : State := if d = 0 then s else { s with t := { s.t with x := s.t.x.set d.toNat x } }

/-- Flags raised (R48). -/
def withFlags (s : State) (f : Flags) : State := { s with t := { s.t with vstat := s.t.vstat ||| f } }

/-- A DENSE register that holds n elements f 0, f 1, … of width w and zeros above them (R23, R24, R43). -/
def Dense (w n : Nat) (X : VReg) (f : Nat → Nat) : Prop :=
  X.kind = .dense ∧ X.fe = false ∧ X.key = 0 ∧ X.len.toNat = (n * w + 31) / 32 ∧ X.vpi.toNat = (n * w + 31) / 32 ∧
    ∀ i, elem w X.bits i = if i < n then f i else 0

/-- A register of a list of 32-bit elements with zeros above (R121, R122). -/
def Holds (k : Kind) (key : Key) (n : Nat) (X : VReg) (xs : List Nat) : Prop :=
  X.kind = k ∧ X.fe = false ∧ X.key = key ∧ X.len.toNat = xs.length ∧ X.vpi.toNat = n ∧
    ∀ i, elem 32 X.bits i = xs.getD i 0

/-- A mask of n bits f 0, f 1, … and zeros above (R41). -/
def Mask (n : Nat) (K : KBits) (f : Nat → Bool) : Prop := ∀ i, K.getLsbD i = (decide (i < n) && f i)

/-- A flag set that holds exactly what the active elements below VL raise (R97, R146). -/
def Raised (s : State) (m : KReg) (F : Flags) (f : Nat → Flags) : Prop :=
  ∀ b, F.getLsbD b = true ↔ ∃ i, i < vl s ∧ act s m i = true ∧ (f i).getLsbD b = true

/-- OP(B, A) of R108, in the integers. -/
def r108 (w : Nat) (op : IOp) (b a : Nat) : Nat :=
  let low := fun z : Int => (z % ((2 ^ w : Nat) : Int)).toNat
  match op with
  | .add => low (b + a)
  | .sub => low (b - a)
  | .mul => low (b * a)
  | .mulh => low (sgn w b * sgn w a / ((2 ^ w : Nat) : Int))
  | .min => if sgn w a < sgn w b then a else b
  | .max => if sgn w b < sgn w a then a else b
  | .minu => if a < b then a else b
  | .maxu => if b < a then a else b
  | .and => b &&& a
  | .or => b ||| a
  | .xor => b ^^^ a
  | .sll => low (b * ((2 ^ (a % w) : Nat) : Int))
  | .srl => b / 2 ^ (a % w)
  | .sra => low (sgn w b / ((2 ^ (a % w) : Nat) : Int))
  | .mulhu => b * a / 2 ^ w

/-- Field a of an IVI word: sign-extended, or the unsigned amount of a shift (R37, R108). -/
def r108Imm (w : Nat) (op : IOp) (a : Reg) : Nat :=
  match op with
  | .sll | .srl | .sra => a.toNat
  | _ => (a.toInt % ((2 ^ w : Nat) : Int)).toNat

/-- The integer instructions of R108: operation, destination, B, mask, and the A operand. -/
def intOf : Instr → Option (IOp × Reg × Reg × KReg × (State → Nat → Nat))
  | .vaAddIvv d a b m => some (.add, d, b, m, fun s => el s a)
  | .vaSubIvv d a b m => some (.sub, d, b, m, fun s => el s a)
  | .vaMulIvv d a b m => some (.mul, d, b, m, fun s => el s a)
  | .vaMulhIvv d a b m => some (.mulh, d, b, m, fun s => el s a)
  | .vaMinIvv d a b m => some (.min, d, b, m, fun s => el s a)
  | .vaMaxIvv d a b m => some (.max, d, b, m, fun s => el s a)
  | .vaMinuIvv d a b m => some (.minu, d, b, m, fun s => el s a)
  | .vaMaxuIvv d a b m => some (.maxu, d, b, m, fun s => el s a)
  | .vaAndIvv d a b m => some (.and, d, b, m, fun s => el s a)
  | .vaOrIvv d a b m => some (.or, d, b, m, fun s => el s a)
  | .vaXorIvv d a b m => some (.xor, d, b, m, fun s => el s a)
  | .vaSllIvv d a b m => some (.sll, d, b, m, fun s => el s a)
  | .vaSrlIvv d a b m => some (.srl, d, b, m, fun s => el s a)
  | .vaSraIvv d a b m => some (.sra, d, b, m, fun s => el s a)
  | .vaMulhuIvv d a b m => some (.mulhu, d, b, m, fun s => el s a)
  | .vaAddIvx d a b m => some (.add, d, b, m, fun s _ => low (wd s) (xr s a))
  | .vaSubIvx d a b m => some (.sub, d, b, m, fun s _ => low (wd s) (xr s a))
  | .vaMulIvx d a b m => some (.mul, d, b, m, fun s _ => low (wd s) (xr s a))
  | .vaMulhIvx d a b m => some (.mulh, d, b, m, fun s _ => low (wd s) (xr s a))
  | .vaMinIvx d a b m => some (.min, d, b, m, fun s _ => low (wd s) (xr s a))
  | .vaMaxIvx d a b m => some (.max, d, b, m, fun s _ => low (wd s) (xr s a))
  | .vaMinuIvx d a b m => some (.minu, d, b, m, fun s _ => low (wd s) (xr s a))
  | .vaMaxuIvx d a b m => some (.maxu, d, b, m, fun s _ => low (wd s) (xr s a))
  | .vaAndIvx d a b m => some (.and, d, b, m, fun s _ => low (wd s) (xr s a))
  | .vaOrIvx d a b m => some (.or, d, b, m, fun s _ => low (wd s) (xr s a))
  | .vaXorIvx d a b m => some (.xor, d, b, m, fun s _ => low (wd s) (xr s a))
  | .vaSllIvx d a b m => some (.sll, d, b, m, fun s _ => low (wd s) (xr s a))
  | .vaSrlIvx d a b m => some (.srl, d, b, m, fun s _ => low (wd s) (xr s a))
  | .vaSraIvx d a b m => some (.sra, d, b, m, fun s _ => low (wd s) (xr s a))
  | .vaMulhuIvx d a b m => some (.mulhu, d, b, m, fun s _ => low (wd s) (xr s a))
  | .vaAddIvi d a b m => some (.add, d, b, m, fun s _ => r108Imm (wd s) .add a)
  | .vaSubIvi d a b m => some (.sub, d, b, m, fun s _ => r108Imm (wd s) .sub a)
  | .vaMinIvi d a b m => some (.min, d, b, m, fun s _ => r108Imm (wd s) .min a)
  | .vaMaxIvi d a b m => some (.max, d, b, m, fun s _ => r108Imm (wd s) .max a)
  | .vaMinuIvi d a b m => some (.minu, d, b, m, fun s _ => r108Imm (wd s) .minu a)
  | .vaMaxuIvi d a b m => some (.maxu, d, b, m, fun s _ => r108Imm (wd s) .maxu a)
  | .vaAndIvi d a b m => some (.and, d, b, m, fun s _ => r108Imm (wd s) .and a)
  | .vaOrIvi d a b m => some (.or, d, b, m, fun s _ => r108Imm (wd s) .or a)
  | .vaXorIvi d a b m => some (.xor, d, b, m, fun s _ => r108Imm (wd s) .xor a)
  | .vaSllIvi d a b m => some (.sll, d, b, m, fun s _ => r108Imm (wd s) .sll a)
  | .vaSrlIvi d a b m => some (.srl, d, b, m, fun s _ => r108Imm (wd s) .srl a)
  | .vaSraIvi d a b m => some (.sra, d, b, m, fun s _ => r108Imm (wd s) .sra a)
  | _ => none

/-- `va.merge` (R109): destination, vs2, mask, and the A operand. -/
def mergeOf : Instr → Option (Reg × Reg × KReg × (State → Nat → Nat))
  | .vaMergeIvv d a b m => some (d, b, m, fun s => el s a)
  | .vaMergeIvx d a b m => some (d, b, m, fun s _ => low (wd s) (xr s a))
  | .vaMergeIvi d a b m => some (d, b, m, fun s _ => r108Imm (wd s) .add a)
  | _ => none

/-- The FVV and FVX instructions: operation, destination, vs2, mask, and the A operand (R162). -/
def fpOf : Instr → Option (FArith × Reg × Reg × KReg × (State → Nat → Nat))
  | .vaFaddFvv d a b m => some (.fadd, d, b, m, fun s => el s a)
  | .vaFsubFvv d a b m => some (.fsub, d, b, m, fun s => el s a)
  | .vaFmulFvv d a b m => some (.fmul, d, b, m, fun s => el s a)
  | .vaFdivFvv d a b m => some (.fdiv, d, b, m, fun s => el s a)
  | .vaFminFvv d a b m => some (.fmin, d, b, m, fun s => el s a)
  | .vaFmaxFvv d a b m => some (.fmax, d, b, m, fun s => el s a)
  | .vaFmaccFvv d a b m => some (.fmacc, d, b, m, fun s => el s a)
  | .vaFnmaccFvv d a b m => some (.fnmacc, d, b, m, fun s => el s a)
  | .vaFmsacFvv d a b m => some (.fmsac, d, b, m, fun s => el s a)
  | .vaFnmsacFvv d a b m => some (.fnmsac, d, b, m, fun s => el s a)
  | .vaFsgnjFvv d a b m => some (.fsgnj, d, b, m, fun s => el s a)
  | .vaFsgnjnFvv d a b m => some (.fsgnjn, d, b, m, fun s => el s a)
  | .vaFsgnjxFvv d a b m => some (.fsgnjx, d, b, m, fun s => el s a)
  | .vaFaddFvx d a b m => some (.fadd, d, b, m, fun s _ => low (wd s) (xr s a))
  | .vaFsubFvx d a b m => some (.fsub, d, b, m, fun s _ => low (wd s) (xr s a))
  | .vaFmulFvx d a b m => some (.fmul, d, b, m, fun s _ => low (wd s) (xr s a))
  | .vaFdivFvx d a b m => some (.fdiv, d, b, m, fun s _ => low (wd s) (xr s a))
  | .vaFminFvx d a b m => some (.fmin, d, b, m, fun s _ => low (wd s) (xr s a))
  | .vaFmaxFvx d a b m => some (.fmax, d, b, m, fun s _ => low (wd s) (xr s a))
  | .vaFmaccFvx d a b m => some (.fmacc, d, b, m, fun s _ => low (wd s) (xr s a))
  | .vaFnmaccFvx d a b m => some (.fnmacc, d, b, m, fun s _ => low (wd s) (xr s a))
  | .vaFmsacFvx d a b m => some (.fmsac, d, b, m, fun s _ => low (wd s) (xr s a))
  | .vaFnmsacFvx d a b m => some (.fnmsac, d, b, m, fun s _ => low (wd s) (xr s a))
  | .vaFsgnjFvx d a b m => some (.fsgnj, d, b, m, fun s _ => low (wd s) (xr s a))
  | .vaFsgnjnFvx d a b m => some (.fsgnjn, d, b, m, fun s _ => low (wd s) (xr s a))
  | .vaFsgnjxFvx d a b m => some (.fsgnjx, d, b, m, fun s _ => low (wd s) (xr s a))
  | _ => none

/-- The unary FP instructions: destination, vs2, mask, and the element with its flags (R164 to R166). -/
def fpUnOf : Instr → Option (Reg × Reg × KReg × (FpFmt → RMode → Bool → Nat → Nat × Flags))
  | .vaFsqrt d b m => some (d, b, m, fun F r sat x => funary F r sat .fsqrt x)
  | .vaFrsqrte d b m => some (d, b, m, fun F r sat x => funary F r sat .frsqrte x)
  | .vaFrece d b m => some (d, b, m, fun F r sat x => funary F r sat .frece x)
  | .vaFlog2 d b m => some (d, b, m, fun F r sat x => funary F r sat .flog2 x)
  | .vaFexp2 d b m => some (d, b, m, fun F r sat x => funary F r sat .fexp2 x)
  | .vaFclass d b m => some (d, b, m, fun F _ _ x => (fclass F x, 0))
  | _ => none

/-- The integer compares of R110: destination, vs2, vs1, mask, and C(B, A) at width w. -/
def cmpOf : Instr → Option (KReg × Reg × Reg × KReg × (Nat → Nat → Nat → Bool))
  | .vaSeq d a b m => some (d, b, a, m, fun _ x y => decide (x = y))
  | .vaSne d a b m => some (d, b, a, m, fun _ x y => decide (x ≠ y))
  | .vaSlt d a b m => some (d, b, a, m, fun w x y => decide (sgn w x < sgn w y))
  | .vaSltu d a b m => some (d, b, a, m, fun _ x y => decide (x < y))
  | .vaSle d a b m => some (d, b, a, m, fun w x y => decide (sgn w x ≤ sgn w y))
  | .vaSleu d a b m => some (d, b, a, m, fun _ x y => decide (x ≤ y))
  | _ => none

/-- The FP compares of R110: destination, vs2, vs1, mask and the compare. -/
def fcmpOf : Instr → Option (KReg × Reg × Reg × KReg × FCmp)
  | .vaFeq d a b m => some (d, b, a, m, .feq)
  | .vaFlt d a b m => some (d, b, a, m, .flt)
  | .vaFle d a b m => some (d, b, a, m, .fle)
  | .vaFne d a b m => some (d, b, a, m, .fne)
  | _ => none

/-- Mask logic (R111): destination, and bit i of the result. -/
def logicOf : Instr → Option (KReg × (State → Nat → Bool))
  | .vaKand d a b => some (d, fun s i => kb s a i && kb s b i)
  | .vaKor d a b => some (d, fun s i => kb s a i || kb s b i)
  | .vaKxor d a b => some (d, fun s i => kb s a i != kb s b i)
  | .vaKandn d a b => some (d, fun s i => kb s b i && !kb s a i)
  | .vaKnot d b => some (d, fun s i => !kb s b i)
  | _ => none

/-- The moves and generators (R112, R172): destination, mask, and element i. -/
def moveOf : Instr → Option (Reg × KReg × (State → Nat → Nat))
  | .vaMv d b m => some (d, m, fun s => el s b)
  | .vaSplat d b m => some (d, m, fun s _ => low (wd s) (xr s b))
  | .vaIota d m => some (d, m, fun s i => i % 2 ^ wd s)
  | .vaRng d b m => some (d, m, fun s i => rngElem (wd s) (xr s b).toNat i)
  | _ => none

/-- The active elements of a register, in index order, each with its index (R169). -/
def actives (s : State) (b : Reg) (m : KReg) : List (Nat × Nat) :=
  ((List.range (vl s)).filter (act s m)).map fun i => (i, el s b i)

/-- The integer reductions (R169): destination, source, mask, and the result from the active elements. -/
def redOf : Instr → Option (Reg × Reg × KReg × (Nat → List Nat → Nat))
  | .vaRedsum d b m => some (d, b, m, fun w xs => xs.sum % 2 ^ w)
  | .vaRedmax d b m => some (d, b, m, fun w xs =>
      ofInt w ((xs.map (sgn w)).foldl max (-((2 ^ (w - 1) : Nat) : Int))))
  | .vaRedmin d b m => some (d, b, m, fun w xs => ofInt w ((xs.map (sgn w)).foldl min (((2 ^ (w - 1) : Nat) : Int) - 1)))
  | .vaRedand d b m => some (d, b, m, fun w xs => xs.foldl (· &&& ·) (2 ^ w - 1))
  | .vaRedor d b m => some (d, b, m, fun _ xs => xs.foldl (· ||| ·) 0)
  | .vaRedxor d b m => some (d, b, m, fun _ xs => xs.foldl (· ^^^ ·) 0)
  | _ => none

/-- A reduction's destination (R169, R170): the value in word 0, the index in word 1 where VL·w is 64 or more, zeros elsewhere. -/
def Reduced (w n : Nat) (X : VReg) (val : Nat) (idx : Option Nat) : Prop :=
  X.kind = .dense ∧ X.fe = false ∧ X.key = 0 ∧ X.len.toNat = (n * w + 31) / 32 ∧ X.vpi.toNat = (n * w + 31) / 32 ∧
    ∀ i, elem 32 X.bits i =
      if n = 0 then 0
      else if i = 0 then val % 2 ^ w
      else if i = 1 ∧ 64 ≤ n * w then idx.getD 0
      else 0

/-- The PERM group (R173, R174): destination and element i below VL; a source element at or above VL reads as zero. -/
def permOf : Instr → Option (Reg × (State → Nat → Nat))
  | .vpSlideup d a b => some (d, fun s i => if (xr s a).toNat ≤ i then el s b (i - (xr s a).toNat) else 0)
  | .vpSlidedn d a b => some (d, fun s i => if i + (xr s a).toNat < vl s then el s b (i + (xr s a).toNat) else 0)
  | .vpPerm d a b => some (d, fun s i => if el s a i < vl s then el s b (el s a i) else 0)
  | .vpCompress d a b => some (d, fun s i =>
      (((List.range (vl s)).filter (kb s a))[i]?.map (el s b)).getD 0)
  | .vpExpand d a b => some (d, fun s i => if kb s a i then el s b ((List.range i).filter (kb s a)).length else 0)
  | .vpRotg d a b => some (d, fun s i =>
      let n := 1024 / wd s
      let eg := (vl s * wd s + 1023) / 1024
      let j := (i / n + eg - (xr s a).toNat % eg) % eg * n + i % n
      if j < vl s then el s b j else 0)
  | .vpBcast d a b => some (d, fun s _ => if (xr s a).toNat < vl s then el s b (xr s a).toNat else 0)
  | .vpIns d a b => some (d, fun s i => if i = (xr s a).toNat then low (wd s) (xr s b) else el s d i)
  | _ => none

/-- The vector instructions that write an x register from register state alone (R113, R131, R171, R265). -/
def toXOf : Instr → Option (Reg × (State → Word))
  | .vaKpop d b m => some (d, fun s => word (((List.range (vl s)).filter fun i => act s m i && kb s b i).length))
  | .vaKfirst d b m => some (d, fun s =>
      match (List.range (vl s)).find? fun i => act s m i && kb s b i with
      | some i => word i
      | none => 0xFFFFFFFFFFFFFFFF)
  | .vpExt d a b => some (d, fun s =>
      if (xr s a).toNat < vl s then
        (if [0, 2, 4, 16, 17].contains (cfgFmt s.t.vcfg) then BitVec.ofInt 64 (sgn (wd s) (el s b (xr s a).toNat))
         else word (el s b (xr s a).toNat))
      else 0)
  | .vpGetd d b => some (d, fun s =>
      let r := s.t.v[b.toNat]
      word (kindCode r.kind + (if s.t.pending[b.toNat].isSome then 4 else 0) + r.len.toNat * 16 + r.vpi.toNat * 65536
        + r.key.toNat * 4294967296))
  | .vxFe d => some (d, fun s => word (((List.finRange 32).map fun j => if s.t.pending[j].isSome then 2 ^ j.val else 0).sum))
  | _ => none

/-- The elements of a Plait source: its extent's, 32 bits wide (R119). -/
def run (s : State) (b : Reg) : List Nat :=
  (List.range (min s.t.v[b.toNat].len.toNat (vl s))).map (elem 32 s.t.v[b.toNat].bits)

/-- FMT is one that the SORT, SPARSE and GATE groups accept (R119). -/
def Wide (s : State) : Prop := wd s = 32

/-- A source that R120 accepts: RUN or SPARSE under `vkey`. -/
def RunUnder (s : State) (b : Reg) : Prop := s.t.v[b.toNat].kind ≠ .dense ∧ s.t.v[b.toNat].key = s.t.vkey

/-- A source that R371 accepts. -/
def SparseSrc (s : State) (b : Reg) : Prop := isSparseSrc s.t.v[b.toNat] = true

end Sys2Proof.Claims

open Sys2Proof Sys2Proof.Machine Sys2Proof.Claims

/-- R108: each active element becomes OP(B, A); inactive ones stay; nothing else changes but the retirement. -/
def Sys2Proof.Claims.IntegerElements : Prop :=
  ∀ (i : Instr) (op : IOp) (d b : Reg) (m : KReg) (A : State → Nat → Nat) (s : State),
    intOf i = some (op, d, b, m, A) → Direct s → Granted s →
      ∃ X, exec i s = .next (vectorDone (withV s d X)) ∧
        Dense (wd s) (vl s) X fun j => if act s m j then r108 (wd s) op (el s b j) (A s j) else el s d j

/-- R109: `va.merge` writes every element below VL: A where the mask bit is 1 (or km is 000), vs2 elsewhere. -/
def Obligations.MergeElements : Prop :=
  ∀ (i : Instr) (d b : Reg) (m : KReg) (A : State → Nat → Nat) (s : State),
    mergeOf i = some (d, b, m, A) → Direct s → Granted s →
      ∃ X, exec i s = .next (vectorDone (withV s d X)) ∧
        Dense (wd s) (vl s) X fun j => if act s m j then A s j else el s b j

/-- R161 to R163: the FVV and FVX instructions under an FP format: the elements, and the flags of the active ones. -/
def Sys2Proof.Claims.FpElements : Prop :=
  ∀ (i : Instr) (op : FArith) (d b : Reg) (m : KReg) (A : State → Nat → Nat) (F : FpFmt) (s : State),
    fpOf i = some (op, d, b, m, A) → Direct s → Granted s → fpFmt (cfgFmt s.t.vcfg) = some F →
      let r := fun j => farith F (cfgRM s.t.vcfg) (cfgSat s.t.vcfg) op (el s b j) (A s j) (el s d j)
      ∃ X f, exec i s = .next (vectorDone (withFlags (withV s d X) f)) ∧
        (Dense (wd s) (vl s) X fun j => if act s m j then (r j).1 else el s d j) ∧ Raised s m f fun j => (r j).2

/-- R164 to R166: the unary FP instructions under an FP format. -/
def Sys2Proof.Claims.FpUnaryElements : Prop :=
  ∀ (i : Instr) (d b : Reg) (m : KReg) (op : FpFmt → RMode → Bool → Nat → Nat × Flags) (F : FpFmt) (s : State),
    fpUnOf i = some (d, b, m, op) → Direct s → Granted s → fpFmt (cfgFmt s.t.vcfg) = some F →
      let r := fun j => op F (cfgRM s.t.vcfg) (cfgSat s.t.vcfg) (el s b j)
      ∃ X f, exec i s = .next (vectorDone (withFlags (withV s d X) f)) ∧
        (Dense (wd s) (vl s) X fun j => if act s m j then (r j).1 else el s d j) ∧ Raised s m f fun j => (r j).2

/-- R110, R161: under a format that is no FP format, the FP instructions and compares raise an illegal-instruction trap with
the word, after the retirement, and write nothing. -/
def Sys2Proof.Claims.FpFormatTrap : Prop :=
  ∀ (i : Instr) (s : State), Direct s → fpFmt (cfgFmt s.t.vcfg) = none →
    ((fpOf i).isSome ∨ (fpUnOf i).isSome ∨ (fcmpOf i).isSome) →
      ∀ w, encode i = some w →
        exec i s = .next (vectorTrapped s 2 (w.setWidth 64))

/-- R167: `va.fcvt` from an integer or FP format: register j of the destination group holds its share of the elements below
VL, at the destination's width; LEN is that of the share. -/
def Obligations.Conversion : Prop :=
  ∀ (d a b : Reg) (m : KReg) (s : State), Direct s → Granted s → fcvtCode a = true →
    (isIntFmt (cfgFmt s.t.vcfg) = true ∨ (fpFmt (cfgFmt s.t.vcfg)).isSome) →
      let w := fmtWidth a.toNat
      let g := Nat.max 1 (w / wd s)
      let n := 32768 / w
      let r := fun j => convert (cfgFmt s.t.vcfg) a.toNat (cfgRM s.t.vcfg) (cfgSat s.t.vcfg) (el s b j)
      d.toNat % g = 0 →
        ∃ V f, exec (.vaFcvt d a b m) s = .next (vectorDone (withFlags { s with t := { s.t with v := V } } f)) ∧
          Raised s m f (fun j => (r j).2) ∧
          ∀ q : Fin 32,
            if d.toNat ≤ q.val ∧ q.val < d.toNat + g then
              Dense w (Nat.min n (vl s - (q.val - d.toNat) * n)) V[q] fun p =>
                if act s m ((q.val - d.toNat) * n + p) then (r ((q.val - d.toNat) * n + p)).1 else elem w s.t.v[q].bits p
            else V[q] = s.t.v[q]

/-- R110: an integer compare sets the bit of each active element, keeps inactive bits below VL, clears those above. -/
def Sys2Proof.Claims.IntegerCompares : Prop :=
  ∀ (i : Instr) (d : KReg) (b a : Reg) (m : KReg) (C : Nat → Nat → Nat → Bool) (s : State),
    cmpOf i = some (d, b, a, m, C) → WellFormed i → Direct s → Granted s →
      ∃ K, exec i s = .next (vectorDone (withK s d K)) ∧
        Mask (vl s) K fun j => if act s m j then C (wd s) (el s b j) (el s a j) else kb s d j

/-- R110: an FP compare, with its flags. -/
def Sys2Proof.Claims.FpCompares : Prop :=
  ∀ (i : Instr) (d : KReg) (b a : Reg) (m : KReg) (op : FCmp) (F : FpFmt) (s : State),
    fcmpOf i = some (d, b, a, m, op) → WellFormed i → Direct s → Granted s → fpFmt (cfgFmt s.t.vcfg) = some F →
      let r := fun j => fcmp F op (el s b j) (el s a j)
      ∃ K f, exec i s = .next (vectorDone (withFlags (withK s d K) f)) ∧
        (Mask (vl s) K fun j => if act s m j then (r j).1 else kb s d j) ∧ Raised s m f fun j => (r j).2

/-- R111: mask logic computes each bit below VL and clears every bit at and above VL. -/
def Obligations.MaskLogic : Prop :=
  ∀ (i : Instr) (d : KReg) (f : State → Nat → Bool) (s : State),
    logicOf i = some (d, f) → WellFormed i → Direct s → Granted s →
      ∃ K, exec i s = .next (vectorDone (withK s d K)) ∧ Mask (vl s) K (f s)

/-- R112, R172: moves and generators. -/
def Sys2Proof.Claims.MovesAndGenerators : Prop :=
  ∀ (i : Instr) (d : Reg) (m : KReg) (f : State → Nat → Nat) (s : State),
    moveOf i = some (d, m, f) → Direct s → Granted s →
      ∃ X, exec i s = .next (vectorDone (withV s d X)) ∧
        Dense (wd s) (vl s) X fun j => if act s m j then f s j else el s d j

/-- R169: the integer reductions over the active elements. -/
def Sys2Proof.Claims.IntegerReductions : Prop :=
  ∀ (i : Instr) (d b : Reg) (m : KReg) (f : Nat → List Nat → Nat) (s : State),
    redOf i = some (d, b, m, f) → Direct s → Granted s →
      ∃ X, exec i s = .next (vectorDone (withV s d X)) ∧
        Reduced (wd s) (vl s) X (f (wd s) ((actives s b m).map Prod.snd)) none

/-- R170: `va.redmaxi` gives the signed maximum of the active elements and the lowest index that holds it; with none active,
the least number and 0xFFFFFFFF. -/
def Sys2Proof.Claims.MaximumWithIndex : Prop :=
  ∀ (d b : Reg) (m : KReg) (s : State), Direct s → Granted s →
    ∃ X val idx, exec (.vaRedmaxi d b m) s = .next (vectorDone (withV s d X)) ∧ Reduced (wd s) (vl s) X val (some idx) ∧
      ((actives s b m = [] ∧ val = 2 ^ (wd s - 1) ∧ idx = 0xFFFFFFFF) ∨
        ((idx, val) ∈ actives s b m ∧ (∀ p ∈ actives s b m, sgn (wd s) p.2 ≤ sgn (wd s) val) ∧
          ∀ p ∈ actives s b m, p.1 < idx → sgn (wd s) p.2 < sgn (wd s) val))

/-- R157, R158, R169, R170: the FP reductions under an FP format. NV is raised exactly for an active signalling NaN by the
maxima and minima; the tree of a sum under LAM = 0 is open (R158), so there the sum is some value. -/
def Sys2Proof.Claims.FpReductions : Prop :=
  ∀ (d b : Reg) (m : KReg) (F : FpFmt) (s : State), Direct s → Granted s → fpFmt (cfgFmt s.t.vcfg) = some F →
    let xs := (actives s b m).map Prod.snd
    let nv : Flags := if xs.any fun x => (fpDecode F x).isSig then 1 else 0
    (∃ X, exec (.vaFredmax d b m) s = .next (vectorDone (withV (withFlags s nv) d X)) ∧
      Reduced (wd s) (vl s) X (fredBest F true xs) none) ∧
    (∃ X, exec (.vaFredmin d b m) s = .next (vectorDone (withV (withFlags s nv) d X)) ∧
      Reduced (wd s) (vl s) X (fredBest F false xs) none) ∧
    (∃ X, exec (.vaFredmaxi d b m) s = .next (vectorDone (withV (withFlags s nv) d X)) ∧
      Reduced (wd s) (vl s) X (fpArgMax F (actives s b m)).1 (some (fpArgMax F (actives s b m)).2)) ∧
    ∃ X val f, exec (.vaFredsum d b m) s = .next (vectorDone (withFlags (withV { s with free := s.free + 1 } d X) f)) ∧
      Reduced (wd s) (vl s) X val none ∧
      (cfgLam s.t.vcfg = true →
        val = ((blockSums F (cfgRM s.t.vcfg) (cfgSat s.t.vcfg)
          (fun i => if decide (i < vl s) && act s m i then some (el s b i) else none) ((vl s + 31) / 32)).1.map
            fun v => if (fpDecode F v).isNan then F.nanPat else v).getD 0)

/-- R113, R131, R171, R265: instructions that write an x register from registers alone; x0 discards. -/
def Sys2Proof.Claims.ToScalar : Prop :=
  ∀ (i : Instr) (d : Reg) (f : State → Word) (s : State), toXOf i = some (d, f) → Direct s → Granted s →
    exec i s = .next (vectorDone (withX s d (f s)))

/-- R173, R174: the PERM group; every element below VL is written. -/
def Obligations.Permutations : Prop :=
  ∀ (i : Instr) (d : Reg) (f : State → Nat → Nat) (s : State), permOf i = some (d, f) → Direct s → Granted s →
    ∃ X, exec i s = .next (vectorDone (withV s d X)) ∧ Dense (wd s) (vl s) X (f s)

/-- R132: `vp.setd` narrows a descriptor, elements unchanged: KIND becomes DENSE or stays, LEN does not grow, KEY is 0 with
DENSE; any other x[a] raises SORT-STATE with the register's number. -/
def Obligations.SetDescriptor : Prop :=
  ∀ (d a : Reg) (s : State), Direct s →
    let r := s.t.v[d.toNat]
    let k := (xr s a).toNat % 4
    let n := (xr s a).toNat / 16 % 4096
    if (k = 0 ∨ (k < 3 ∧ k = kindCode r.kind)) ∧ n ≤ r.len.toNat then
      exec (.vpSetd d a) s = .next (vectorDone (withV s d { r with
        kind := if k = 0 then .dense else r.kind, len := BitVec.ofNat 12 n, key := if k = 0 then 0 else r.key }))
    else
      exec (.vpSetd d a) s = .next (vectorTrapped s 24 (word d.toNat))

/-- R119, R123: `vp.sort` at a 32-bit format: a RUN under `vkey` that is a permutation of the source's elements, with no element
before the one that precedes it. -/
def Sys2Proof.Claims.Sorting : Prop :=
  ∀ (d b : Reg) (s : State), Direct s → Granted s → Wide s →
    ∃ X xs, exec (.vpSort d b) s = .next (vectorDone (withV s d X)) ∧ Holds .run s.t.vkey (vl s) X xs ∧
      xs.Perm (run s b) ∧ sortedUnder s.t.vkey xs = true

/-- R124, R373: `vp.chk` and `vp.spk` give 1 and mark the source's mapping where its elements are in order, else 0 and nothing
else changes. -/
def Sys2Proof.Claims.CheckAndMark : Prop :=
  ∀ (d b : Reg) (s : State), Direct s → Granted s → Wide s →
    let len := BitVec.ofNat 12 (run s b).length
    exec (.vpChk d b) s = .next (vectorDone (
      if sortedUnder s.t.vkey (run s b) then
        withX (withV s b { s.t.v[b.toNat] with kind := .run, key := s.t.vkey, len := len }) d 1
      else withX s d 0)) ∧
    exec (.vpSpk d b) s = .next (vectorDone (
      if coordsRise (run s b) then
        withX (withV s b { s.t.v[b.toNat] with kind := .sparse, key := 0x09, len := len }) d 1
      else withX s d 0))

/-- R120, R125 to R129: the SORT instructions over runs, on sources that are RUN or SPARSE under `vkey`. -/
def Sys2Proof.Claims.RunOperations : Prop :=
  ∀ (d a b : Reg) (s : State), Direct s → Granted s → Wide s → RunUnder s a →
    let k := s.t.vkey
    let done := fun (i : Instr) (kind : Kind) (key : Key) (xs : List Nat) =>
      ∃ X, exec i s = .next (vectorDone (withV s d X)) ∧ Holds kind key (vl s) X xs
    done (.vpRank d a b) .dense 0 ((run s b).map fun x => ((run s a).filter fun y => before k y x).length) ∧
    done (.vpPart d a b) .dense 0 ((run s b).map fun x => ((run s a).filter fun y => !before k x y).length) ∧
    (RunUnder s b →
      let out := mergeRuns k ((run s a).length + (run s b).length) (run s a) (run s b)
      done (.vpIsect d a b) .run k ((run s a).filter fun x => (run s b).any fun y => keyEqual k y x) ∧
      done (.vpDiff d a b) .run k ((run s a).filter fun x => !(run s b).any fun y => keyEqual k y x) ∧
      done (.vpUniq d b) .run k (uniqRun k (run s b)) ∧
      (∃ X, exec (.vpMergec d a b) s = .next (vectorDone (withV { s with t := { s.t with
          vmcnt := BitVec.ofNat 13 ((out.take (vl s)).filter Prod.snd).length } } d X)) ∧
        Holds .run k (vl s) X ((out.take (vl s)).map Prod.fst)) ∧
      ∀ p : BitVec 4, ∃ X Y, exec (.vpMerge p a b) s = .next (vectorDone (withV (withV s (p ++ 0#1) X) (p ++ 1#1) Y)) ∧
        Holds .run k (vl s) X ((out.take (vl s)).map Prod.fst) ∧ Holds .run k (vl s) Y ((out.drop (vl s)).map Prod.fst))

/-- R58, R120, R371: a source that is not RUN or SPARSE as required raises SORT-STATE, cause 24, with the number of the first
such register in `stval`; nothing is written. -/
def Sys2Proof.Claims.SortState : Prop :=
  ∀ (d a b : Reg) (p : BitVec 4) (s : State), Direct s → Granted s → Wide s →
    let trap := fun (r : Reg) => vectorTrapped s 24 (word r.toNat)
    (¬ RunUnder s a →
      exec (.vpMerge p a b) s = .next (trap a) ∧ exec (.vpMergec d a b) s = .next (trap a) ∧
      exec (.vpIsect d a b) s = .next (trap a) ∧ exec (.vpDiff d a b) s = .next (trap a) ∧
      exec (.vpRank d a b) s = .next (trap a) ∧ exec (.vpPart d a b) s = .next (trap a)) ∧
    (RunUnder s a → ¬ RunUnder s b →
      exec (.vpMerge p a b) s = .next (trap b) ∧ exec (.vpMergec d a b) s = .next (trap b) ∧
      exec (.vpIsect d a b) s = .next (trap b) ∧ exec (.vpDiff d a b) s = .next (trap b)) ∧
    (¬ SparseSrc s a → exec (.vpSpadd d a b) s = .next (trap a) ∧ exec (.vpSpmul d a b) s = .next (trap a)) ∧
    (SparseSrc s a → ¬ SparseSrc s b →
      exec (.vpSpadd d a b) s = .next (trap b) ∧ exec (.vpSpmul d a b) s = .next (trap b)) ∧
    (¬ SparseSrc s b → exec (.vpSpx d b) s = .next (trap b) ∧ exec (.vpSpcoord d b) s = .next (trap b) ∧
      exec (.vpSpval d b) s = .next (trap b))

/-- R130, R371 to R377: keys, and the SPARSE group on sources that R371 accepts. -/
def Sys2Proof.Claims.SparseOperations : Prop :=
  ∀ (d a b : Reg) (s : State), Direct s → Granted s → Wide s →
    let f := cfgFmt s.t.vcfg
    let done := fun (i : Instr) (kind : Kind) (key : Key) (xs : List Nat) =>
      ∃ X, exec i s = .next (vectorDone (withV s d X)) ∧ Holds kind key (vl s) X xs
    done (.vpKeys d b) .dense 0 ((run s b).map (keyOut s.t.vkey)) ∧
    done (.vpSpbuild d b) .sparse 0x09
      (((run s b).zipIdx.filter fun p => p.1 % 65536 ≠ 0).map fun p => p.2 * 65536 + p.1 % 65536) ∧
    (SparseSrc s b →
      done (.vpSpx d b) .dense 0 ((List.range (vl s)).map fun i => ofInt 32 (wide16 f (valAt (run s b) i))) ∧
      done (.vpSpcoord d b) .dense 0 ((run s b).map fun x => x / 65536) ∧
      done (.vpSpval d b) .dense 0 ((run s b).map fun x => ofInt 32 (wide16 f (x % 65536))) ∧
      (SparseSrc s a →
        done (.vpSpadd d a b) .sparse 0x09 (spCombine false (vl s) (run s a) (run s b)) ∧
        done (.vpSpmul d a b) .sparse 0x09 (spCombine true (vl s) (run s a) (run s b)) ∧
        exec (.vpSpdot d a b) s = .next (vectorDone (withX s d (BitVec.ofInt 64 (spDot f (run s a) (run s b)))))))

/-- R300 to R304: the GATE group. -/
def Sys2Proof.Claims.GateOperations : Prop :=
  ∀ (d a b : Reg) (s : State), Direct s → Granted s → Wide s →
    let src := fun (r : Reg) i => (run s r).getD i 0
    let done := fun (i : Instr) (xs : List Nat) =>
      ∃ X, exec i s = .next (vectorDone (withV s d X)) ∧ Holds .dense 0 (vl s) X xs
    (let E := (xr s a).toNat / 256 % 256
     let k := (xr s a).toNat % 256
     0 < k → k ≤ E → done (.vpTopk d a b) (topkGroups s.t.vkey E k (vl s) ((List.range (vl s)).map (src b)))) ∧
    ((xr s a).toNat ≤ 1024 → done (.vpHist d a b)
      ((List.range (min (xr s a).toNat (vl s))).map fun n => ((run s b).filter fun x => x == n).length)) ∧
    done (.vpScan d b) ((List.range (vl s)).map fun i => ((List.range i).map (src b)).sum % 2 ^ 32) ∧
    done (.vpScani d b) ((List.range (vl s)).map fun i => ((List.range (i + 1)).map (src b)).sum % 2 ^ 32) ∧
    done (.vpGperm d a b) ((List.range (vl s)).map fun i =>
      (src a (src b i) + ((List.range i).filter fun j => src b j == src b i).length) % 2 ^ 32)

/-- R22, R98, R99: `va.setvl` grants min(x[a], VLMAX) to `vl` and rd, the share becomes NEXT, and without a hint nothing else
changes; `va.setvl.p` with no request pending does the same (R31). -/
def Sys2Proof.Claims.LengthGrant : Prop :=
  ∀ (d a : Reg) (s : State),
    let n := min (xr s a).toNat (cfgVlmax s.t.vcfg)
    let u := scalarDone (withX { s with t := { s.t with vl := BitVec.ofNat 13 n, share := s.t.nextShare } } d (word n))
    exec (.vaSetvl d a 0) s = .next u ∧ (s.t.preempt = none → exec (.vaSetvlP d a 0) s = .next u)

/-- R31, R353: with a request pending, `va.setvl.p` waits for the vector queue; then, where a register is FULL or a push is in
progress and no earlier try has found neither, it grants; else, its copies being over and the save area and context descriptor sound and
not locked, it delivers PREEMPT, cause 29, at its own address, with `vl`, `vshare`, the scalar registers and the vector state unchanged, and
STATE becomes PREEMPTED. While copies run or a line that it must write is locked it waits, and its request is one that PREEMPT ends (R235,
R255, R353). -/
def Sys2Proof.Claims.PreemptionPoint : Prop :=
  ∀ (d a b : Reg) (s : State), s.t.preempt.isSome → s.t.task.isSome →
    (s.t.queue ≠ [] → exec (.vaSetvlP d a b) s = .next { s with stalled := true }) ∧
    (s.t.queue = [] → pushBusy s s.t = true → preemptSure s = false → exec (.vaSetvlP d a b) s = exec (.vaSetvl d a b) s) ∧
    (s.t.queue = [] → pushBusy s s.t = false ∨ preemptSure s = true → preemptWaits s = true → ∀ r, s.t.preempt = some r →
      exec (.vaSetvlP d a b) s = .next { s with stalled := true, t := { s.t with preempt := some { r with sure := true } } }) ∧
    (s.t.queue = [] → pushBusy s s.t = false ∨ preemptSure s = true → preemptWaits s = false → s.t.medeleg.getLsbD 29 = true → s.t.mode ≠ .machine →
      areaOk s s.t.sbase s.t.sdesc = true → s.errs = [] → (locOf s (s.t.sdesc.toNat + 8)).isSome →
        ∃ t, exec (.vaSetvlP d a b) s = .next t ∧ t.t.scause = 29 ∧ t.t.stval = 0 ∧ t.t.sepc = s.t.pc ∧ t.t.mode = .supervisor ∧
          t.t.vl = s.t.vl ∧ t.t.x = s.t.x ∧ t.t.v = s.t.v ∧ t.t.k = s.t.k ∧ t.t.share = s.t.share ∧ t.t.nextShare = s.t.nextShare ∧
          t.t.weight = s.t.weight ∧ t.t.preempt = none ∧ t.t.ctxState = .preempted)

/-- R46, R47, R100, R101: `va.setcfg` and `va.setkey` give the old value in rd and take the new one; `vl` falls to the new
VLMAX where it was above it. A value with a reserved field raises an illegal-instruction trap where the queue is empty. -/
def Obligations.Configuration : Prop :=
  ∀ (d a : Reg) (s : State),
    (cfgLegal (xr s a) = true → exec (.vaSetcfg d a) s = .next (scalarDone (withX { s with t := { s.t with
      vcfg := (xr s a).setWidth 12, vl := BitVec.ofNat 13 (min (vl s) (cfgVlmax ((xr s a).setWidth 12))) } } d
        (s.t.vcfg.setWidth 64)))) ∧
    (keyLegal (xr s a) = true → exec (.vaSetkey d a) s =
      .next (scalarDone (withX { s with t := { s.t with vkey := (xr s a).setWidth 6 } } d (s.t.vkey.setWidth 64)))) ∧
    (s.t.queue = [] →
      (cfgLegal (xr s a) = false →
        exec (.vaSetcfg d a) s = .next (takeTrap s false 2 ((0x2000700B#32 ||| (a.setWidth 32 <<< 15) ||| (d.setWidth 32 <<< 7)).setWidth 64) s.t.pc)) ∧
      (keyLegal (xr s a) = false →
        exec (.vaSetkey d a) s = .next (takeTrap s false 2 ((0x3000700B#32 ||| (a.setWidth 32 <<< 15) ||| (d.setWidth 32 <<< 7)).setWidth 64) s.t.pc)))

namespace Sys2Proof.Claims

/-- Memory without translation, checks, locks, owners or an SC ticket in the way: the strand's accesses are untranslated (R362), HBM
begins at physical address `base` (R361), no line fails its check (R402), no line is locked (R255) or owned by an engine (R194); the
maps are canonical. -/
def Plain (s : State) (base : Nat) : Prop :=
  s.Inv ∧ isTranslated (xlateNow s) = false ∧ s.map.hbmb = some base ∧ s.errs = [] ∧
    (∀ n, (sliceAt s n).locks = [] ∧ (sliceAt s n).owned = []) ∧ (s.scOut = none ∨ s.scOut = some s.gid)

/-- The strand's atomics may lock (R255): it holds no lock, no refusal of one is on its way to it, and every slice has ways. -/
def LocksFree (s : State) : Prop :=
  s.t.locks = [] ∧ (∀ l, .lockReply s.gid l false ∉ s.wire) ∧ ∀ n, 0 < cacheWays s n

/-- Whether the `n` bytes at a virtual address lie in HBM. -/
def InHbm (base va n : Nat) : Prop := base ≤ va ∧ va + n ≤ base + hbmSize ∧ va + n ≤ 2 ^ 56

/-- The little-endian number of `n` bytes at a virtual address, each as `f` reads a location (R102). -/
def numAt (f : Nat → Byte) (base va n : Nat) : Nat := ((List.range n).map fun k => (f (va - base + k)).toNat * 256 ^ k).sum

/-- The address of element i at unit stride (R102). -/
def unitAddr (s : State) (a : Reg) (i : Nat) : Nat := ((xr s a).toNat + i * (wd s / 8)) % 2 ^ 64

/-- The address of element i at a stride in bytes (R102). -/
def strideAt (s : State) (a b : Reg) (i : Nat) : Nat :=
  (((xr s a).toNat : Int) + (i : Int) * (xr s b).toInt).emod ((2 ^ 64 : Nat) : Int) |>.toNat

/-- The address of element i of a gather or scatter: the indices are 32 bits, 1,024 to a register (R223). -/
def indexAddr (s : State) (a b : Reg) (i : Nat) : Nat :=
  ((xr s a).toNat + elem 32 (getV s (b.toNat + i / 1024)).bits (i % 1024)) % 2 ^ 64

/-- Whether the index operand begins at a multiple of its group (R223). -/
def IndexOk (s : State) (b : Reg) : Prop := b.toNat % (32 / wd s) = 0

/-- The loads that read memory as the strand's die holds it: destination, mask, the operand's condition and the address of
element i. -/
def loadOf : Instr → Option (Reg × KReg × (State → Prop) × (State → Nat → Nat))
  | .vmLd d a m => some (d, m, fun _ => True, fun s => unitAddr s a)
  | .vmLds d a b m => some (d, m, fun _ => True, fun s => strideAt s a b)
  | .vmLdx d a b m => some (d, m, fun s => IndexOk s b, fun s => indexAddr s a b)
  | .vmLdff d a m => some (d, m, fun _ => True, fun s => unitAddr s a)
  | .vmLdffx d a b m => some (d, m, fun s => IndexOk s b, fun s => indexAddr s a b)
  | .vmLdraw d a m => some (d, m, fun _ => True, fun s => unitAddr s a)
  | _ => none

/-- The stores: source, mask, the operand's condition and the address of element i. -/
def storeOf : Instr → Option (Reg × KReg × (State → Prop) × (State → Nat → Nat))
  | .vmSt d a m => some (d, m, fun _ => True, fun s => unitAddr s a)
  | .vmSts d a b m => some (d, m, fun _ => True, fun s => strideAt s a b)
  | .vmStx d a b m => some (d, m, fun s => IndexOk s b, fun s => indexAddr s a b)
  | .vmStraw d a m => some (d, m, fun _ => True, fun s => unitAddr s a)
  | .vmStsc d a m => some (d, m, fun s => ∀ i, i < vl s → act s m i = true →
      unitAddr s a i % (wd s / 8) = 0 ∧ (s.scOut = none ∨ ∀ j, j < vl s → act s m j = true → j = i), fun s => unitAddr s a)
  | _ => none

/-- The active indices below VL. -/
def actIdx (s : State) (m : KReg) : List Nat := (List.range (vl s)).filter (act s m)

/-- The byte of a location after stores of elements of `n` bytes, in index order: the highest index that covers it decides
(R104). -/
def storedByte (s : State) (base n : Nat) (is : List Nat) (va val : Nat → Nat) (loc : Nat) : Byte :=
  match is.reverse.find? fun i => decide (va i ≤ base + loc) && decide (base + loc < va i + n) with
  | some i => BitVec.ofNat 8 (val i / 256 ^ (base + loc - va i))
  | none => homeByte s loc

/-- What a write to memory may change beside memory itself (R183, R210, R244, R257, R263): stamps, links and caches of slices, line
information, scalar L1s, replicas and updates on their way, answers to deferred waits, reservations, the clocks of values returned;
free numbers drawn; what HBM may still hold of the lines (R406). -/
def WritesOnly (u t : State) : Prop :=
  t = { u with
    t := { u.t with reservation := t.t.reservation, seenV := t.t.seenV }
    mem := t.mem, images := t.images, hbm := t.hbm, slices := t.slices, lines := t.lines, l1 := t.l1, replicas := t.replicas, updates := t.updates
    wire := t.wire, openEpochs := t.openEpochs, peers := t.peers, errs := t.errs, free := t.free } ∧
  ∀ g, g ≠ u.gid → strandAt t g = { strandAt u g with reservation := (strandAt t g).reservation }

/-- What a read of memory may change beside its destination (R182 to R185, R238, R244): the clocks of the values returned, which lines
the caches hold, with the replicas that a line's eviction drops, and what is on its way to replicas. Memory stays. -/
def ReadsOnly (links : Nat → List Link → Prop) (u t : State) : Prop :=
  t = { u with
    t := { u.t with seenV := t.t.seenV }
    slices := t.slices, lines := t.lines, l1 := t.l1, replicas := t.replicas, updates := t.updates } ∧
  (∀ n, sliceAt t n = { sliceAt u n with cache := (sliceAt t n).cache, links := (sliceAt t n).links } ∧ links n (sliceAt t n).links) ∧
  ∀ l, lineAt t l = { lineAt u l with guests := (lineAt t l).guests }

/-- No link of a slice is set or broken. -/
def sameLinks (s : State) (n : Nat) (ls : List Link) : Prop := ls = (sliceAt s n).links

/-- The sequential loop of R253 over the active indices in order: memory as a function, and the old values. -/
def amoLoop (n : Nat) (va : Nat → Nat) (op : Nat → Nat → Nat) : List Nat → (Nat → Byte) → (Nat → Byte) × List (Nat × Nat)
  | [], f => (f, [])
  | i :: r, f =>
    let old := numAt f 0 (va i) n
    let g : Nat → Byte := fun x => if va i ≤ x ∧ x < va i + n then BitVec.ofNat 8 (op i old / 256 ^ (x - va i)) else f x
    ((amoLoop n va op r g).1, (i, old) :: (amoLoop n va op r g).2)

/-- OP(M, V) of R254 for the operations without flags; N is the second register of `vm.amocas`. -/
def r254 (op : VAmo) (w M V N : Nat) : Nat :=
  match op with
  | .add => (M + V) % 2 ^ w
  | .fadd => 0
  | .min => if sgn w V < sgn w M then V else M
  | .max => if sgn w M < sgn w V then V else M
  | .minu => if V < M then V else M
  | .maxu => if M < V then V else M
  | .and => M &&& V
  | .or => M ||| V
  | .xor => M ^^^ V
  | .swap => V
  | .cas => if M = V then N else M

/-- The vector atomics without a floating-point operation: operation, register vs3, base, index, mask, and whether the old values
return. -/
def amoOf : Instr → Option (VAmo × Reg × Reg × Reg × KReg × Bool)
  | .vmAmoadd d a b m => some (.add, d, a, b, m, false)
  | .vmAmomin d a b m => some (.min, d, a, b, m, false)
  | .vmAmomax d a b m => some (.max, d, a, b, m, false)
  | .vmAmominu d a b m => some (.minu, d, a, b, m, false)
  | .vmAmomaxu d a b m => some (.maxu, d, a, b, m, false)
  | .vmAmoand d a b m => some (.and, d, a, b, m, false)
  | .vmAmoor d a b m => some (.or, d, a, b, m, false)
  | .vmAmoxor d a b m => some (.xor, d, a, b, m, false)
  | .vmAmoswap d a b m => some (.swap, d, a, b, m, false)
  | .vmAmocas d a b m => some (.cas, d ++ 0#1, a, b, m, false)
  | .vmAmoaddR d a b m => some (.add, d, a, b, m, true)
  | .vmAmominR d a b m => some (.min, d, a, b, m, true)
  | .vmAmomaxR d a b m => some (.max, d, a, b, m, true)
  | .vmAmominuR d a b m => some (.minu, d, a, b, m, true)
  | .vmAmomaxuR d a b m => some (.maxu, d, a, b, m, true)
  | .vmAmoandR d a b m => some (.and, d, a, b, m, true)
  | .vmAmoorR d a b m => some (.or, d, a, b, m, true)
  | .vmAmoxorR d a b m => some (.xor, d, a, b, m, true)
  | .vmAmoswapR d a b m => some (.swap, d, a, b, m, true)
  | .vmAmocasR d a b m => some (.cas, d ++ 0#1, a, b, m, true)
  | _ => none

/-- The floating-point atomics and updates: their operands and whether the old values return or the addresses are unit stride. -/
def fpAmoOf : Instr → Option (Reg × KReg × Bool × (State → Prop) × (State → Nat → Nat) × (FpFmt → RMode → Nat → Nat → Nat × Flags))
  | .vmAmofadd d a b m => some (d, m, false, fun s => IndexOk s b, fun s => indexAddr s a b, fun F r => fop2 F r false .fadd)
  | .vmAmofaddR d a b m => some (d, m, true, fun s => IndexOk s b, fun s => indexAddr s a b, fun F r => fop2 F r false .fadd)
  | .vmUpdfadd d a m => some (d, m, false, fun _ => True, fun s => unitAddr s a, fun F r => fop2 F r false .fadd)
  | .vmUpdfmax d a m => some (d, m, false, fun _ => True, fun s => unitAddr s a, fun F _ => fminmax F true)
  | .vmUpdfmin d a m => some (d, m, false, fun _ => True, fun s => unitAddr s a, fun F _ => fminmax F false)
  | _ => none

/-- The integer updates: source, base, mask and operation (R231). -/
def updOf : Instr → Option (VAmo × Reg × Reg × KReg)
  | .vmUpdadd d a m => some (.add, d, a, m)
  | .vmUpdmin d a m => some (.min, d, a, m)
  | .vmUpdmax d a m => some (.max, d, a, m)
  | _ => none

end Sys2Proof.Claims

open Sys2Proof Sys2Proof.Machine Sys2Proof.Claims

/-- R102, R103, R223, R226, R227: without translation a load completes: each active element becomes the little-endian number of its bytes as
the die holds them, inactive ones stay, and memory stays as it is. Under FMT 16 to 18 the model's counter of free values
advances. -/
def Sys2Proof.Claims.LoadedElements : Prop :=
  ∀ (i : Instr) (d : Reg) (m : KReg) (ok : State → Prop) (va : State → Nat → Nat) (base : Nat) (s : State),
    loadOf i = some (d, m, ok, va) → Direct s → Granted s → Plain s base → ok s →
      (∀ j ∈ actIdx s m, InHbm base (va s j) (wd s / 8)) →
        ∃ X t, exec i s = .next t ∧
          ReadsOnly (sameLinks s) (vectorDone (withV { s with free := if 16 ≤ cfgFmt s.t.vcfg then s.free + 1 else s.free } d X)) t ∧
          Dense (wd s) (vl s) X fun j =>
            if act s m j then numAt (readByte s (dieOf s.gid)) base (va s j) (wd s / 8) else el s d j

/-- R228, R229, R247, R257: the loads that read elsewhere than near complete. `vm.ldnc` reads through the core's read-only buffer, and may
fill it with lines as their homes hold them; `vm.ldsc` reads at the home and draws a ticket for each active element, of which the strand may hold the first already; `vm.ldgl` reads
at the home, advances the generation and links the lines it reads, all of them where at most 128 elements are active. Memory stays
as it is. -/
def Sys2Proof.Claims.SpecialLoads : Prop :=
  ∀ (d a b : Reg) (m : KReg) (base : Nat) (s : State), Direct s → Granted s → Plain s base →
    let n := wd s / 8
    let free := if 16 ≤ cfgFmt s.t.vcfg then s.free + 1 else s.free
    let val := fun (f : Nat → Byte) (va : Nat → Nat) (X : VReg) =>
      Dense (wd s) (vl s) X fun j => if act s m j then numAt f base (va j) n else el s d j
    ((∀ j ∈ actIdx s m, InHbm base (unitAddr s a j) n) →
      (∃ X t, exec (.vmLdnc d a m) s = .next t ∧ val (rdRo s) (unitAddr s a) X ∧
        ReadsOnly (sameLinks s) (vectorDone (withV { s with robuf := t.robuf, free := t.free } d X)) t ∧
        ∀ q ∈ t.robuf, q ∈ s.robuf ∨ q = (coreOf s.gid, (q.2.1, (lineBytes s q.2.1, homeClock s q.2.1)))) ∧
      ((∀ j ∈ actIdx s m, unitAddr s a j % n = 0) → s.scOut = none ∨ (actIdx s m).length ≤ 1 →
        ∃ X t, exec (.vmLdsc d a m) s = .next t ∧ val (homeByte s) (unitAddr s a) X ∧
          ReadsOnly (sameLinks s) (vectorDone (withV { s with
            free := free
            scTicket := s.scTicket + BitVec.ofNat 64
              (if s.scOut.isSome then (actIdx s m).length - 1 else (actIdx s m).length)
            scOut := none } d X)) t)) ∧
    (IndexOk s b → (∀ j ∈ actIdx s m, InHbm base (indexAddr s a b j) n) →
      ∃ X t, exec (.vmLdgl d a b m) s = .next t ∧ val (homeByte s) (indexAddr s a b) X ∧
        ReadsOnly (fun q ls => ∀ l ∈ ls, l ∈ (sliceAt s q).links ∨ (l.gid = s.gid ∧ l.gen = s.t.gen + 1))
          (vectorDone (withV { s with t := { s.t with gen := s.t.gen + 1 }, free := free } d X)) t ∧
        ((actIdx s m).length ≤ 128 → ∀ j ∈ actIdx s m,
          let line := lineOf (indexAddr s a b j - base)
          ⟨line, s.gid, s.t.gen + 1⟩ ∈ (sliceAt t (homeSlice line)).links))

/-- R211, R212, R230: `vm.ldmc` at a 128-byte aligned base. Where the mask x[b] leaves its own core out, so that the slice serves each
line's request alone, the core holds no multicast record, no request of the strand is unanswered, its port is not stopped (R205, R219), and
no merge window is due to close, it completes with what the homes hold. Where a reply has come for each line, it completes with what the
replies brought, and gives their records up. -/
def Sys2Proof.Claims.MulticastLoad : Prop :=
  ∀ (d a b : Reg) (m : KReg) (base : Nat) (s : State), Direct s → Granted s → Plain s base →
    (xr s a).toNat % 128 = 0 → (∀ j ∈ actIdx s m, InHbm base (unitAddr s a j) (wd s / 8)) →
    (∀ die mask line bs mc bad v, .mcReply die (clusterOf s.gid) mask line bs mc bad v ∉ s.wire) →
    let free := if 16 ≤ cfgFmt s.t.vcfg then s.free + 1 else s.free
    let val := fun (f : Nat → Byte) (X : VReg) =>
      Dense (wd s) (vl s) X fun j => if act s m j then numAt f base (unitAddr s a j) (wd s / 8) else el s d j
    let lines := (actIdx s m).map fun j => lineOf (unitAddr s a j - base)
    let mine : Nat → Record → Bool := fun line r => r.multicast && r.gid == s.gid && r.line == line
    ((xr s b).getLsbD (coreOf s.gid % 16) = false → (∀ r ∈ s.records, r.gid ≠ s.gid ∧ (r.multicast = true → coreOf r.gid ≠ coreOf s.gid)) →
      portStopped s s.gid = false → (∀ n, ∀ w ∈ (sliceAt s n).windows, windowDue s w = false) →
      ∃ X t, exec (.vmLdmc d a b m) s = .next t ∧ val (homeByte s) X ∧
        ReadsOnly (sameLinks s) (vectorDone (withV { s with free := free } d X)) t) ∧
    ((∀ l ∈ lines, (∃ r ∈ s.records, mine l r = true) ∧
        ∀ r ∈ s.records, mine l r = true → r.delivered = true ∧ r.failed = false) →
      ∃ X t, exec (.vmLdmc d a b m) s = .next t ∧
        val (fun loc => ((s.records.find? (mine (lineOf loc))).map fun r => r.bytes.getD (loc % 128) 0).getD 0) X ∧
        ReadsOnly (sameLinks s) (vectorDone (withV { s with
          free := free, records := s.records.filter fun r => !lines.any fun l => mine l r } d X)) t)

/-- R104, R222, R223, R226: without translation a store writes the bytes of each active element, in index order, and no other
byte; the registers, flags and CSRs stay, and of other strands only a reservation may end. -/
def Sys2Proof.Claims.StoredElements : Prop :=
  ∀ (i : Instr) (d : Reg) (m : KReg) (ok : State → Prop) (va : State → Nat → Nat) (base : Nat) (s : State),
    storeOf i = some (d, m, ok, va) → Direct s → Granted s → Plain s base → ok s →
      (∀ j ∈ actIdx s m, InHbm base (va s j) (wd s / 8)) →
        ∃ t, exec i s = .next t ∧
          (∃ tk o, WritesOnly (vectorDone { s with scTicket := tk, scOut := o }) t ∧
            ((∀ x y z, i ≠ .vmStsc x y z) → tk = s.scTicket ∧ o = s.scOut)) ∧
          ∀ loc, homeByte t loc = storedByte s base (wd s / 8) (actIdx s m) (va s) (el s d) loc

/-- R258: without translation a conditional scatter stores the elements whose line the strand has linked under its generation,
keeps their mask bits, and clears those of the others. -/
def Sys2Proof.Claims.ConditionalScatter : Prop :=
  ∀ (d a b : Reg) (m : KReg) (base : Nat) (s : State), m ≠ 0 → Direct s → Granted s → Plain s base → IndexOk s b →
    (∀ j ∈ actIdx s m, InHbm base (indexAddr s a b j) (wd s / 8) ∧ indexAddr s a b j % (wd s / 8) = 0) →
      let line := fun j => lineOf (indexAddr s a b j - base)
      let won := (actIdx s m).filter fun j =>
        (sliceAt s (homeSlice (line j))).links.any fun l => l.line == line j && l.gid == s.gid && l.gen == s.t.gen
      ∃ t K, exec (.vmStcx d a b m) s = .next t ∧ WritesOnly (vectorDone (withK s m K)) t ∧
        (Mask (vl s) K fun j => won.contains j) ∧
        ∀ loc, homeByte t loc = storedByte s base (wd s / 8) won (indexAddr s a b) (el s d) loc

/-- R252 to R254: without translation the vector atomics perform OP on memory element by element in index order; the `.r` forms
write the old values, an inactive element staying as it is. -/
def Sys2Proof.Claims.VectorAtomics : Prop :=
  ∀ (i : Instr) (op : VAmo) (d a b : Reg) (m : KReg) (ret : Bool) (base : Nat) (s : State),
    amoOf i = some (op, d, a, b, m, ret) → Direct s → Granted s → Plain s base → LocksFree s → IndexOk s b →
      [2, 3, 4, 5, 10, 11, 12].contains (cfgFmt s.t.vcfg) = true →
      (∀ j ∈ actIdx s m, InHbm base (indexAddr s a b j) (wd s / 8) ∧ indexAddr s a b j % (wd s / 8) = 0) →
        let r := amoLoop (wd s / 8) (fun j => indexAddr s a b j - base)
          (fun j M => r254 op (wd s) M (el s d j) (elem (wd s) (getV s (d.toNat + 1)).bits j)) (actIdx s m) (homeByte s)
        ∃ t X, exec i s = .next t ∧ WritesOnly (vectorDone (if ret then withV s d X else s)) t ∧
          (ret = true → Dense (wd s) (vl s) X fun j =>
            if act s m j then ((r.2.find? fun p => p.1 == j).map Prod.snd).getD 0 else el s d j) ∧
          ∀ loc, homeByte t loc = r.1 loc

/-- R231: without translation the integer updates perform OP on consecutive elements of memory. -/
def Sys2Proof.Claims.Updates : Prop :=
  ∀ (i : Instr) (op : VAmo) (d a : Reg) (m : KReg) (base : Nat) (s : State),
    updOf i = some (op, d, a, m) → Direct s → Granted s → Plain s base → (xr s a).toNat % (wd s / 8) = 0 →
      (∀ j ∈ actIdx s m, InHbm base (unitAddr s a j) (wd s / 8)) →
        let r := amoLoop (wd s / 8) (fun j => unitAddr s a j - base)
          (fun j M => r254 op (wd s) M (el s d j) 0) (actIdx s m) (homeByte s)
        ∃ t, exec i s = .next t ∧ WritesOnly (vectorDone s) t ∧ ∀ loc, homeByte t loc = r.1 loc

/-- R231, R252 to R254: the floating-point atomics and updates, likewise, with the flags of their operations. -/
def Sys2Proof.Claims.FpAtomicsAndUpdates : Prop :=
  ∀ (i : Instr) (d : Reg) (m : KReg) (ret : Bool) (ok : State → Prop) (va : State → Nat → Nat)
    (op : FpFmt → RMode → Nat → Nat → Nat × Flags) (F : FpFmt) (base : Nat) (s : State),
    fpAmoOf i = some (d, m, ret, ok, va, op) → Direct s → Granted s → Plain s base → LocksFree s → ok s →
      [10, 11, 12].contains (cfgFmt s.t.vcfg) = true → fpFmt (cfgFmt s.t.vcfg) = some F →
      (∀ j ∈ actIdx s m, InHbm base (va s j) (wd s / 8) ∧ va s j % (wd s / 8) = 0) →
        let r := amoLoop (wd s / 8) (fun j => va s j - base) (fun j M => (op F (cfgRM s.t.vcfg) M (el s d j)).1) (actIdx s m)
          (homeByte s)
        ∃ t X f, exec i s = .next t ∧ WritesOnly (vectorDone (withFlags (if ret then withV s d X else s) f)) t ∧
          (ret = true → Dense (wd s) (vl s) X fun j =>
            if act s m j then ((r.2.find? fun p => p.1 == j).map Prod.snd).getD 0 else el s d j) ∧
          (∀ n, f.getLsbD n = true ↔ ∃ p ∈ r.2, (op F (cfgRM s.t.vcfg) p.2 (el s d p.1)).2.getLsbD n = true) ∧
          ∀ loc, homeByte t loc = r.1 loc

namespace Sys2Proof.Claims

/-- What a fence may change (R241, R244): what the strand remembers of its reads, epochs and clocks, updates on their way and the
replicas they reach. -/
def Synced (u t : State) : Prop :=
  t = { u with
    t := { u.t with qclock := t.t.qclock, sclock := t.t.sclock, seen := t.t.seen, seenV := t.t.seenV }
    clocks := t.clocks, openEpochs := t.openEpochs, updates := t.updates, replicas := t.replicas, l1 := t.l1 }

/-- A fence at scope n (R241, R244, R248): no later copy misses what the strand's scalar stores wrote before; from DIE on the die's open epoch closes, which advances its clock, and the clocks of the
reads are taken in; from PACKAGE on no write of the die is still on its way to a guest. -/
def Fenced (s u : State) (n : Nat) : Prop :=
  let f := { s with t := { s.t with unfenced := [] } }
  Synced f u ∧ (n < 3 → u = f) ∧
    (3 ≤ n → dieOf s.gid ∉ u.openEpochs ∧ u.t.seen = Clock4.zero ∧ u.t.seenV = Clock4.zero ∧
      (clockAt u (dieOf s.gid)).get (dieOf s.gid) = (clockAt s (dieOf s.gid)).get (dieOf s.gid) + 1) ∧
    (4 ≤ n → ∀ x ∈ u.updates, x.origin = dieOf s.gid → 4 ≤ x.die)

/-- What a write with a fence may change: what a write and what a fence may. -/
def WritesAndSyncs (u t : State) : Prop :=
  t = { u with
    t := { u.t with reservation := t.t.reservation, qclock := t.t.qclock, sclock := t.t.sclock, seen := t.t.seen, seenV := t.t.seenV }
    mem := t.mem, images := t.images, hbm := t.hbm, slices := t.slices, lines := t.lines, l1 := t.l1, replicas := t.replicas, updates := t.updates
    wire := t.wire, openEpochs := t.openEpochs, clocks := t.clocks, peers := t.peers, errs := t.errs, free := t.free } ∧
  ∀ g, g ≠ u.gid → strandAt t g = { strandAt u g with reservation := (strandAt t g).reservation }

/-- The state in which an instruction that writes an x register has been pushed into the empty queue and waits there, the scalar
stream standing at it (R17, R19). -/
def WaitsAt (s : State) (i : Instr) (t : State) : Prop :=
  (t.t.queue.map fun e => (e.instr, e.pc, e.done)) = [(i, s.t.pc, false)] ∧ t.t.pc = s.t.pc

/-- What a sleep that exits leaves beside its mask (R244, R259): the clocks of the words it read, what is on its way to the die's replicas,
and no wake that waits for it. -/
def Awake (s u : State) : Prop :=
  u = { s with
    t := { s.t with seenV := u.t.seenV, wake := false }
    updates := u.updates, replicas := u.replicas, l1 := u.l1 }

/-- The lowest tag of a set (R234). -/
def Lowest (M : Word) (n : Nat) : Prop := M.getLsbD n = true ∧ ∀ k, k < n → M.getLsbD k = false

/-- The copy that a descriptor at a virtual address starts (R192, R233). -/
def CopyIs (s : State) (base va n : Nat) (j : CopyJob) : Prop :=
  let D := fun off k => numAt (readByte s (dieOf s.gid)) base (va + off) k
  j.gid = s.gid ∧ j.tag = n ∧ j.xl = xlateNow s ∧ j.outcome = none ∧ j.started = false ∧ j.pos = 0 ∧ j.got = [] ∧ j.missed = s.t.unfenced ∧ j.held = [] ∧ j.pages = [] ∧
    j.src.toNat = D 0 8 ∧ j.dst.toNat = D 8 8 ∧ j.rowlen = D 16 4 ∧ j.rows = D 20 4 ∧
    j.sstride.toNat = D 24 8 ∧ j.dstride.toNat = D 32 8 ∧
    j.fill = decide (D 40 8 % 4 = 1) ∧ j.alloc = decide (D 40 8 / 4 % 2 = 1) ∧
    (j.bad = true ↔ va % 64 ≠ 0 ∨ D 16 4 = 0 ∨ D 20 4 = 0 ∨ 2 ≤ D 40 8 % 4 ∨ 8 ≤ D 40 8 ∨ D 48 16 ≠ 0)

end Sys2Proof.Claims

open Sys2Proof Sys2Proof.Machine Sys2Proof.Claims

/-- R232, R241, R249, R260: `vm.fence` and `vm.rofence`, and that an instruction of the SYNC or COPY group whose mask bit 0 is 0
completes with no effect, or with 0 in its rd. -/
def Sys2Proof.Claims.Fences : Prop :=
  ∀ (d a b : Reg) (m : KReg) (s : State), Direct s → s.Inv →
    (act s m 0 = true →
      (∃ u, exec (.vmFence a m) s = .next (vectorDone u) ∧ Fenced s u a.toNat) ∧
      ∃ u, exec (.vmRofence m) s = .next (vectorDone { u with robuf := u.robuf.filter fun p => p.1 != coreOf s.gid }) ∧
        Fenced s u 3) ∧
    (act s m 0 = false →
      (∀ i ∈ [Instr.vmFence a m, .vmFenceb a b m, .vmBwait a b m, .vmRofence m, .vmCp a b m, .vmCpclr a m],
        exec i s = .next (vectorDone s)) ∧
      ∀ i ∈ [Instr.vmCpwany d a m, .vmCpwall d a m, .vmCpffr d a m], exec i s = .next (vectorDone (withX s d 0)))

/-- R261, R262: an arrival at a barrier without translation: where ARRIVED + 1 reaches max(EXPECTED, 1), ARRIVED becomes 0 and
PHASE advances, else ARRIVED advances; no other byte changes. At an address that is not a multiple of 16 `vm.fenceb` traps with
cause 6, `vm.bwait` with cause 4, and nothing is performed. -/
def Sys2Proof.Claims.BarrierArrival : Prop :=
  ∀ (a b : Reg) (m : KReg) (base : Nat) (s : State), Direct s → act s m 0 = true →
    let va := (xr s a).toNat
    (va % 16 ≠ 0 → exec (.vmFenceb a b m) s = .next (vectorTrapped s 6 (xr s a)) ∧
      exec (.vmBwait a b m) s = .next (vectorTrapped s 4 (xr s a))) ∧
    (va % 16 = 0 → Plain s base → InHbm base va 16 →
      let expected := max (numAt (homeByte s) base va 4) 1
      let arrived := numAt (homeByte s) base (va + 4) 4 + 1
      let phase := numAt (homeByte s) base (va + 8) 4
      let new := if expected ≤ arrived then (phase + 1) % 2 ^ 32 * 2 ^ 32 else arrived + phase * 2 ^ 32
      ∃ t, exec (.vmFenceb a b m) s = .next t ∧ WritesAndSyncs (vectorDone { s with t := { s.t with unfenced := [] } }) t ∧
        ∀ loc, homeByte t loc =
          if va + 4 ≤ base + loc ∧ base + loc < va + 12 then BitVec.ofNat 8 (new / 256 ^ (base + loc - (va + 4))) else homeByte s loc)

/-- R263: a barrier wait without translation, nothing being on the wire and no request of the strand on the barrier being held: it completes
where PHASE differs from the low 32 bits of x[b], the answer being an acquire; else it waits in the queue, its request held in the home
slice's buffer, or, the buffer's 32 entries being taken, answered NACK. While its request is held it waits, whatever PHASE reads. -/
def Sys2Proof.Claims.BarrierWait : Prop :=
  ∀ (a b : Reg) (m : KReg) (base : Nat) (s : State), Direct s → act s m 0 = true → Plain s base → s.wire = [] →
    let va := (xr s a).toNat
    va % 16 = 0 → InHbm base va 16 →
      let sl := homeSlice (lineOf (va - base))
      let request := Deferred.bwait s.gid (va - base) ((xr s b).setWidth 32)
      let sent := ∃ p, Deferred.bwait s.gid (va - base) p ∈ (sliceAt s sl).deferred
      let waits := fun t : State => exec (.vmBwait a b m) s = .next t ∧ Waits s (.vmBwait a b m) t ∧ t.mem = s.mem
      (sent → ∃ t, waits t ∧ sliceAt t sl = sliceAt s sl) ∧
      (¬ sent →
        if numAt (homeByte s) base (va + 8) 4 ≠ (xr s b).toNat % 2 ^ 32 then
          ∃ u, exec (.vmBwait a b m) s = .next (vectorDone u) ∧ Synced s u ∧ u.t.seen = Clock4.zero ∧
            ∀ e, ((homeClock s (lineOf (va - base))).get e).toNat ≤ (u.t.qclock.get e).toNat
        else
          ∃ t, waits t ∧
            ((sliceAt s sl).deferred.length < 32 →
              sliceAt t sl = { sliceAt s sl with deferred := (sliceAt s sl).deferred ++ [request] }) ∧
            (32 ≤ (sliceAt s sl).deferred.length →
              sliceAt t sl = { sliceAt s sl with nacks := (sliceAt s sl).nacks + 1 } ∧
                t.wire = [.nackBwait s.gid (va - base) ((xr s b).setWidth 32) 64]))

/-- R259: one pass of `vm.gcsleep` without translation: where the matching armed words meet the mode, or a pre-emption request is pending, or
VL is 0, it exits with the matching elements in km; else it waits in the queue. A VL above 1,024 is illegal. -/
def Sys2Proof.Claims.SleepOnWords : Prop :=
  ∀ (d : BitVec 4) (a : Reg) (b : BitVec 1) (m : KReg) (base : Nat) (s : State), Direct s → Granted s →
    let i := Instr.vmGcsleep d a b m
    (1024 < vl s → ∀ w, encode i = some w → exec i s = .next (vectorTrapped s 2 (w.setWidth 64))) ∧
    (vl s ≤ 1024 → Plain s base →
      let addr := fun j => ((xr s a).toNat + elem 32 (getV s (2 * d.toNat)).bits j) % 2 ^ 64
      (∀ j ∈ actIdx s m, InHbm base (addr j) 4 ∧ addr j % 4 = 0) →
        let S := (actIdx s m).filter fun j => numAt (homeByte s) base (addr j) 4 == elem 32 (getV s (2 * d.toNat + 1)).bits j
        if (if b = 1 then S = actIdx s m else S ≠ []) ∨ vl s = 0 ∨ s.t.wake = true ∨ s.t.preempt.isSome then
          ∃ u K, exec i s = .next (vectorDone (if m = 0 then u else withK u m K)) ∧ Awake s u ∧ Mask (vl s) K fun j => S.contains j
        else ∃ t, exec i s = .next t ∧ Waits s i t ∧ t.mem = s.mem ∧ t.t.v = s.t.v ∧ t.t.k = s.t.k)

/-- R192, R232, R233: `vm.cp`: a tag above 63 is illegal; while a copy runs on the tag it waits; a recorded fault of the tag traps
COPY-FAULT, cause 28, the tag's bit in `ctags` being 0; else, without translation, the copy that the 64-byte descriptor gives starts. -/
def Sys2Proof.Claims.CopyBegins : Prop :=
  ∀ (a b : Reg) (m : KReg) (base : Nat) (s : State), Direct s → act s m 0 = true →
    let i := Instr.vmCp a b m
    let n := (xr s b).toNat
    let u := { s with t := { s.t with ctags := s.t.ctags &&& ~~~BitVec.ofNat 64 (2 ^ n) } }
    (64 ≤ n → ∀ w, encode i = some w → exec i s = .next (vectorTrapped s 2 (w.setWidth 64))) ∧
    (n < 64 → (∃ j ∈ s.copies, j.gid = s.gid ∧ j.tag = n) → ∃ t, exec i s = .next t ∧ Waits s i t) ∧
    (n < 64 → (∀ j ∈ s.copies, j.gid = s.gid → j.tag ≠ n) →
      (s.t.cfault.getLsbD n = true → exec i s = .next (vectorTrapped u 28 (word n))) ∧
      (s.t.cfault.getLsbD n = false → Plain s base → InHbm base (xr s a).toNat 64 →
        ∃ j, exec i s = .next (vectorDone { u with copies := s.copies ++ [j] }) ∧ CopyIs s base (xr s a).toNat n j))

/-- R232, R234: the tag waits, the fault record and `vm.cpclr`. -/
def Sys2Proof.Claims.CopyTags : Prop :=
  ∀ (d a : Reg) (m : KReg) (s : State), Direct s → act s m 0 = true →
    let M := xr s a
    let got := s.t.ctags &&& M
    (∀ i ∈ [Instr.vmCpwany d a m, .vmCpwall d a m],
      let met := if i = .vmCpwany d a m then M = 0 ∨ got ≠ 0 else got = M
      (¬ met → ∃ t, exec i s = .next t ∧ WaitsAt s i t) ∧
      (met → s.t.cfault &&& got = 0 → exec i s = .next (vectorDone (withX s d got))) ∧
      (met → ∀ n, Lowest (s.t.cfault &&& got) n → exec i s = .next (scalarTrapped s 28 (word n)))) ∧
    exec (.vmCpffr d a m) s = .next (vectorDone (withX { s with t := { s.t with cfault := s.t.cfault &&& ~~~M } } d
      (s.t.cfault &&& M))) ∧
    ((∃ j ∈ s.copies, j.gid = s.gid ∧ M.getLsbD j.tag = true) →
      ∃ t, exec (.vmCpclr a m) s = .next t ∧ Waits s (.vmCpclr a m) t) ∧
    ((∀ j ∈ s.copies, j.gid = s.gid → M.getLsbD j.tag = false) →
      (∀ n, Lowest (s.t.cfault &&& M) n → exec (.vmCpclr a m) s = .next (vectorTrapped s 28 (word n))) ∧
      (s.t.cfault &&& M = 0 →
        exec (.vmCpclr a m) s = .next (vectorDone { s with t := { s.t with ctags := s.t.ctags &&& ~~~M } })))

/-- R40, R264, R265: a push to a peer with a task, whose registers of the group are EMPTY and promised to no one, in a core where at most 16
stay pending and the shared pool has a spare for each, makes each FULL with VL elements, inactive ones zero; nothing else changes but push messages on the wire. A push to
itself, to a strand above 2,047 or to one with no task, whose context is not force-saved, traps PEER, cause 30. -/
def Sys2Proof.Claims.PushRegisters : Prop :=
  ∀ (d a b : Reg) (m : KReg) (s : State), Direct s → Granted s → s.Inv →
    let g := cfgG s.t.vcfg
    let p := (xr s a).toNat
    let T := strandAt s p
    d.toNat % g = 0 → b.toNat % g = 0 → s.t.bound = none →
      (2048 ≤ p ∨ p = s.gid ∨ (T.task = none ∧ ∀ c ∈ s.suspended, c.forced = true → c.last ≠ p) → exec (.vxPush d a b m) s = .next (vectorTrapped s 30 (word (p % 2048)))) ∧
      (p < 2048 → p ≠ s.gid → T.task.isSome → T.granted = [] →
        (∀ q : Fin 32, d.toNat ≤ q.val → q.val < d.toNat + g → T.pending[q] = none) → corePending s (coreOf p) + g ≤ 16 → g ≤ poolFree s (coreOf p) →
          ∃ t P, exec (.vxPush d a b m) s = .next t ∧
            t = { vectorDone s with peers := t.peers, wire := t.wire } ∧
            (∀ q, q ≠ p → strandAt t q = strandAt (vectorDone s) q) ∧
            strandAt t p = { T with pending := P } ∧
            ∀ q : Fin 32,
              if d.toNat ≤ q.val ∧ q.val < d.toNat + g then
                ∃ X, P[q] = some X ∧ Dense (wd s) (vl s) X fun j =>
                  if act s m j then elem (wd s) (getV s (b.toNat + (q.val - d.toNat))).bits j else 0
              else P[q] = T.pending[q])

/-- R265: `vx.take` of a FULL register makes the pending one its mapping, and EMPTY; of an EMPTY one it waits in the queue. -/
def Sys2Proof.Claims.TakeRegister : Prop :=
  ∀ (d : Reg) (s : State), Direct s →
    match s.t.pending[d.toNat] with
    | some X => exec (.vxTake d) s = .next (vectorDone (withV { s with t := { s.t with pending := s.t.pending.set d.toNat none } } d X))
    | none => ∃ t, exec (.vxTake d) s = .next t ∧ Waits s (.vxTake d) t ∧ t.t.v = s.t.v

namespace Sys2Proof.Claims

/-- The value of `n` bytes at an untranslated address, wherever each lies, as the strand's die reads it. -/
def valAt (s : State) (va n : Nat) : Nat :=
  ((List.range n).map fun k => (match locOf s ((va + k) % 2 ^ 64) with
    | some l => (readByte s (dieOf s.gid) l).toNat
    | none => 0) * 256 ^ k).sum

/-- Whether each of `n` bytes at an untranslated address lies in some memory. -/
def Mapped (s : State) (va n : Nat) : Prop := ∀ k, k < n → (locOf s ((va + k) % 2 ^ 64)).isSome

/-- One accumulator element under LAM = 1 (R159, R160, R273): the K products in blocks of 32 from k = 0, ascending. -/
def products (F : FpFmt) (K : Nat) (x y : Nat → Nat) (c : Nat) : Nat × Flags :=
  (List.range ((K + 31) / 32)).foldl (fun acc b =>
    let p := blockSum ((List.range (min 32 (K - 32 * b))).map fun i => prodTerm F (x (32 * b + i)) (y (32 * b + i)))
    let q := fop2 fp32 .rne false .fadd acc.1 p.1
    (q.1, acc.2 ||| p.2 ||| q.2)) (c, 0)

/-- The registers of a group from d on hold n 32-bit elements each, row r being `E r`; every other register is as before. -/
def Rows (s : State) (d g n : Nat) (V : Vector VReg 32) (E : Nat → Nat → Nat) : Prop :=
  ∀ q : Fin 32, if d ≤ q.val ∧ q.val < d + g then Dense 32 n V[q] (E (q.val - d)) else V[q] = s.t.v[q]

/-- The number of 32-bit words of A, and K of a tile product (R272). -/
def tileDepth (s : State) (a : Reg) : Nat := s.t.v[a.toNat].len.toNat * 32 / wd s

/-- Element `idx` of registers from `b` on, read as one sequence at width w (R272). -/
def seqElem (s : State) (w b idx : Nat) : Nat := elem w (getV s (b + idx / (32768 / w))).bits (idx % (32768 / w))

/-- The tile products (R272, R274, R275): C, A, the first register of B, the number of B's registers, and B[k][n]. -/
def tileOf : Instr → Option (Reg × Reg × Nat × (State → Nat) × (State → Nat → Nat → Nat))
  | .vxMmac d a b => some (d, a, b.toNat, fun s => (tileDepth s a * vl s * wd s + 32767) / 32768,
      fun s k n => seqElem s (wd s) b.toNat (k * vl s + n))
  | .vxMmacs d a e c => some (d, a, 8 * e.toNat, fun s => ((tileDepth s a + 7) / 8 * 2 ^ c.toNat * vl s + 1023) / 1024,
      fun s k n =>
        let slot := fun j => seqElem s 32 (8 * e.toNat) ((k / 8 * 2 ^ c.toNat + j) * vl s + n)
        match (List.range (2 ^ c.toNat)).find? fun j => slot j % 8 == k % 8 with
        | some j => slot j / 65536 % 2 ^ wd s
        | none => 0)
  | _ => none

/-- The least power of two that is not below n, n at most 8 (R272). -/
def powerFor (n : Nat) : Nat := if n ≤ 1 then 1 else if n ≤ 2 then 2 else if n ≤ 4 then 4 else 8

/-- The operand conditions of R272. -/
def TileOk (s : State) (d a b n : Nat) : Prop :=
  let g := cfgG s.t.vcfg
  8 ≤ cfgFmt s.t.vcfg ∧ cfgFmt s.t.vcfg ≤ 11 ∧ vl s ≤ 1024 ∧ a % g = 0 ∧ d % g = 0 ∧
    (∀ r, r < g → (getV s (a + r)).len = (getV s a).len) ∧ 1 ≤ (getV s a).len.toNat ∧ n ≤ 8 ∧ b % powerFor n = 0 ∧
    ∀ x, d ≤ x → x < d + g → ¬(a ≤ x ∧ x < a + g) ∧ ¬(b ≤ x ∧ x < b + n)

/-- Rank of a magnitude in `vx.mcomp` (R293). -/
def rank (F : FpFmt) (x : Nat) : Nat := if (fpDecode F x).isNan then 2 ^ F.w else x % 2 ^ (F.w - 1)

/-- A[m][k] of an unfolded A (R282): a value, or the address it is fetched from. -/
def unfoldedAt (u : Unfold) (w m k : Nat) : Nat ⊕ Nat :=
  if u.oh * u.ow ≤ m then .inl 0
  else
    let h : Int := ((m / u.ow * u.sh + k / u.c / u.kw * u.dh : Nat) : Int) - (u.ph : Int)
    let x : Int := ((m % u.ow * u.sw + k / u.c % u.kw * u.dw : Nat) : Int) - (u.pw : Int)
    if 0 ≤ h ∧ h < u.h ∧ 0 ≤ x ∧ x < u.w then
      .inr ((u.xbase.toNat + h.toNat * u.rpitch + x.toNat * u.ppitch + k % u.c * (w / 8)) % 2 ^ 64)
    else .inl (u.pad % 2 ^ w)

/-- An address modulo 2^64. -/
def wrap (z : Int) : Nat := (z.emod ((2 ^ 64 : Nat) : Int)).toNat

/-- The unfolding descriptor of R281 at an untranslated address. -/
def UnfoldIs (s : State) (base va : Nat) (u : Unfold) : Prop :=
  let D := fun off k => numAt (readByte s (dieOf s.gid)) base (va + off) k
  u.xbase.toNat = D 0 8 ∧ u.h = D 8 2 ∧ u.w = D 10 2 ∧ u.c = D 12 2 ∧ u.oh = D 14 2 ∧ u.ow = D 16 2 ∧ u.kh = D 18 1 ∧
    u.kw = D 19 1 ∧ u.sh = D 20 1 ∧ u.sw = D 21 1 ∧ u.dh = D 22 1 ∧ u.dw = D 23 1 ∧ u.ph = D 24 1 ∧ u.pw = D 25 1 ∧
    u.fmt = D 26 1 ∧ u.pad = D 28 2 ∧ u.rpitch = D 32 4 ∧ u.ppitch = D 36 4

end Sys2Proof.Claims

open Sys2Proof Sys2Proof.Machine Sys2Proof.Claims

/-- R272, R273, R275, R289, R290: a tile product. Rows of C become DENSE with LEN VL; under LAM = 1 each element is C plus the
products in blocks of 32, and the flags are those of the elements; operands that break R272 trap with the word, nothing written. -/
def Obligations.TileProducts : Prop :=
  ∀ (i : Instr) (d a : Reg) (b : Nat) (nB : State → Nat) (B : State → Nat → Nat → Nat) (F : FpFmt) (s : State),
    tileOf i = some (d, a, b, nB, B) → WellFormed i → Direct s → Granted s →
      (¬ TileOk s d.toNat a.toNat b (nB s) → ∀ w, encode i = some w → exec i s = .next (vectorTrapped s 2 (w.setWidth 64))) ∧
      (TileOk s d.toNat a.toNat b (nB s) → fpFmt (cfgFmt s.t.vcfg) = some F →
        let r := fun r n => products F (tileDepth s a) (fun k => elem (wd s) (getV s (a.toNat + r)).bits k) (fun k => B s k n)
          (elem 32 (getV s (d.toNat + r)).bits n)
        ∃ V f E, exec i s = .next (vectorDone (withFlags { s with
            t := { s.t with v := V }, free := if cfgLam s.t.vcfg then s.free else s.free + 1 } f)) ∧
          Rows s d.toNat (cfgG s.t.vcfg) (vl s) V E ∧
          (cfgLam s.t.vcfg = true → (∀ q n, q < cfgG s.t.vcfg → n < vl s → E q n = (r q n).1) ∧
            ∀ k, f.getLsbD k = true ↔ ∃ q n, q < cfgG s.t.vcfg ∧ n < vl s ∧ (r q n).2.getLsbD k = true))

/-- R291: `vx.mzero` writes +0 below VL, LEN VL, under any format; more than 1,024 elements or a misplaced group is illegal. -/
def Obligations.TileZero : Prop :=
  ∀ (d : Reg) (s : State), Direct s → Granted s →
    if d.toNat % cfgG s.t.vcfg = 0 ∧ vl s ≤ 1024 then
      ∃ V, exec (.vxMzero d) s = .next (vectorDone { s with t := { s.t with v := V } }) ∧
        Rows s d.toNat (cfgG s.t.vcfg) (vl s) V fun _ _ => 0
    else ∀ w, encode (.vxMzero d) = some w → exec (.vxMzero d) s = .next (vectorTrapped s 2 (w.setWidth 64))

/-- R278, R292: `vx.mtld` without translation, every element in HBM: row r is loaded from x[a] + r·P with P the signed low 48
bits of x[b]; `vtrows` becomes G. -/
def Sys2Proof.Claims.TileLoad : Prop :=
  ∀ (d a b : Reg) (base : Nat) (s : State), Direct s → Granted s → Plain s base →
    let g := cfgG s.t.vcfg
    let va := fun r j => wrap ((xr s a).toNat + (r : Int) * sgn 48 (xr s b).toNat + ((j * (wd s / 8) : Nat) : Int))
    d.toNat % g = 0 → (∀ r j, r < g → j < vl s → InHbm base (va r j) (wd s / 8)) →
      ∃ V t, exec (.vxMtld d a b) s = .next t ∧
        ReadsOnly (sameLinks s) (vectorDone { s with
          t := { s.t with v := V, vtrows := BitVec.ofNat 4 g }
          free := if 16 ≤ cfgFmt s.t.vcfg then s.free + 1 else s.free }) t ∧
        ∀ q : Fin 32, if d.toNat ≤ q.val ∧ q.val < d.toNat + g then
            Dense (wd s) (vl s) V[q] fun j => numAt (readByte s (dieOf s.gid)) base (va (q.val - d.toNat) j) (wd s / 8)
          else V[q] = s.t.v[q]

/-- R274, R276, R293: `vx.mcomp` keeps, in each group of 8 of a column, the min(N, |P|) positions of largest magnitude, lower
positions first among equals, in ascending order, and fills with +0 at the next indices. -/
def Sys2Proof.Claims.Compression : Prop :=
  ∀ (d : BitVec 2) (a b : Reg) (F : FpFmt) (s : State), Direct s → Granted s → fpFmt (cfgFmt s.t.vcfg) = some F →
    let K := (xr s a).toNat % 65536
    let c := (xr s a).toNat / 65536 % 4
    let N := 2 ^ c
    let src := (K * vl s * wd s + 32767) / 32768
    let total := (K + 7) / 8 * N * vl s
    let out := (total + 1023) / 1024
    let slot := fun (V : Vector VReg 32) e => elem 32 (V[(8 * d.toNat + e / 1024) % 32]'(Nat.mod_lt _ (by decide))).bits (e % 1024)
    1 ≤ K → K ≤ 32768 → c ≤ 2 → 8 ≤ cfgFmt s.t.vcfg → cfgFmt s.t.vcfg ≤ 11 → vl s ≤ 1024 → src ≤ 8 →
      b.toNat % powerFor src = 0 → out ≤ 8 →
        ∃ V, exec (.vxMcomp d a b) s = .next (vectorDone { s with t := { s.t with v := V } }) ∧
          (∀ q : Fin 32, if 8 * d.toNat ≤ q.val ∧ q.val < 8 * d.toNat + out then
              V[q].kind = .dense ∧ V[q].fe = false ∧ V[q].key = 0 ∧
                V[q].len.toNat = min 1024 (total - 1024 * (q.val - 8 * d.toNat)) ∧ V[q].vpi.toNat = (vl s * wd s + 31) / 32 ∧
                ∀ j, V[q].len.toNat ≤ j → elem 32 V[q].bits j = 0
            else V[q] = s.t.v[q]) ∧
          ∀ j n, j < (K + 7) / 8 → n < vl s →
            let P := min 8 (K - 8 * j)
            let x := fun p => seqElem s (wd s) b.toNat ((8 * j + p) * vl s + n)
            ∃ kept : List Nat, kept.Pairwise (· < ·) ∧ kept.length = min N P ∧ (∀ p ∈ kept, p < P) ∧
              (∀ p ∈ kept, ∀ q, q < P → q ∉ kept → rank F (x q) < rank F (x p) ∨ (rank F (x q) = rank F (x p) ∧ p < q)) ∧
              ∀ m, m < N → slot V ((j * N + m) * vl s + n) =
                match kept[m]? with
                | some p => x p * 65536 + p
                | none => P + (m - kept.length)

/-- R23, R281, R296: `vx.munf` without translation, no long product standing in the strand's pending frame: a descriptor in range whose
XBASE lies in a Basket fills the strand's slot; a misaligned address raises cause 4, bad contents FORMAT, and the slot stays. At VL = 0
nothing is read and the slot stays. -/
def Sys2Proof.Claims.UnfoldingSlot : Prop :=
  ∀ (a : Reg) (base : Nat) (s : State), Direct s → Granted s → Plain s base →
    let va := (xr s a).toNat
    (vl s = 0 → exec (.vxMunf a) s = .next (vectorDone s)) ∧
    (0 < vl s → gemmFramed s = false → va % 64 ≠ 0 → exec (.vxMunf a) s = .next (vectorTrapped s 4 (xr s a))) ∧
    (0 < vl s → gemmFramed s = false → va % 64 = 0 → InHbm base va 64 → ∃ u, UnfoldIs s base va u ∧
      let D := fun off k => numAt (readByte s (dieOf s.gid)) base (va + off) k
      let ok := u.h ≠ 0 ∧ u.w ≠ 0 ∧ u.c ≠ 0 ∧ u.oh ≠ 0 ∧ u.ow ≠ 0 ∧ u.kh ≠ 0 ∧ u.kw ≠ 0 ∧ u.sh ≠ 0 ∧ u.sw ≠ 0 ∧ u.dh ≠ 0 ∧
        u.dw ≠ 0 ∧ 8 ≤ u.fmt ∧ u.fmt ≤ 11 ∧ D 27 1 = 0 ∧ D 30 2 = 0 ∧ D 40 24 = 0 ∧
        ∃ l, locOf s u.xbase.toNat = some l ∧ bskLoc ≤ l ∧ l < hostLoc
      (ok → exec (.vxMunf a) s = .next (vectorDone { s with t := { s.t with unfold := some u } })) ∧
      (¬ ok → exec (.vxMunf a) s = .next (vectorTrapped s 26 (xr s a))))

/-- R277, R294, R295: a long product without translation, VL being 1 or more. C takes in every K block; under LAM = 1 each element is C
plus the products of the fetched A and B in blocks of 32; a misaligned descriptor raises cause 4. -/
def Sys2Proof.Claims.LongProducts : Prop :=
  ∀ (d a : Reg) (F : FpFmt) (base : Nat) (s : State), Direct s → Granted s → Plain s base →
    fpFmt (cfgFmt s.t.vcfg) = some F → 0 < vl s →
    let g := cfgG s.t.vcfg
    let va := (xr s a).toNat
    let D := fun off k => numAt (readByte s (dieOf s.gid)) base (va + off) k
    let K := D 24 4
    (va % 64 ≠ 0 → exec (.vxMgemm d a) s = .next (vectorTrapped s 4 (xr s a))) ∧
    (va % 64 = 0 → InHbm base va 64 →
      (K = 0 ∨ 32768 < K → exec (.vxMgemm d a) s = .next (vectorTrapped s 26 (xr s a))) ∧
      (1 ≤ K → K ≤ 32768 → D 32 4 < 2 → D 36 28 = 0 → 8 ≤ cfgFmt s.t.vcfg → cfgFmt s.t.vcfg ≤ 11 → vl s ≤ 1024 →
        d.toNat % g = 0 →
        (D 32 4 = 1 → ∃ u, s.t.unfold = some u ∧ u.fmt = cfgFmt s.t.vcfg ∧ u.kh * u.kw * u.c = K) →
        let A := fun r k => if D 32 4 = 1 then
            (match s.t.unfold with
             | some u => unfoldedAt u (wd s) (D 28 4 + r) k
             | none => .inl 0)
          else .inr (wrap ((D 0 8 : Int) + (r : Int) * sgn 32 (D 16 4) + ((k * (wd s / 8) : Nat) : Int)))
        let bva := fun k n => wrap ((D 8 8 : Int) + (k : Int) * sgn 32 (D 20 4) + ((n * (wd s / 8) : Nat) : Int))
        let x := fun r k => match A r k with
          | .inl v => v
          | .inr p => valAt s p (wd s / 8)
        (∀ r k p, r < g → k < K → A r k = .inr p → Mapped s p (wd s / 8)) →
        (∀ k n, k < K → n < vl s → Mapped s (bva k n) (wd s / 8)) →
          let r := fun r n => products F K (x r) (fun k => valAt s (bva k n) (wd s / 8)) (elem 32 (getV s (d.toNat + r)).bits n)
          ∃ V f E c fr, exec (.vxMgemm d a) s = .next (vectorDone (withFlags { s with
              t := { s.t with v := V, seenV := c }, free := fr } f)) ∧
            Rows s d.toNat g (vl s) V E ∧
            (cfgLam s.t.vcfg = true → fr = s.free ∧ (∀ q n, q < g → n < vl s → E q n = (r q n).1) ∧
              ∀ k, f.getLsbD k = true ↔ ∃ q n, q < g ∧ n < vl s ∧ (r q n).2.getLsbD k = true)))

namespace Sys2Proof.Claims

/-- What the CLAIM group may change (R319, R320): x registers, the claim list, slices, and what a release or an acquire changes. -/
def ClaimFrame (s u : State) : Prop :=
  u = { s with
    t := { s.t with x := u.t.x, claims := u.t.claims, qclock := u.t.qclock, sclock := u.t.sclock, seen := u.t.seen, seenV := u.t.seenV }
    slices := u.slices, wire := u.wire
    clocks := u.clocks, openEpochs := u.openEpochs, updates := u.updates, replicas := u.replicas, l1 := u.l1 }

/-- Every other entry keeps everything but its AGE (R315). -/
def OthersKeep (s u : State) (k n : Nat) : Prop :=
  ∀ k' n', (k', n') ≠ (k, n) → slathAt u k' n' = { slathAt s k' n' with age := (slathAt u k' n').age }

/-- An entry handle (R311), without its code. -/
def handleOf (k n : Nat) (gen : BitVec 24) (lease : BitVec 8) (tag : Nat) : Word :=
  word (n * 2 ^ 3 + k * 2 ^ 9 + gen.toNat * 2 ^ 24 + lease.toNat * 2 ^ 48 + tag * 2 ^ 56)

/-- Slot j of the claim list is the lowest that a test accepts. -/
def FirstSlot (s : State) (ok : ClaimSlot → Prop) (j : Nat) : Prop :=
  j < 32 ∧ ok (s.t.claims.getD j .free) ∧ ∀ i, i < j → ¬ ok (s.t.claims.getD i .free)

/-- Slots that hold a claim handle, or a future handle, apart from the code (R321 to R323). -/
def HoldsMaker (h : Word) (c : ClaimSlot) : Prop := ∃ g, c = .maker g ∧ handleBase g = handleBase h
/-- Slots that hold a future handle. -/
def HoldsFuture (h : Word) (c : ClaimSlot) : Prop := ∃ g, c = .future g ∧ handleBase g = handleBase h

/-- The entry a handle names, and whether the handle is current (R314). -/
def Current (s : State) (h : Word) (e : SlathEntry) : Prop :=
  e = slathAt s (handleSlice h) (handleEntry h) ∧ e.state ≠ .free ∧ e.gen = handleGen h ∧
    (handleTag h = 0x5C → e.lease = handleLease h)

/-- An entry that has become FREE (R312, R315). -/
def Freed (e : SlathEntry) : SlathEntry := { SlathEntry.reset with gen := e.gen + 1, age := e.age }

end Sys2Proof.Claims

open Sys2Proof Sys2Proof.Machine Sys2Proof.Claims

/-- R310, R314, R315, R320: `vx.claim`: BUSY with a full list; an absent name takes the lowest FREE way, else the least recent way that
nothing pins, else BUSY; a name being made gives a future; a vacant one makes the caller its maker; a DONE one gives a
reference. -/
def Sys2Proof.Claims.ClaimName : Prop :=
  ∀ (d a b : Reg) (s : State), Direct s → s.Inv →
    let hi := xr s a
    let lo := xr s b
    let k := slathSlice hi lo
    let at' := fun w => slathSet hi lo * 8 + w
    let e := fun w => slathAt s k (at' w)
    let named := fun w => (e w).state ≠ .free ∧ (e w).hi = hi ∧ (e w).lo = lo
    let free := fun w => (e w).state = .free
    let loose := fun w => (e w).state = .done ∧ (e w).wait = 0 ∧ (e w).refs = 0
    let gives := fun (r : Word) (j : Nat) (c : ClaimSlot) (w : Nat) (v : SlathEntry) =>
      ∃ u, exec (.vxClaim d a b) s = .next (vectorDone u) ∧ ClaimFrame s u ∧ u.t.x = (withX s d r).t.x ∧
        u.t.claims = s.t.claims.set j c ∧ slathAt u k (at' w) = v ∧ OthersKeep s u k (at' w)
    let busy := exec (.vxClaim d a b) s = .next (vectorDone (withX s d 3))
    ((∀ j, j < 32 → s.t.claims.getD j .free ≠ .free) → busy) ∧
    ∀ j, FirstSlot s (fun c => c = .free) j →
      ((∀ w, w < 8 → ¬ named w) →
        (∀ w, w < 8 → free w → (∀ i, i < w → ¬ free i) →
          let h := handleOf k (at' w) (e w).gen 0 0x5C
          gives h j (.maker h) w ⟨hi, lo, 0, .making, false, BitVec.ofNat 11 s.gid, 0, 0, 0, (e w).gen, Clock4.zero, 0⟩) ∧
        ((∀ w, w < 8 → ¬ free w) →
          (∀ w, w < 8 → loose w → (∀ i, i < 8 → loose i → (e i).age < (e w).age ∨ ((e i).age = (e w).age ∧ w ≤ i)) →
            let h := handleOf k (at' w) ((e w).gen + 1) 0 0x5C
            gives h j (.maker h) w ⟨hi, lo, 0, .making, false, BitVec.ofNat 11 s.gid, 0, 0, 0, (e w).gen + 1, Clock4.zero, 0⟩) ∧
          ((∀ w, w < 8 → ¬ loose w) → busy))) ∧
      ∀ w, w < 8 → named w → (∀ i, i < w → ¬ named i) →
        ((e w).state = .making → (e w).vac = true →
          let h := handleOf k (at' w) (e w).gen (e w).lease 0x5C
          gives h j (.maker h) w { e w with vac := false, maker := BitVec.ofNat 11 s.gid }) ∧
        ((e w).state = .making → (e w).vac = false →
          if (e w).wait = 4095#12 then busy
          else
            let h := handleOf k (at' w) (e w).gen 0 0x5D
            gives (h ||| 1) j (.future h) w { e w with wait := (e w).wait + 1 }) ∧
        ((e w).state = .done →
          if (e w).refs = 0xFFFF#16 then busy
          else gives ((e w).value ||| 2) j (.ref k (at' w) (e w).gen (e w).value) w { e w with refs := (e w).refs + 1, age := 0 })

/-- R314, R317, R321, R322, R325: `vx.fulfil`, `vx.abandon` and `vx.release` of what the claim list holds, the handle being
current: the entry's step, the slot freed, and the held future loads answered, those of a fulfilment with the entry's clock. A stale reference raises CLAIM, unless an uncorrectable
error freed its entry: then its slot alone is given up. -/
def Obligations.GivingBack : Prop :=
  ∀ (a b : Reg) (j : Nat) (s : State), Direct s → s.Inv →
    let h := xr s a
    let k := handleSlice h
    let n := handleEntry h
    let held := heldFlds s k n
    let gives := fun (i : Instr) (v : State → SlathEntry) (more : State → List Msg) =>
      ∃ u, exec i s = .next (vectorDone u) ∧ ClaimFrame s u ∧ u.t.x = s.t.x ∧ u.t.claims = s.t.claims.set j .free ∧
        slathAt u k n = v u ∧ OthersKeep s u k n ∧ u.wire = s.wire ++ more u
    (∀ e, Current s h e → FirstSlot s (HoldsMaker h) j → handleTag h = 0x5C → e.state = .making → e.vac = false →
      ((xr s b).toNat % 8 = 0 → canonical (xr s b).toNat = true →
        gives (.vxFulfil a b)
          (fun u => { e with
            state := .done, value := xr s b, maker := 0, age := 0, clock := clockAt u (dieOf s.gid)
            wait := e.wait - BitVec.ofNat 12 held.length, refs := e.refs + BitVec.ofNat 16 held.length })
          (fun u => held.map fun p => .slath p.1 p.2 (xr s b ||| 2) (clockAt u (dieOf s.gid)) false)) ∧
      (FirstSlot s (fun c => HoldsMaker h c ∨ HoldsFuture h c) j →
        match held with
        | p :: _ => gives (.vxAbandon a)
            (fun _ => { e with lease := e.lease + 1, wait := e.wait - 1, maker := BitVec.ofNat 11 p.1 })
            (fun _ => [.slath p.1 p.2 (handleOf k n e.gen (e.lease + 1) 0x5C) Clock4.zero false])
        | [] => gives (.vxAbandon a)
            (fun _ => if e.wait = 0 then Freed e else { e with lease := e.lease + 1, vac := true, maker := 0 }) fun _ => [])) ∧
    (∀ e, Current s h e → FirstSlot s (fun c => HoldsMaker h c ∨ HoldsFuture h c) j → handleTag h = 0x5D →
      gives (.vxAbandon a)
        (fun _ => if e.state = .making ∧ e.vac = true ∧ e.wait = 1 then Freed e else { e with wait := e.wait - 1 }) fun _ => []) ∧
    (∀ k' n' gen, FirstSlot s (fun c => ∃ x y z, c = .ref x y z h) j → s.t.claims.getD j .free = .ref k' n' gen h →
      let e := slathAt s k' n'
      let lost := (sliceAt s k').lost.contains (n', gen) = true
      ((e.state = .done ∧ e.gen = gen) ∨ lost →
        ∃ u, exec (.vxRelease a) s = .next (vectorDone u) ∧ ClaimFrame s u ∧ u.t.x = s.t.x ∧ u.wire = s.wire ∧
          u.t.claims = s.t.claims.set j .free ∧ (lost → slathAt u k' n' = e) ∧
          (¬ lost → slathAt u k' n' = { e with refs := e.refs - 1 })) ∧
      (¬(e.state = .done ∧ e.gen = gen) → ¬ lost → exec (.vxRelease a) s = .next (vectorTrapped s 31 h)))

/-- R314, R316, R323, R324: a future load of a current handle that the claim list holds, nothing being on the wire; and the
probe, which changes nothing. -/
def Sys2Proof.Claims.FutureLoads : Prop :=
  ∀ (d a : Reg) (s : State), Direct s → s.Inv →
    let h := xr s a
    let k := handleSlice h
    let n := handleEntry h
    (∀ j e, s.wire = [] → Current s h e → FirstSlot s (HoldsFuture h) j → handleTag h = 0x5D →
      let gives := fun (r : Word) (c : ClaimSlot) (v : SlathEntry) =>
        ∃ u, exec (.vxFld d a) s = .next (vectorDone u) ∧ ClaimFrame s u ∧ u.t.x = (withX s d r).t.x ∧
          u.t.claims = s.t.claims.set j c ∧ slathAt u k n = v ∧ OthersKeep s u k n
      (e.state = .done → gives (e.value ||| 2) (.ref k n e.gen e.value) { e with wait := e.wait - 1, refs := e.refs + 1, age := 0 }) ∧
      (e.state = .making → e.vac = true →
        let c := handleOf k n e.gen e.lease 0x5C
        gives c (.maker c) { e with wait := e.wait - 1, vac := false, maker := BitVec.ofNat 11 s.gid }) ∧
      (e.state = .making → e.vac = false → e.maker.toNat ≠ s.gid → (sliceAt s k).deferred = [] →
        ∃ t, exec (.vxFld d a) s = .next t ∧ WaitsAt s (.vxFld d a) t ∧
          (sliceAt t k).deferred = [.fld s.gid n (handleBase h)])) ∧
    ((handleTag h = 0x5C ∨ handleTag h = 0x5D) →
      let e := slathAt s k n
      (Current s h e → exec (.vxFprobe d a) s = .next (vectorDone (withX s d (word (
        (if e.state = .making then 1 else 2) + (if e.vac then 4 else 0) +
          (if e.state = .making ∧ e.vac = false ∧ e.maker.toNat = s.gid then 8 else 0) + e.wait.toNat * 2 ^ 4 +
          e.refs.toNat * 2 ^ 16 + e.maker.toNat * 2 ^ 32 + e.lease.toNat * 2 ^ 43))))) ∧
      (¬ Current s h e → exec (.vxFprobe d a) s = .next (vectorDone (withX s d 0))))

/-- R58, R319, R321 to R325: with a handle or value that the claim list does not hold, the CLAIM group raises CLAIM, cause 31, with x[a]
in `stval`, and nothing is changed. -/
def Sys2Proof.Claims.ClaimTraps : Prop :=
  ∀ (d a b : Reg) (s : State), Direct s →
    let h := xr s a
    let none' := fun (ok : ClaimSlot → Prop) => ∀ j, j < 32 → ¬ ok (s.t.claims.getD j .free)
    (none' (HoldsMaker h) → exec (.vxFulfil a b) s = .next (vectorTrapped s 31 h)) ∧
    (none' (HoldsMaker h) → none' (HoldsFuture h) → exec (.vxAbandon a) s = .next (vectorTrapped s 31 h)) ∧
    (none' (HoldsFuture h) → exec (.vxFld d a) s = .next (scalarTrapped s 31 h)) ∧
    (handleTag h ≠ 0x5C → handleTag h ≠ 0x5D → exec (.vxFprobe d a) s = .next (scalarTrapped s 31 h)) ∧
    (none' (fun c => ∃ x y z, c = .ref x y z h) → exec (.vxRelease a) s = .next (vectorTrapped s 31 h))

namespace Sys2Proof.Claims

/-- What the handler of cause 29 finds, the pc of its return being `epc` (R31, R32, R283, R336, R353): STATE is PREEMPTED, the request
is consumed, the unfolding slot is clear, and the registers are as they were. -/
def Preempted (s : State) (epc : Word) (t : State) : Prop :=
  t.t.scause = 29 ∧ t.t.stval = 0 ∧ t.t.sepc = epc ∧ t.t.mode = .supervisor ∧
    t.t.vl = s.t.vl ∧ t.t.x = s.t.x ∧ t.t.v = s.t.v ∧ t.t.k = s.t.k ∧ t.t.share = s.t.share ∧ t.t.nextShare = s.t.nextShare ∧
    t.t.weight = s.t.weight ∧ t.t.preempt = none ∧ t.t.unfold = none ∧ t.t.ctxState = .preempted

/-- The save area and the descriptor at two addresses pass R349, and no line fails its check. -/
def Sound (s : State) (sbase sdesc : Word) : Prop :=
  areaOk s sbase sdesc = true ∧ s.errs = [] ∧ sdesc.toNat % 64 = 0 ∧ inHbm s sdesc.toNat 64 = true

/-- The context can be written under its present CSRs. -/
def AreaSound (s : State) : Prop := Sound s s.t.sbase s.t.sdesc

/-- A strand without a task (R114, R356). -/
def Idle (t : Strand) (st : CtxState) : Prop :=
  t.task = none ∧ t.share = 0 ∧ t.nextShare = 0 ∧ t.weight = 0 ∧ t.queue = [] ∧ t.preempt = none ∧ t.ctxState = st ∧
    t.pending = Vector.replicate 32 none ∧ t.claims = List.replicate 32 .free

/-- The focus strand's watchdog reloaded from WDOG of a descriptor, in units of 100 µs (R348, R358): it runs while STATE is
ACTIVE. -/
def watchdogOf (s : State) (sdesc : Word) : Nat :=
  let n := (descRead s sdesc 6 2).getD 0 * 100 * s.handle.clockMhz
  if n ≠ 0 ∧ s.t.ctxState = .active then s.clock + n else n

/-- A strand's vector and mask state after a pre-emption (R32). -/
def VectorsClear (t : Strand) : Prop :=
  t.v = Vector.replicate 32 VReg.zero ∧ t.k = Vector.replicate 8 0 ∧ t.pending = Vector.replicate 32 none ∧ t.unfold = none ∧
    t.queue = []

/-- The trap of an illegal word of the scalar stream, the queue being empty (R57, R343): the pc is the instruction's. -/
def Illegal (s : State) (i : Instr) : Prop :=
  ∀ w, encode i = some w → exec i s = .next (takeTrap s false 2 (w.setWidth 64) s.t.pc)

end Sys2Proof.Claims

open Sys2Proof Sys2Proof.Machine Sys2Proof.Claims

/-- R23, R334: `vx.spawn` gives 0 at VL = 0 and touches no memory. Else, without translation: the fence, then the record's 256 bytes; an invalid one or a scope wider than DIE gives 1, a full
pool 0; else the node takes the pool's lowest free index and rd its handle. A misaligned record raises cause 4. -/
def Sys2Proof.Claims.Spawning : Prop :=
  ∀ (d a : Reg) (base : Nat) (s : State), Direct s → Plain s base →
    let va := (xr s a).toNat
    let die := dieOf s.gid
    (vl s = 0 → exec (.vxSpawn d a) s = .next (vectorDone (withX s d 0))) ∧
    (0 < vl s → va % 64 ≠ 0 → exec (.vxSpawn d a) s = .next (scalarTrapped s 4 (xr s a))) ∧
    (0 < vl s → va % 64 = 0 → InHbm base va 256 → ∃ u, Fenced s u 3 ∧
      let r := (List.range 256).map fun k => readByte u die (va - base + k)
      ((recValid r = false ∨ 3 < topScope (levelsOf r)) → exec (.vxSpawn d a) s = .next (vectorDone (withX u d 1))) ∧
      (recValid r = true → topScope (levelsOf r) ≤ 3 →
        (4096 ≤ poolCount s die → exec (.vxSpawn d a) s = .next (vectorDone (withX u d 0))) ∧
        (poolCount s die < 4096 → ∀ n, n < 4096 → nodeTaken s die n = false → (∀ i, i < n → nodeTaken s die i = true) →
          let gen := sget 0 s.nodeGen (die * 4096 + n) + 1
          ∃ N, sget 0 N (die * 4096 + n) = gen ∧
            exec (.vxSpawn d a) s = .next (vectorDone (withX { u with
              nodeGen := N
              nextKey := s.nextKey + 1
              launches := s.launches ++ [{ key := s.nextKey, image := r, queue := none, xl := some (xlateNow s), spawner := taskTag s
                                           hold := recHold r == 1, edges := [], nodes := [(die, n)], ready := []
                                           doneClock := Clock4.zero, clock := clockAt u die, place := none, started := []
                                           ended := [] }] } d
              (word (n + die * 2 ^ 12 + gen.toNat * 2 ^ 16 + 0x5E * 2 ^ 56)))))))

/-- R335: `vx.dep` on a held node of the issuing task and a predecessor; else it gives 0. -/
def Sys2Proof.Claims.Dependencies : Prop :=
  ∀ (d a b : Reg) (s : State), Direct s →
    let S := xr s a
    let P := xr s b
    let gives := fun (u : State) (r : Word) => exec (.vxDep d a b) s = .next (vectorDone (withX u d r))
    ((∀ l, launchOfHandle s S = some l → l.hold = true → l.spawner ≠ none → l.spawner ≠ taskTag s) → gives s 0) ∧
    ∀ l, launchOfHandle s S = some l → l.hold = true → l.spawner ≠ none → l.spawner = taskTag s →
      (P = 0 → gives (putLaunch s { l with hold := false }) 1) ∧
      (P ≠ 0 → launchOfHandle s P = none → gives s (if handleForm P then 1 else 0)) ∧
      (P ≠ 0 → ∀ p, launchOfHandle s P = some p →
        let live := l.edges.filter fun k => (launchOf s k).isSome
        (p.hold = true ∨ 4 ≤ live.length → gives s 0) ∧
        (p.hold = false → live.length < 4 → gives (putLaunch s { l with edges := live ++ [p.key] }) 1))

/-- R23, R269, R285, R298: `vx.glaunch` does nothing at VL = 0. Else it forwards its request to its cluster's block, whose queue holds 8; a full one makes it wait; a misaligned
descriptor raises cause 4. -/
def Sys2Proof.Claims.GroupedLaunch : Prop :=
  ∀ (a : Reg) (s : State), Direct s → s.Inv →
    let i := Instr.vxGlaunch a
    let blk := dieOf s.gid * 4 + clusterOf s.gid % 8 / 2
    (vl s = 0 → exec i s = .next (vectorDone s)) ∧
    (0 < vl s → (xr s a).toNat % 64 ≠ 0 → exec i s = .next (vectorTrapped s 4 (xr s a))) ∧
    (0 < vl s → (xr s a).toNat % 64 = 0 → (blockAt s blk).queue.length < 8 → ∃ u B, Fenced s u 3 ∧
      exec i s = .next (vectorDone { u with blocks := B }) ∧
      (∀ n, n ≠ blk → sget GBlock.reset B n = blockAt s n) ∧
      sget GBlock.reset B blk = { blockAt s blk with queue := (blockAt s blk).queue ++
        [⟨xr s a, xlateNow s, (s.t.task.map fun t => t.prio).getD 0, s.t.weight.toNat, s.gid⟩] }) ∧
    (0 < vl s → (xr s a).toNat % 64 = 0 → 8 ≤ (blockAt s blk).queue.length → ∃ t, exec i s = .next t ∧ Waits s i t)

/-- R330, R336, R337: `vx.yield` waits for the queue, then for the strand's copies and for the lines of its save area that are locked, and
takes PREEMPT at the next instruction where a request is pending or a ready node waits, no push being in progress, or where it has found that
before; else it does nothing. A request found while it waits is one that PREEMPT ends. `vx.lvl` gives the task's place. -/
def Sys2Proof.Claims.YieldAndLevels : Prop :=
  ∀ (s : State),
    (s.t.queue ≠ [] → exec .vxYield s = .next { s with stalled := true }) ∧
    (s.t.queue = [] →
      (preemptSure s = false → s.t.task = none ∨ pushBusy s s.t = true ∨ (s.t.preempt = none ∧ readyWaits s = false) →
        exec .vxYield s = .next (scalarDone s)) ∧
      (preemptSure s = true ∨ (s.t.task.isSome ∧ pushBusy s s.t = false ∧ (s.t.preempt.isSome ∨ readyWaits s = true)) →
        (preemptWaits s = true → exec .vxYield s =
          .next { s with stalled := true, t := { s.t with preempt := s.t.preempt.map fun r => { r with sure := true } } }) ∧
        (preemptWaits s = false → s.t.medeleg.getLsbD 29 = true → s.t.mode ≠ .machine → AreaSound s →
          ∃ t, exec .vxYield s = .next t ∧ Preempted s (s.t.pc + 4) t))) ∧
    ∀ (d a : Reg) (k : Task), Direct s → s.t.task = some k →
      let ls := k.levels.map BitVec.toNat
      let n := (xr s a).toNat
      exec (.vxLvl d a) s = .next (vectorDone (withX s d (word (
        if n < 8 then
          (if n < ls.length then
            (if n + 1 < ls.length then k.index / levelWidth ls n % (levelWidth ls (n + 1) / levelWidth ls n)
             else k.index / levelWidth ls n)
           else 0)
        else if n < 16 then (if n - 8 < ls.length then levelUnits ls (n - 8) k.index k.total else 1)
        else 0))))

/-- R114, R115, R255: `vx.end` is illegal without a task, waits for the queue, the copies and a line it writes that is locked, traps on a recorded copy fault, and else ends
the task: the strand is idle, its context-table entry and result space are free, and the completion word of a host launch holds
DONE, the flags and the task id. -/
def Obligations.EndOfTask : Prop :=
  ∀ (s : State),
    (s.t.task = none → s.t.queue = [] → Illegal s .vxEnd) ∧
    (s.t.task.isSome → (s.t.queue ≠ [] ∨ copiesOpen s s.gid = true ∨ closeLocked s s.gid = true) →
      exec .vxEnd s = .next { s with stalled := true }) ∧
    (s.t.task.isSome → s.t.queue = [] → copiesOpen s s.gid = false → closeLocked s s.gid = false → ∀ n, Lowest s.t.cfault n →
      exec .vxEnd s = .next (takeTrap s false 28 (word n) s.t.pc)) ∧
    (∀ k, s.t.task = some k → s.t.queue = [] → copiesOpen s s.gid = false → closeLocked s s.gid = false → s.t.cfault = 0 → s.Inv → Sound s s.t.sbaseNow s.t.sdescNow →
      ∃ t, exec .vxEnd s = .next t ∧ Idle t.t .ended ∧ t.gid = s.gid ∧ k.ctx ∉ t.ctxUsed ∧ (∀ r ∈ t.results, r.1 ≠ k.ctx) ∧
        ∀ l q cbase, launchOf s k.launch = some l → l.queue = some (q, cbase) → recCompl l.image ≠ 0 →
          ∀ n, n < 8 → homeByte t (hostLoc + cbase + 128 * recCompl l.image + 8 * k.index + n) =
            BitVec.ofNat 8 ((1 + s.t.vstat.toNat * 2 + k.id.toNat * 2 ^ 32) / 256 ^ n))

/-- R28, R56, R255, R349, R356, R380: `vx.save` is illegal in user mode, waits for the queue and the copies, and traps at its operand check
with a code above 127, `vcp.PC` being its address and the saved pc the next instruction's; it waits for a line it writes that is locked; code 0
gives the context up, with the frame that PREEMPT wrote or one that resumes after the `vx.save`; 1 to 127 fail the task. -/
def Sys2Proof.Claims.GivingUp : Prop :=
  ∀ (a : Reg) (s : State),
    let i := Instr.vxSave a
    let code := (xr s a).toNat
    (s.t.mode = .user → s.t.queue = [] → Illegal s i) ∧
    (s.t.mode ≠ .user → (s.t.queue ≠ [] ∨ copiesOpen s s.gid = true) → exec i s = .next { s with stalled := true }) ∧
    (s.t.mode ≠ .user → s.t.queue = [] → copiesOpen s s.gid = false →
      (128 ≤ code → ∀ w, encode i = some w → exec i s = .next (vectorTrapped s 2 (w.setWidth 64))) ∧
      (code < 128 → s.t.task.isSome → saveLocked s = true ∨ closeLocked s s.gid = true →
        exec i s = .next { s with stalled := true }) ∧
      (1 ≤ code → code < 128 → s.t.task.isSome → saveLocked s = false → closeLocked s s.gid = false →
        ∃ t, exec i s = .next t ∧ Idle t.t .ended ∧ t.gid = s.gid) ∧
      (∀ k, code = 0 → s.t.task = some k → saveLocked s = false → closeLocked s s.gid = false → AreaSound s → ∃ t c, exec i s = .next t ∧ Idle t.t .preempted ∧ t.gid = s.gid ∧
        t.suspended = s.suspended ++ [c] ∧ c.ctx = k.ctx ∧ c.forced = false ∧ c.last = s.gid ∧
        c.bound = (if s.t.pend then some s.gid else none) ∧ VectorsClear c.saved ∧
        c.saved.vcpPc = s.t.vcpPc ∧ c.saved.weight = s.t.weight ∧
        (s.t.ctxState = .active → c.saved.pc = s.t.pc + 4 ∧ c.saved.x = s.t.x ∧ c.saved.mode = s.t.mode ∧ c.saved.task = some k) ∧
        (s.t.ctxState = .preempted → ∀ p, s.scalarFrames.find? (fun p => p.ctx == k.ctx) = some p →
          c.saved.pc = p.saved.pc ∧ c.saved.x = p.saved.x ∧ c.saved.mode = p.saved.mode)))

/-- R56, R219, R255, R348, R352, R358, R381: `vx.restore` is illegal in user mode and waits for the queue and for locked lines of its save
area; it reads `sbase` and `sdesc`, reloads
the watchdog, and a pending frame: its entries, the mappings of the registers that they write, and its records. Where the frame's bytes
are no more those that were written, the context is LOST. -/
def Sys2Proof.Claims.Restoring : Prop :=
  ∀ (s : State),
    let u := { s with t := { s.t with watchdog := watchdogOf s s.t.sdesc, sbaseNow := s.t.sbase, sdescNow := s.t.sdesc } }
    (s.t.mode = .user → s.t.queue = [] → Illegal s .vxRestore) ∧
    (s.t.mode ≠ .user → s.t.queue ≠ [] ∨ saveLocked s = true → exec .vxRestore s = .next { s with stalled := true }) ∧
    (s.t.mode ≠ .user → s.t.queue = [] → saveLocked s = false → s.t.pend = false → exec .vxRestore s = .next (scalarDone u)) ∧
    (∀ k f, s.t.mode ≠ .user → s.t.queue = [] → saveLocked s = false → s.t.pend = true → s.t.task = some k → AreaSound s →
      s.frames.find? (fun p => p.1 == k.ctx) = some (k.ctx, f) →
        (imageOk s (s.t.sbase.toNat + 0x1000) f.seed = false → copiesOpen s s.gid = false → closeLocked u s.gid = false →
          ∃ t, exec .vxRestore s = .next t ∧ Idle t.t .lost ∧ t.gid = s.gid) ∧
        (imageOk s (s.t.sbase.toNat + 0x1000) f.seed = true →
        ∃ t, exec .vxRestore s = .next t ∧ t.t.queue = f.entries ∧ t.t.pend = false ∧ t.t.pc = s.t.pc + 4 ∧
          (∀ p ∈ t.frames, p.1 ≠ k.ctx) ∧ t.t.x = s.t.x ∧ t.t.watchdog = watchdogOf s s.t.sdesc ∧ t.records = s.records ++ f.records ∧
          (∀ q : Fin 32, (∀ p ∈ f.vregs, p.1 % 32 ≠ q.val) → t.t.v[q] = s.t.v[q]) ∧
          ((f.vregs.map fun p => p.1 % 32).Nodup → ∀ p ∈ f.vregs, getV t p.1 = p.2)))

/-- R56, R382 to R385: `vx.vdrain`, `vx.icinv`, `vx.tlbinv` (illegal in user mode; it waits while a copy or an
instruction that is not complete runs under a translation that it removes) and `vx.wdpet`. -/
def Sys2Proof.Claims.SystemGroup : Prop :=
  ∀ (a b : Reg) (s : State),
    (s.t.queue ≠ [] → exec .vxVdrain s = .next { s with stalled := true }) ∧
    (s.t.queue = [] → exec .vxVdrain s = .next (scalarDone s)) ∧
    (s.t.queue = [] → s.t.replay = none → s.t.mode = .user → Illegal s (.vxTlbinv a b)) ∧
    (Direct s → exec .vxWdpet s = .next (vectorDone { s with t := { s.t with watchdog := watchdogOf s s.t.sdescNow } })) ∧
    (Direct s → s.Inv →
      let scope := if (xr s a).toNat ≤ 1 then 1 else min 4 (xr s a).toNat
      let within := fun core : Nat =>
        scope = 4 ∨ (scope = 3 ∧ core / 128 = coreOf s.gid / 128) ∨ (scope = 2 ∧ core / 16 = coreOf s.gid / 16) ∨
          (scope = 1 ∧ core = coreOf s.gid)
      ∃ u C, exec (.vxIcinv a) s = .next (vectorDone { u with icache := C }) ∧ Fenced s u scope ∧
        ∀ p, p ∈ C ↔ p ∈ s.icache ∧ ¬ within p.1) ∧
    (Direct s → s.Inv → s.t.mode ≠ .user →
      let hit := fun e : TlbEntry =>
        (a = 0 ∨ e.vpage = (xr s a).toNat / 2 ^ (12 + 9 * e.level)) ∧
          (b = 0 ∨ (e.global = false ∧ e.asid = (xr s b).toNat % 2 ^ 16))
      let va := if a = 0 then none else some (xr s a).toNat
      let asid := if b = 0 then none else some ((xr s b).toNat % 2 ^ 16)
      let under := (∃ j ∈ s.copies, j.outcome = none ∧ ∃ p ∈ j.pages, pageUnder j p va asid = true) ∨
        ∃ g, ∃ e ∈ (strandAt s g).queue, e.done = false ∧ ∃ h ∈ e.held, hit h
      (under → ∃ t, exec (.vxTlbinv a b) s = .next t ∧ Waits s (.vxTlbinv a b) t ∧ ∀ e, e ∈ t.tlbs ↔ e ∈ s.tlbs ∧ ¬ hit e) ∧
      (¬ under →
      ∃ u, exec (.vxTlbinv a b) s = .next (vectorDone u) ∧ (∀ e, e ∈ u.tlbs ↔ e ∈ s.tlbs ∧ ¬ hit e) ∧
        (∀ x ∈ u.updates, 4 ≤ x.die) ∧
        u = { s with
          t := { s.t with wake := u.t.wake }, copies := u.copies
          tlbs := u.tlbs, updates := u.updates, replicas := u.replicas, l1 := u.l1, peers := u.peers } ∧
        (u.copies.map fun j => { j with pages := [] }) = (s.copies.map fun j => { j with pages := [] }) ∧
        ∀ g, g ≠ s.gid → strandAt u g = { strandAt s g with wake := (strandAt u g).wake, queue := (strandAt u g).queue } ∧
          ((strandAt u g).queue.map fun e => { e with held := [] }) = (strandAt s g).queue.map fun e => { e with held := [] }))

namespace Sys2Proof.Claims

/-- The signed value of the low 32 bits. -/
abbrev s32 (z : Int) : Int := sgn 32 (z.emod ((2 ^ 32 : Nat) : Int)).toNat

/-- 1 for true. -/
abbrev one (p : Prop) [Decidable p] : Int := if p then 1 else 0

/-- The register-register operations of RV64I, M, Zba and Zbb in the integers; the register takes the result modulo 2^64. -/
def aluInt (op : AluOp) (x y : Word) : Int :=
  let a : Nat := x.toNat
  let b : Nat := y.toNat
  let lo := fun n : Nat => n % 2 ^ 32
  match op with
  | .add => a + b
  | .sub => (a : Int) - b
  | .sll => a * 2 ^ (b % 64)
  | .slt => one (x.toInt < y.toInt)
  | .sltu => one (a < b)
  | .xor => (a ^^^ b : Nat)
  | .srl => (a / 2 ^ (b % 64) : Nat)
  | .sra => x.toInt / 2 ^ (b % 64)
  | .or => (a ||| b : Nat)
  | .and => (a &&& b : Nat)
  | .addw => s32 (a + b)
  | .subw => s32 ((a : Int) - b)
  | .sllw => s32 (a * 2 ^ (b % 32))
  | .srlw => s32 (lo a / 2 ^ (b % 32) : Nat)
  | .sraw => sgn 32 a / 2 ^ (b % 32)
  | .mul => a * b
  | .mulh => x.toInt * y.toInt / 2 ^ 64
  | .mulhsu => x.toInt * b / 2 ^ 64
  | .mulhu => (a * b / 2 ^ 64 : Nat)
  | .div => if b = 0 then -1 else x.toInt.tdiv y.toInt
  | .divu => if b = 0 then -1 else (a / b : Nat)
  | .rem => if b = 0 then a else x.toInt.tmod y.toInt
  | .remu => if b = 0 then a else (a % b : Nat)
  | .mulw => s32 (a * b)
  | .divw => if lo b = 0 then -1 else s32 ((sgn 32 a).tdiv (sgn 32 b))
  | .divuw => if lo b = 0 then -1 else s32 (lo a / lo b : Nat)
  | .remw => if lo b = 0 then sgn 32 a else (sgn 32 a).tmod (sgn 32 b)
  | .remuw => if lo b = 0 then sgn 32 a else s32 (lo a % lo b : Nat)
  | .addUw => lo a + b
  | .sh1add => a * 2 + b
  | .sh2add => a * 4 + b
  | .sh3add => a * 8 + b
  | .sh1addUw => lo a * 2 + b
  | .sh2addUw => lo a * 4 + b
  | .sh3addUw => lo a * 8 + b
  | .andn => (a &&& (2 ^ 64 - 1 - b) : Nat)
  | .orn => (a ||| (2 ^ 64 - 1 - b) : Nat)
  | .xnor => (2 ^ 64 - 1 - (a ^^^ b) : Nat)
  | .min => if x.toInt < y.toInt then x.toInt else y.toInt
  | .max => if x.toInt < y.toInt then y.toInt else x.toInt
  | .minu => if a < b then a else b
  | .maxu => if a < b then b else a
  | .rol => (a * 2 ^ (b % 64) + a / 2 ^ (64 - b % 64) : Nat)
  | .ror => (a / 2 ^ (b % 64) + a * 2 ^ (64 - b % 64) : Nat)
  | .rolw => s32 (lo a * 2 ^ (b % 32) + lo a / 2 ^ (32 - b % 32) : Nat)
  | .rorw => s32 (lo a / 2 ^ (b % 32) + lo a * 2 ^ (32 - b % 32) : Nat)

/-- The unary operations of Zbb, bit by bit. -/
def unaryInt (op : UnOp) (x : Word) : Int :=
  let byte := fun k : Nat => x.toNat / 256 ^ k % 256
  match op with
  | .clz => ((List.range 64).find? fun i => x.getLsbD (63 - i)).getD 64
  | .ctz => ((List.range 64).find? fun i => x.getLsbD i).getD 64
  | .cpop => ((List.range 64).filter fun i => x.getLsbD i).length
  | .clzw => ((List.range 32).find? fun i => x.getLsbD (31 - i)).getD 32
  | .ctzw => ((List.range 32).find? fun i => x.getLsbD i).getD 32
  | .cpopw => ((List.range 32).filter fun i => x.getLsbD i).length
  | .sextB => sgn 8 x.toNat
  | .sextH => sgn 16 x.toNat
  | .zextH => (x.toNat % 2 ^ 16 : Nat)
  | .orcB => (((List.range 8).map fun k => if byte k = 0 then 0 else 255 * 256 ^ k).sum : Nat)
  | .rev8 => (((List.range 8).map fun k => byte k * 256 ^ (7 - k)).sum : Nat)

/-- The scalar operations that write a register and go on with the next instruction: the register and the result. -/
def scalarOf : ScalarOp → Option (Reg × (State → Int))
  | .lui rd u => some (rd, fun _ => sgn 32 (u.toNat * 4096))
  | .auipc rd u => some (rd, fun s => s.t.pc.toNat + sgn 32 (u.toNat * 4096))
  | .opImm op rd a i => some (rd, fun s =>
      let x := xr s a
      let y : Word := BitVec.ofInt 64 i.toInt
      match op with
      | .addi => aluInt .add x y
      | .slti => aluInt .slt x y
      | .sltiu => aluInt .sltu x y
      | .xori => aluInt .xor x y
      | .ori => aluInt .or x y
      | .andi => aluInt .and x y
      | .addiw => aluInt .addw x y)
  | .shift op rd a n => some (rd, fun s =>
      let x := xr s a
      let y : Word := BitVec.ofNat 64 n.toNat
      match op with
      | .slli => aluInt .sll x y
      | .srli => aluInt .srl x y
      | .srai => aluInt .sra x y
      | .rori => aluInt .ror x y
      | .slliUw => ((x.toNat % 2 ^ 32 * 2 ^ n.toNat : Nat) : Int))
  | .shiftW op rd a n => some (rd, fun s =>
      let x := xr s a
      let y : Word := BitVec.ofNat 64 n.toNat
      match op with
      | .slliw => aluInt .sllw x y
      | .srliw => aluInt .srlw x y
      | .sraiw => aluInt .sraw x y
      | .roriw => aluInt .rorw x y)
  | .op op rd a b => some (rd, fun s => aluInt op (xr s a) (xr s b))
  | .unary op rd a => some (rd, fun s => unaryInt op (xr s a))
  | _ => none

/-- Whether a branch is taken. -/
def branches (op : BranchOp) (x y : Word) : Prop :=
  match op with
  | .beq => x = y
  | .bne => x ≠ y
  | .blt => x.toInt < y.toInt
  | .bge => y.toInt ≤ x.toInt
  | .bltu => x.toNat < y.toNat
  | .bgeu => y.toNat ≤ x.toNat

/-- Bytes of a scalar load, and whether its value is signed. -/
def loadForm : LoadKind → Nat × Bool
  | .lb => (1, true)
  | .lh => (2, true)
  | .lw => (4, true)
  | .ld => (8, true)
  | .lbu => (1, false)
  | .lhu => (2, false)
  | .lwu => (4, false)

/-- Bytes of a scalar store. -/
def storeForm : StoreKind → Nat
  | .sb => 1
  | .sh => 2
  | .sw => 4
  | .sd => 8

/-- The new value that an atomic leaves, of the old one and the register's, at width w. -/
def amoInt (op : AmoOp) (w M V : Nat) : Nat :=
  match op with
  | .lr => M
  | .sc | .swap => V
  | .add => (M + V) % 2 ^ w
  | .xor => M ^^^ V
  | .and => M &&& V
  | .or => M ||| V
  | .min => if sgn w V < sgn w M then V else M
  | .max => if sgn w M < sgn w V then V else M
  | .minu => if V < M then V else M
  | .maxu => if M < V then V else M

/-- Memory after a store of `n` bytes of a value at a virtual address. -/
def Stored (s t : State) (base va n val : Nat) : Prop :=
  ∀ loc, homeByte t loc =
    if va ≤ base + loc ∧ base + loc < va + n then BitVec.ofNat 8 (val / 256 ^ (base + loc - va)) else homeByte s loc

/-- What a scalar read of memory may change beside its destination (R182, R242): as `ReadsOnly`, with the clocks of the values that
scalar reads returned. -/
def ScalarReads (u t : State) : Prop :=
  ReadsOnly (sameLinks u) { u with t := { u.t with seen := t.t.seen } } t ∧ t.t.seenV = u.t.seenV

/-- What a scalar load waits for where its die keeps a replica of the line (R242, R244): epochs close and updates reach the die's replicas;
nothing where the die keeps none, or where the frontier has reached what the strand's scalar acquires have. -/
def Awaited (s u : State) (line : Nat) : Prop :=
  u = { s with clocks := u.clocks, openEpochs := u.openEpochs, updates := u.updates, replicas := u.replicas, l1 := u.l1 } ∧
    (∀ x ∈ u.updates, x ∈ s.updates) ∧
    (replicaAt s (dieOf s.gid) line = none ∨
      (∀ e, e < 4 → e ≠ dieOf s.gid → (s.t.sclock.get e).toNat ≤ frontier s (dieOf s.gid) e) → u = s)

/-- Neither MPRV nor translation stands between a scalar access and memory, which is as in `Plain`. -/
def PlainScalar (s : State) (base : Nat) : Prop :=
  Plain s base ∧ (s.t.mode = .machine → s.t.mstatus.getLsbD 17 = false ∨ datpSv57 s.t.datp = false)

end Sys2Proof.Claims

open Sys2Proof Sys2Proof.Machine Sys2Proof.Claims

/-- R35, R36: the ordinary instructions of RV64I, M, Zba and Zbb, in the integers: the destination takes the result modulo 2^64 and the pc
advances by 4, or a jump or taken branch goes to its target, with the link; a target that is no multiple of 4 raises cause 0, and
`ecall` and `ebreak` trap, at the instruction, once the vector queue is empty. -/
def Obligations.ScalarInstructions : Prop :=
  ∀ (s : State),
    let x := fun op => exec (.scalarInstruction op) s
    (∀ op rd f, scalarOf op = some (rd, f) → x op = .next (scalarDone (withX s rd (BitVec.ofInt 64 (f s))))) ∧
    (∀ op rd (target : Word),
      ((∃ off, op = .jal rd off ∧ target = s.t.pc + BitVec.ofInt 64 (off ++ 0#1).toInt) ∨
        (∃ a i, op = .jalr rd a i ∧ target = (xr s a + BitVec.ofInt 64 i.toInt) &&& ~~~1#64)) →
      (target.toNat % 4 = 0 → x op = .next (toPc (withX s rd (s.t.pc + 4)) target)) ∧
      (target.toNat % 4 ≠ 0 → s.t.queue = [] → x op = .next (takeTrap s false 0 target s.t.pc))) ∧
    (∀ op a b off,
      let target := s.t.pc + BitVec.ofInt 64 (off ++ 0#1).toInt
      (¬ branches op (xr s a) (xr s b) → x (.branch op a b off) = .next (scalarDone s)) ∧
      (branches op (xr s a) (xr s b) →
        (target.toNat % 4 = 0 → x (.branch op a b off) = .next (toPc s target)) ∧
        (target.toNat % 4 ≠ 0 → s.t.queue = [] → x (.branch op a b off) = .next (takeTrap s false 0 target s.t.pc)))) ∧
    (s.t.queue = [] →
      x .ecall = .next (takeTrap s false (match s.t.mode with
        | .user => 8
        | .supervisor => 9
        | .machine => 11) 0 s.t.pc) ∧
      ∃ v, (v = 0 ∨ v = s.t.pc) ∧ x .ebreak = .next (takeTrap s false 3 v s.t.pc))

/-- R36, R182, R183: scalar loads and stores without translation, no invalidation being on its way: a load gives its bytes as the die holds
them once what the strand's acquires ask for has reached it, a store writes its bytes
and no other, and what it replaced is kept for a copy that no `vm.fence` comes before (R248); a misaligned one raises cause 4 or 6 and performs
nothing. -/
def Sys2Proof.Claims.ScalarMemory : Prop :=
  ∀ (base : Nat) (s : State),
    (∀ k rd a i,
      let va := xr s a + BitVec.ofInt 64 i.toInt
      let n := (loadForm k).1
      (va.toNat % n ≠ 0 → s.t.queue = [] → exec (.scalarLoad k rd a i) s = .next (takeTrap s false 4 va s.t.pc)) ∧
      (va.toNat % n = 0 → PlainScalar s base → InHbm base va.toNat n → s.invals = [] → s.waits = [] →
        ∃ u t, exec (.scalarLoad k rd a i) s = .next t ∧ Awaited s u (lineOf (va.toNat - base)) ∧
          let v := numAt (readByte u (dieOf s.gid)) base va.toNat n
          ScalarReads (scalarDone (withX u rd (BitVec.ofInt 64 (if (loadForm k).2 then sgn (8 * n) v else v)))) t)) ∧
    ∀ k a b i,
      let va := xr s a + BitVec.ofInt 64 i.toInt
      let n := storeForm k
      (va.toNat % n ≠ 0 → s.t.queue = [] → exec (.scalarStore k a b i) s = .next (takeTrap s false 6 va s.t.pc)) ∧
      (va.toNat % n = 0 → PlainScalar s base → InHbm base va.toNat n →
        ∃ t, exec (.scalarStore k a b i) s = .next t ∧
          WritesOnly (scalarDone { s with t := { s.t with unfenced := t.t.unfenced } }) t ∧ Stored s t base va.toNat n (xr s b).toNat ∧
          ∃ o ∈ t.t.unfenced, o.line = lineOf (va.toNat - base) ∧ o.stamp = (lineAt t o.line).stamp ∧ ∀ k, k < n →
            ∃ c, (va.toNat - base + k, c) ∈ o.old ∧
              ((∀ r ∈ s.t.unfenced, r.line ≠ o.line) → c = homeByte s (va.toNat - base + k)))

/-- R36, R182, R242: the A extension without translation: LR reserves the 128-byte line; SC stores, and gives 0, exactly where its line is
reserved, else 1, and ends the reservation; the others give the old value and leave OP. A misaligned one performs nothing. -/
def Sys2Proof.Claims.ScalarAtomics : Prop :=
  ∀ (op : AmoOp) (dword aq rl : Bool) (rd a b : Reg) (base : Nat) (s : State),
    let i := Instr.scalarAmo op dword aq rl rd a b
    let va := (xr s a).toNat
    let n := if dword then 8 else 4
    let old := numAt (homeByte s) base va n
    let line := lineOf (va - base)
    let V := (xr s b).toNat % 2 ^ (8 * n)
    (va % n ≠ 0 → s.t.queue = [] →
      exec i s = .next (takeTrap s false (if op = .lr then 4 else 6) (xr s a) s.t.pc)) ∧
    (va % n = 0 → PlainScalar s base → InHbm base va n →
      ∃ t, exec i s = .next t ∧
        WritesAndSyncs (scalarDone (withX s rd (
          if op = .sc then (if s.t.reservation = some line then 0 else 1) else BitVec.ofInt 64 (sgn (8 * n) old)))) t ∧
        (op = .lr → t.t.reservation = some line) ∧ (op = .sc → t.t.reservation = none) ∧
        (if op = .lr ∨ (op = .sc ∧ s.t.reservation ≠ some line) then t.mem = s.mem ∧ t.images = s.images
         else Stored s t base va n (amoInt op (8 * n) old V)))

/-- R19, R36, R242, R344, R368: `fence` only advances; `fence.i` and `sfence.vma` wait for the vector queue, then empty the core's instruction
cache, and take out the matching entries of the core's and the cluster's TLBs (illegal in user mode and under TVM); `wfi` stops the scalar
stream until an interrupt is pending (illegal in user mode and under TW). -/
def Obligations.ScalarFences : Prop :=
  ∀ (s : State),
    (∀ f p q rd a, exec (.scalarFence f p q rd a) s = .next (scalarDone s)) ∧
    (∀ f rd a, (s.t.queue ≠ [] → exec (.fenceI f rd a) s = .next { s with stalled := true }) ∧
      (s.t.queue = [] → ∃ C, exec (.fenceI f rd a) s = .next (scalarDone { s with icache := C }) ∧
        ∀ p, p ∈ C ↔ p ∈ s.icache ∧ p.1 ≠ coreOf s.gid)) ∧
    (∀ a b,
      let no := s.t.mode = .user ∨ (s.t.mode = .supervisor ∧ s.t.mstatus.getLsbD 20 = true)
      let near := fun e : TlbEntry => if e.l2 then e.core = coreOf s.gid / 16 else e.core = coreOf s.gid
      let hit := fun e : TlbEntry =>
        (a = 0 ∨ e.vpage = (xr s a).toNat / 2 ^ (12 + 9 * e.level)) ∧
          (b = 0 ∨ (e.global = false ∧ e.asid = (xr s b).toNat % 2 ^ 16))
      (no → s.t.queue = [] → Illegal s (.sfenceVma a b)) ∧
      (¬ no → s.t.queue ≠ [] → exec (.sfenceVma a b) s = .next { s with stalled := true }) ∧
      (¬ no → s.t.queue = [] → ∃ T, exec (.sfenceVma a b) s = .next (scalarDone { s with tlbs := T }) ∧
        ∀ e, e ∈ T ↔ e ∈ s.tlbs ∧ ¬(near e ∧ hit e))) ∧
    (let ready := (s.t.ssip = true ∧ s.t.mie.getLsbD 1 = true) ∨ (s.t.stimecmp.toNat ≤ s.time.toNat ∧ s.t.mie.getLsbD 5 = true)
     let no := s.t.mode = .user ∨ (s.t.mode = .supervisor ∧ s.t.mstatus.getLsbD 21 = true)
     (ready → exec .wfi s = .next (scalarDone s)) ∧
     (¬ ready → no → s.t.queue = [] → Illegal s .wfi) ∧
     (¬ ready → ¬ no → exec .wfi s = .next (scalarDone { s with t := { s.t with waiting := true } })))

namespace Sys2Proof.Claims

/-- The operand of a Zicsr form and the value it writes, the old one being given (R35). -/
def csrResult (s : State) (op : CsrOp) (src : Reg) (old : Word) : Word :=
  let i : Word := BitVec.ofNat 64 src.toNat
  match op with
  | .rw => xr s src
  | .rs => old ||| xr s src
  | .rc => old &&& ~~~xr s src
  | .rwi => i
  | .rsi => old ||| i
  | .rci => old &&& ~~~i

/-- The read-only device CSRs of R44 that no wait guards, with their values (R20, R29, R46, R47, R49). -/
def deviceCsrs (s : State) : List (BitVec 12 × Nat) :=
  [(0xCC0#12, s.t.vl.toNat), (0xCC1#12, s.t.vcfg.toNat), (0xCC2#12, s.t.vkey.toNat),
   (0xCC5#12, match s.t.queue with
     | e :: _ => e.pc.toNat / 4 % 2 ^ 55 * 4
     | [] => s.t.vcpPc.toNat / 4 % 2 ^ 55 * 4 + 1),
   (0xCC6#12, s.t.share.toNat + s.t.nextShare.toNat * 2 ^ 4 + s.t.weight.toNat * 2 ^ 8),
   (0xCC7#12, s.t.ctags.toNat)]

/-- CSRs that machine mode may write with any value, and the bits that a read gives back (R36, R45, R49, R59, R344, R350). -/
def csrMasks : List (BitVec 12 × Nat) :=
  [(0x105#12, 2 ^ 64 - 3), (0x106#12, 7), (0x140#12, 2 ^ 64 - 1), (0x141#12, 2 ^ 64 - 4), (0x142#12, 2 ^ 64 - 1),
   (0x143#12, 2 ^ 64 - 1), (0x14D#12, 2 ^ 64 - 1), (0x5C2#12, 2 ^ 56 - 2 ^ 12), (0x5C3#12, 2 ^ 56 - 2 ^ 6),
   (0x302#12, 0x10000FF00B3FF), (0x303#12, 0x222), (0x304#12, 0x222), (0x305#12, 2 ^ 64 - 3), (0x306#12, 7), (0x320#12, 5),
   (0x340#12, 2 ^ 64 - 1), (0x341#12, 2 ^ 64 - 4), (0x342#12, 2 ^ 64 - 1), (0x343#12, 2 ^ 64 - 1), (0xB00#12, 2 ^ 64 - 1),
   (0xB02#12, 2 ^ 64 - 1)]

/-- What no CSR write changes (R45.2): the x, vector and mask registers, the mode, and the CSRs that only instructions change. -/
def CsrFrame (s t : Strand) : Prop :=
  t.x = s.x ∧ t.v = s.v ∧ t.k = s.k ∧ t.pc = s.pc ∧ t.mode = s.mode ∧ t.vl = s.vl ∧ t.vcfg = s.vcfg ∧ t.vkey = s.vkey ∧
    t.vmcnt = s.vmcnt ∧ t.vtrows = s.vtrows ∧ t.ctags = s.ctags ∧ t.cfault = s.cfault ∧ t.share = s.share ∧
    t.nextShare = s.nextShare ∧ t.weight = s.weight ∧ t.queue = s.queue ∧ t.pending = s.pending ∧ t.claims = s.claims ∧
    t.reservation = s.reservation ∧ t.task = s.task

/-- `mstatus` with the bits given replaced. -/
def Bits (old new : Word) (f : Nat → Option Bool) : Prop := ∀ n, n < 64 → new.getLsbD n = (f n).getD (old.getLsbD n)

/-- What a return changes (R387): the pc, the mode, `mstatus` and the count of instructions; with STATE PREEMPTED, also what the
context's becoming ACTIVE changes (R353). -/
def Returned (s t : State) (pc : Word) (mode : Mode) (f : Nat → Option Bool) : Prop :=
  t.t.pc = pc ∧ t.t.mode = mode ∧ Bits s.t.mstatus t.t.mstatus f ∧
    (if s.t.ctxState = .preempted ∧ s.t.task.isSome then
       t.t.ctxState = .active ∧ (∀ p ∈ t.scalarFrames, p.ctx ≠ (s.t.task.map fun k => k.ctx).getD 0) ∧ t.t.x = s.t.x ∧
         t.t.vl = s.t.vl ∧ t.t.queue = s.t.queue ∧ t.t.v = s.t.v
     else
       t = { s with t := { s.t with pc := t.t.pc, mode := t.t.mode, mstatus := t.t.mstatus, firmware := t.t.firmware
                                    minstret := t.t.minstret } } ∧
         (s.t.mcountinhibit.getLsbD 2 = false → t.t.minstret = s.t.minstret + 1))

end Sys2Proof.Claims

open Sys2Proof Sys2Proof.Machine Sys2Proof.Claims

/-- R19, R35, R36, R44, R45, R48, R49, R185: the Zicsr rows: reads of the device CSRs, the reads and writes that wait for the queue (that
of `vrthr` until every older vector instruction has passed its fault point), the trap of a
write to a read-only CSR and of an access below a CSR's privilege, what any access gives and leaves, and what machine mode
reads back. -/
def Obligations.ControlRegisters : Prop :=
  ∀ (rd src : Reg) (op : CsrOp) (s : State),
    let writes := op = .rw ∨ op = .rwi ∨ src ≠ 0
    let drained := fun (i : Instr) (P : Prop) =>
      (s.t.queue ≠ [] → exec i s = .next { s with stalled := true }) ∧ (s.t.queue = [] → P)
    (∀ p ∈ deviceCsrs s,
      exec (.csrWrite p.1 .rs rd 0) s = .next (scalarDone (withX s rd (BitVec.ofNat 64 p.2))) ∧
      (writes → s.t.queue = [] → Illegal s (.csrWrite p.1 op rd src))) ∧
    (∀ c, op ≠ .rw → op ≠ .rwi → drained (.csrReadWait c op rd) (exec (.csrReadWait c op rd) s = .next (scalarDone (withX s rd
      (match c with
       | .vstat => s.t.vstat.setWidth 64
       | .vmcnt => s.t.vmcnt.setWidth 64
       | .vtrows => s.t.vtrows.setWidth 64))))) ∧
    (writes →
      (let old := s.t.vstat.setWidth 64
       let u := scalarDone (withX s rd old)
       drained (.csrWriteVstat op rd src) (exec (.csrWriteVstat op rd src) s =
         .next { u with t := { u.t with vstat := (csrResult s op src old).setWidth 5 } })) ∧
      (let old := s.t.vrthr.setWidth 64
       let u := scalarDone (withX s rd old)
       ((∃ e ∈ s.t.queue, e.passed = false) → exec (.csrWriteVrthr op rd src) s = .next { s with stalled := true }) ∧
       ((∀ e ∈ s.t.queue, e.passed = true) → exec (.csrWriteVrthr op rd src) s =
         .next { u with t := { u.t with vrthr := (csrResult s op src old).setWidth 48 } })) ∧
      (s.t.mode ≠ .user →
        (let u := scalarDone (withX s rd s.t.fmtb)
         drained (.csrWriteFmtb op rd src) (exec (.csrWriteFmtb op rd src) s =
           .next { u with t := { u.t with fmtb := csrResult s op src s.t.fmtb &&& BitVec.ofNat 64 (2 ^ 56 - 2 ^ 11 + 1) } })) ∧
        (copiesOpen s s.gid = true → exec (.csrWriteDatp op rd src) s = .next { s with stalled := true }) ∧
        (copiesOpen s s.gid = false →
          let u := scalarDone (withX s rd s.t.datp)
          let v := csrResult s op src s.t.datp
          drained (.csrWriteDatp op rd src) (exec (.csrWriteDatp op rd src) s =
            .next { u with t := { u.t with
              datp := if v.toNat / 2 ^ 60 = 0 ∨ v.toNat / 2 ^ 60 = 10 then v else s.t.datp } }))) ∧
      (s.t.mode = .user → s.t.queue = [] → Illegal s (.csrWriteFmtb op rd src) ∧ Illegal s (.csrWriteDatp op rd src))) ∧
    (∀ n : BitVec 12,
      (s.t.mode = .user → n.toNat / 256 % 4 ≠ 0 → s.t.queue = [] → Illegal s (.csrWrite n op rd src)) ∧
      (s.t.mode = .supervisor → 2 ≤ n.toNat / 256 % 4 → s.t.queue = [] → Illegal s (.csrWrite n op rd src)) ∧
      (csrRead s n.toNat = none → s.t.queue = [] → Illegal s (.csrWrite n op rd src)) ∧
      ∀ old, csrRead s n.toNat = some old →
        let u := scalarDone (withX s rd old)
        (¬ writes → exec (.csrWrite n op rd src) s = .next u) ∧
        (writes → n.toNat / 1024 = 3 → s.t.queue = [] → Illegal s (.csrWrite n op rd src)) ∧
        (writes → n.toNat / 1024 ≠ 3 → ∃ T, exec (.csrWrite n op rd src) s = .next { u with t := T } ∧ CsrFrame u.t T)) ∧
    (s.t.mode = .machine → ∀ p ∈ csrMasks, ∃ t, exec (.csrWrite p.1 .rw rd src) s = .next t ∧
      csrRead t p.1.toNat = some (xr s src &&& BitVec.ofNat 64 p.2))

/-- R57, R343, R344, R345: taking a trap: to supervisor mode from below machine mode where the cause is delegated, else to machine mode: the
cause, the value and the pc are saved, the interrupt enable and the mode saved in the status, and the pc is the handler's. An
illegal word traps with the word once the queue is empty. -/
def Sys2Proof.Claims.TrapEntry : Prop :=
  (∀ (s : State) (intr : Bool) (cause : Nat) (tval epc : Word), cause < 64 →
    let t := takeTrap s intr cause tval epc
    let code : Word := BitVec.ofNat 64 ((if intr then 2 ^ 63 else 0) + cause)
    let go := fun (tvec : Word) => BitVec.ofNat 64 (tvec.toNat / 4 * 4) +
      (if intr = true ∧ tvec.getLsbD 0 = true then BitVec.ofNat 64 (4 * cause) else 0)
    { t with t := s.t, handle := s.handle, timedOut := s.timedOut } = s ∧ ((intr = true ∨ cause ≠ 27) → t.handle = s.handle) ∧
      (∀ p ∈ t.timedOut, p ∈ s.timedOut) ∧ ((intr = true ∨ (cause ≠ 5 ∧ cause ≠ 7)) → t.timedOut = s.timedOut) ∧
      t.t.gen = s.t.gen + 1 ∧
      if s.t.mode ≠ .machine ∧ (if intr then s.t.mideleg else s.t.medeleg).getLsbD cause = true then
        t.t = { s.t with scause := code, stval := tval, sepc := epc, mstatus := t.t.mstatus, mode := .supervisor, pc := go s.t.stvec
                         gen := t.t.gen, waiting := false } ∧
          Bits s.t.mstatus t.t.mstatus fun n =>
            if n = 1 then some false else if n = 5 then some (s.t.mstatus.getLsbD 1)
            else if n = 8 then some (decide (s.t.mode = .supervisor)) else none
      else
        t.t = { s.t with mcause := code, mtval := tval, mepc := epc, mstatus := t.t.mstatus, mode := .machine, pc := go s.t.mtvec
                         gen := t.t.gen, waiting := false, firmware := s.t.task.isSome } ∧
          Bits s.t.mstatus t.t.mstatus fun n =>
            if n = 3 then some false else if n = 7 then some (s.t.mstatus.getLsbD 3)
            else if n = 11 then some (decide (s.t.mode ≠ .user)) else if n = 12 then some (decide (s.t.mode = .machine)) else none) ∧
  ∀ (w : InstrWord) (s : State),
    (s.t.queue = [] → exec (.reservedWord w) s = .next (takeTrap s false 2 (w.setWidth 64) s.t.pc)) ∧
    (s.t.queue ≠ [] → exec (.reservedWord w) s = .next { s with stalled := true })

/-- R350, R353, R387: `sret` and `mret` restore the interrupt enable, the mode and the pc, and from STATE PREEMPTED make the context ACTIVE
and discard its scalar frame; they are illegal below their mode, and `sret` under TSR. The firmware returns from an ecall of supervisor
mode to the next instruction with a0 = −1, by such a return. -/
def Sys2Proof.Claims.TrapReturn : Prop :=
  ∀ (s : State),
    let sound := s.t.ctxState = .preempted → s.t.task.isSome →
      Sound s s.t.sbaseNow s.t.sdescNow ∧ physLocked s s.t.sdescNow.toNat 64 = false
    let m := s.t.mstatus
    ((s.t.mode = .user ∨ (s.t.mode = .supervisor ∧ m.getLsbD 22 = true)) → s.t.queue = [] → Illegal s .sret) ∧
    (s.t.mode ≠ .user → (s.t.mode = .supervisor → m.getLsbD 22 = false) → sound →
      ∃ t, exec .sret s = .next t ∧ Returned s t s.t.sepc (if m.getLsbD 8 then .supervisor else .user) fun n =>
        if n = 1 then some (m.getLsbD 5) else if n = 5 then some true else if n = 8 ∨ n = 17 then some false else none) ∧
    (s.t.mode ≠ .machine → s.t.queue = [] → Illegal s .mret) ∧
    (s.t.mode = .machine → sound →
      ∃ t, exec .mret s = .next t ∧
        Returned s t s.t.mepc (if m.getLsbD 12 then .machine else if m.getLsbD 11 then .supervisor else .user) fun n =>
          if n = 3 then some (m.getLsbD 7) else if n = 7 then some true else if n = 11 ∨ n = 12 then some false
          else if n = 17 ∧ m.getLsbD 12 = false then some false else none) ∧
    (s.t.firmware = true → s.t.mcause = 9 → sound → ∃ t, exec .ecallFromS s = .next t ∧ t.t.pc = s.t.mepc + 4 ∧
      t.t.x = s.t.x.set 10 0xFFFFFFFFFFFFFFFF ∧ t.t.firmware = false ∧
      (s.t.ctxState = .preempted → s.t.task.isSome → t.t.ctxState = .active) ∧
      t.t.mode = (if m.getLsbD 12 then .machine else if m.getLsbD 11 then .supervisor else .user))

namespace Sys2Proof.Claims

/-- An event of strand g: performed with the strand in focus, it leaves `u`; the focus then returns (see `Focus`). -/
def Does (i : Instr) (s u : State) : Prop := exec i s = .next (focusOn u s.gid)

/-- Candidate c comes before d by the keys of R339: waiting for 64 clocks or more, the longer the sooner; then within its share;
then no throttled memory instruction; then fewer unissued elements of its oldest unfinished instruction; then the number. Of two of one strand
the older comes first, which is the model's choice (log entry 113). -/
def IssuesFirst (c d : Candidate) : Prop :=
  (64 ≤ c.waited ∧ d.waited < 64) ∨ (64 ≤ d.waited ∧ d.waited < c.waited) ∨
    ((c.waited < 64 ∧ d.waited < 64) ∨ c.waited = d.waited) ∧
      ((c.overShare = false ∧ d.overShare = true) ∨ c.overShare = d.overShare ∧
        ((c.throttled = false ∧ d.throttled = true) ∨ c.throttled = d.throttled ∧
          (c.left < d.left ∨ (c.left = d.left ∧ (c.gid < d.gid ∨ (c.gid = d.gid ∧ c.place < d.place))))))

/-- The trap that waits at a strand, if any, once its queue is empty (R343, R344, R360): the refused store's, else the software
interrupt's, else the timer's. -/
def IntrTaken (t : Strand) (c : Nat) : Prop :=
  t.mie.getLsbD c = true ∧
    (if t.mideleg.getLsbD c then t.mode = .user ∨ (t.mode = .supervisor ∧ t.mstatus.getLsbD 1 = true)
     else t.mode ≠ .machine ∨ t.mstatus.getLsbD 3 = true)

/-- The strand that R332 chooses for a request: of those that could take the task and hold one of lower priority, that of the
lowest priority, then the latest dispatched. -/
def Victim (s : State) (prio : Nat) (can : Nat → Bool) (g : Nat) : Prop :=
  ∃ k, (strandAt s g).task = some k ∧ can g = true ∧ k.prio < prio ∧
    ∀ h j, h ≠ g → (strandAt s h).task = some j → can h = true → j.prio < prio →
      k.prio < j.prio ∨ (k.prio = j.prio ∧ j.order < k.order)

end Sys2Proof.Claims

open Sys2Proof Sys2Proof.Machine Sys2Proof.Claims

/-- The model's focus: to take another strand into focus changes no strand and nothing else of the package. -/
def Sys2Proof.Claims.Focus : Prop :=
  ∀ (s : State) (g : Nat), s.Inv →
    (∀ h, strandAt (focusOn s g) h = strandAt s h) ∧
    { focusOn s g with t := s.t, gid := s.gid, peers := s.peers } = s ∧ (focusOn s g).gid = g ∧ (focusOn s g).t = strandAt s g

/-- R34, R135, R218, R271, R339: a lane group issues, of the candidates of the core's four strands, the one that comes first; with none it
issues nothing. A lane group that this clock has decided already begins a new one, in which the Rim moves. The matrix unit, and the Plait unit
with the VMU's sorting stage, which share it, take one instruction at a time, by the same order, and none while the unit works. Each candidate's
wait begins. -/
def Sys2Proof.Claims.ElementGroupIssue : Prop :=
  ∀ (s : State), s.Inv →
    let core := s.inp.unit
    let waits := fun (d : Candidate) (e : QEntry) =>
      if (∃ p ∈ e.since, p.1 = d.group) then e else { e with since := e.since ++ [(d.group, s.clock)] }
    let after := fun (C : List Candidate) (mark : Candidate → QEntry → QEntry) (t : State) =>
      ∀ h, strandAt t h = { strandAt s h with queue := (strandAt t h).queue } ∧
        ∀ i : Nat, (strandAt t h).queue[i]? = ((strandAt s h).queue[i]?).map fun e =>
          match C.find? fun d => d.gid == h && d.place == i with
          | some d => mark d (waits d e)
          | none => e
    (s.inp.idx < 8 →
      let g := s.inp.idx
      let w := if g < sget 0 s.decided core then { rimClock s core with issuedNow := s.issuedNow.filter fun p => p.1 / 4 != core } else s
      let v := { w with decided := sput 0 s.decided core (g + 1) }
      let C := (List.range 4).filterMap fun j => candidateOf v core g (core * 4 + j)
      (C = [] → exec .elementGroupIssue s = .next v) ∧
      ∀ c ∈ C, (∀ d ∈ C, d ≠ c → IssuesFirst c d) → ∃ t, exec .elementGroupIssue s = .next t ∧
        t = { v with t := t.t, peers := t.peers, issues := t.issues, issuedNow := t.issuedNow, rims := t.rims } ∧
        (core * 8 + g, (c.gid, c.group)) ∈ t.issues ∧ sget 0 t.issuedNow c.gid = sget 0 v.issuedNow c.gid + 1 ∧
        after C (fun d e => if d = c then { e with issued := e.issued ||| BitVec.ofNat 32 (2 ^ c.group) } else e) t) ∧
    ∀ u, (s.inp.idx = 8 ∧ u = .plait) ∨ (s.inp.idx = 9 ∧ u = .matrix) ∨ (s.inp.idx = 10 ∧ u = .plait) →
      let C := (if u = .matrix then [IssueUnit.matrix] else [.plait, .sorter]).flatMap fun v =>
        (List.range 4).filterMap fun j => wholeOf s core v (core * 4 + j)
      let busy := unitBusy s core u (fun _ _ => true)
      (busy = false → ∀ c ∈ C, (∀ d ∈ C, d ≠ c → IssuesFirst c d) → ∃ t, exec .elementGroupIssue s = .next t ∧
        t = { s with t := t.t, peers := t.peers, rims := t.rims } ∧ after C (fun d e => if d = c then startEntry e else e) t) ∧
      (busy = true ∨ C = [] → ∃ t, exec .elementGroupIssue s = .next t ∧
        t = { s with t := t.t, peers := t.peers } ∧ after C (fun _ e => e) t)

/-- R18, R343, R344: a completed oldest entry commits; a waiting trap is delivered once the queue is empty; the timer interrupt is taken where
`time` has reached `stimecmp` and it is enabled. -/
def Sys2Proof.Claims.CommitAndDelivery : Prop :=
  ∀ (s : State), s.Inv →
    let f := focusOn s s.inp.gid
    let T := f.t
    (∀ e r, T.queue = e :: r →
      Does .vectorCommit s (if e.done then { f with t := { T with queue := r, place := 0, vcpPc := e.pc, vstat := T.vstat ||| e.late } } else f) ∧
        Does .trapEntry s f ∧ Does .supervisorTimerInterrupt s f) ∧
    (T.queue = [] →
      (∀ p r, T.storeTraps = p :: r →
        Does .trapEntry s (takeTrap { f with t := { T with storeTraps := r } } false p.cause p.tval T.pc)) ∧
      (T.storeTraps = [] →
        (T.ssip = true → IntrTaken T 1 → Does .trapEntry s (takeTrap f true 1 0 T.pc)) ∧
        (T.ssip = false → s.time.toNat < T.stimecmp.toNat → Does .trapEntry s f ∧ Does .supervisorTimerInterrupt s f) ∧
        (T.ssip = false → T.stimecmp.toNat ≤ s.time.toNat → IntrTaken T 5 →
          Does .trapEntry s (takeTrap f true 5 0 T.pc) ∧ Does .supervisorTimerInterrupt s (takeTrap f true 5 0 T.pc))))

/-- R219, R332, R353, R354, R355, R358: a request for a launch whose node on the die has been ready for 10 µs, a suspended context, or the
waiting node of a grouped launch; a forced save, which takes the strand's reassembly records with it; the save engine's timeout; the watchdog.
A request that a pre-emption point has found ends in no forced save. -/
def Obligations.ForcedOut : Prop :=
  ∀ (s : State), s.Inv →
    let f := focusOn s s.inp.gid
    let T := f.t
    let mhz := s.handle.clockMhz
    let raised := fun (v : Nat) => ∃ t, exec .preemptionRequest s = .next t ∧
      t = { s with t := t.t, peers := t.peers } ∧
      ∀ h, strandAt t h = if h = v ∧ (strandAt s h).preempt = none then
          (let d := match descRead s (strandAt s h).sdescNow 4 2 with
            | some (n + 1) => n + 1
            | _ => 20
           { strandAt s h with preempt := some ⟨s.clock + d * mhz, false⟩ })
        else strandAt s h
    let ungranted := fun t : Strand => { t with granted := t.granted.filter fun p => p.2 != f.gid }
    let others := s.suspended.map fun d => { d with saved := ungranted d.saved }
    (∀ l since, s.inp.f1 = false → s.inp.f0 = false → launchOf s s.inp.key = some l → launchReady l = true →
      s.inp.die ∈ l.nodes.map Prod.fst → (∃ o, l.ready.find? (fun p => p.1 == s.inp.die) = some (s.inp.die, (o, since))) →
      (s.clock < since + 10 * mhz → exec .preemptionRequest s = .next s) ∧
      (since + 10 * mhz ≤ s.clock → ∀ v, Victim s (recPrio l.image) (fun g => dieOf g == s.inp.die && couldTake l g) v → raised v)) ∧
    (∀ c k, s.inp.f1 = false → s.inp.f0 = true → s.suspended.find? (fun d => d.ctx == s.inp.key) = some c → c.saved.task = some k →
      c.since + 10 * mhz ≤ s.clock → ∀ v, Victim s k.prio (mayResume s c) v → raised v) ∧
    (∀ n w, s.inp.f1 = true → waitingNode (blockAt s s.inp.unit) = some (n, w) →
      (s.clock < n.since + 10 * mhz → exec .preemptionRequest s = .next s) ∧
      (n.since + 10 * mhz ≤ s.clock →
        ∀ v, Victim s w.req.prio (fun g => dieOf g == s.inp.unit / 4) v → raised v)) ∧
    (∀ r, T.preempt = some r → r.sure = true → Does .forcedSave s f ∧ Does .saveEngineTimeout s f) ∧
    (∀ r k, T.preempt = some r → r.sure = false → T.task = some k →
      (s.clock < r.deadline → Does .forcedSave s f) ∧
      (r.deadline ≤ s.clock → saveWaits (withdrawWaiting f f.gid) = true → Does .forcedSave s (withdrawWaiting f f.gid)) ∧
      (r.deadline ≤ s.clock → saveWaits (withdrawWaiting f f.gid) = false → Sound f T.sbase T.sdesc → ∃ u c, Does .forcedSave s u ∧
        Idle u.t .forced ∧ u.gid = f.gid ∧ u.suspended = others ++ [c] ∧ c.ctx = k.ctx ∧ c.forced = true ∧ c.last = f.gid ∧
        c.bound = (if T.pend = true ∨ pushBusy f (ungranted T) = true then some f.gid else none) ∧
        c.records = (heldRecords (withdrawWaiting f f.gid) f.gid) ∧ heldRecords u f.gid = [] ∧
        c.saved = { ungranted T with
          gen := T.gen + 1, preempt := none, ctxState := .forced, reservation := none
          queue := (T.queue.filter fun e => e.done || !e.xw).map frameEntry
          replay := none, place := 0, peek := false, wake := false, sbaseNow := T.sbase, sdescNow := T.sdesc }) ∧
      (r.deadline + 10000 * mhz ≤ s.clock → copiesOpen f f.gid = false → closeLocked f f.gid = false →
        ∃ u, Does .saveEngineTimeout s u ∧ Idle u.t .lost ∧ u.gid = f.gid ∧ k.ctx ∉ u.ctxUsed ∧ u.suspended = others) ∧
      (r.deadline + 10000 * mhz ≤ s.clock → copiesOpen f f.gid = true →
        ∃ u, Does .saveEngineTimeout s u ∧ u.t = { T with
          ctxState := .lost, failing := some (true, 129), pend := false, queue := [], replay := none, framing := none, locks := []
          firmware := false, reservation := u.t.reservation }) ∧
      (s.clock < r.deadline + 10000 * mhz → Does .saveEngineTimeout s f)) ∧
    (∀ k, T.task = some k → T.ctxState = .active → T.watchdog ≠ 0 →
      (s.clock < T.watchdog → Does .watchdogExpiry s f) ∧
      (T.framing.isSome → Does .watchdogExpiry s f) ∧
      (∀ r, T.preempt = some r → r.sure = false → r.deadline < T.watchdog → r.deadline ≤ s.clock → Does .watchdogExpiry s f) ∧
      (T.watchdog ≤ s.clock → T.framing = none →
        (∀ r, T.preempt = some r → r.sure = true ∨ s.clock < r.deadline ∨ T.watchdog ≤ r.deadline) →
        T.pend = false → saveLocked f = false → Sound f T.sbase T.sdesc → (∀ e ∈ T.queue.head?, e.done = false) → recordsOwed f f.gid = false →
        T.mode ≠ .machine → T.medeleg.getLsbD 48 = true →
        ∃ u fr, Does .watchdogExpiry s u ∧ u.t.queue = [] ∧ u.t.pend = true ∧ u.t.watchdog = 0 ∧ u.t.scause = 48 ∧ u.t.stval = 0 ∧
          u.t.sepc = T.pc ∧ u.t.mode = .supervisor ∧ u.t.x = T.x ∧ u.t.v = T.v ∧
          u.frames.find? (fun p => p.1 == k.ctx) = some (k.ctx, fr) ∧ fr.cause = 48 ∧
          fr.entries.map (fun e => (e.instr, e.pc, e.progress)) =
            (T.queue.filter fun e => e.done || !e.xw).map fun e => (e.instr, e.pc, e.progress)))

/-- R45, R95, R232, R329 to R333, R348 to R350: a dispatch: a free strand of the task's instance has the task, its registers and CSRs as at entry,
and what the supervisor block says; the launch's task is started, and the context-table entry is in use. -/
def Sys2Proof.Claims.TaskDispatch : Prop :=
  ∀ (s : State) (l : Launch) (g e : Nat) (ws : List Word), s.Inv → launchOf s s.inp.key = some l → launchReady l = true →
    outranked s (dieOf g) (launchRank l (dieOf g)) = false → startStrand s l s.inp.x s.inp.b s.inp.idx = some g →
    freeCtx s (dieOf g) = some e →
    let te := tableEntry s (dieOf g) e
    let sbase := te.1 &&& 0xFFFFFFFFFFF000
    let sdesc := te.2 &&& 0xFFFFFFFFFFFFC0
    Sound s sbase sdesc → supervisorBlock s ((descRead s sdesc 24 8).getD 1) = some ws →
      ∃ t, exec .taskDispatch s = .next t ∧
        dieOf g * 8192 + e ∈ t.ctxUsed ∧
        (∃ m, launchOf t l.key = some m ∧ m.started = s.inp.idx :: l.started ∧ m.place = some (s.inp.x, s.inp.b)) ∧
        let T := strandAt t g
        let w := fun i => ws.getD i 0
        (∃ k, T.task = some k ∧ k.id = BitVec.ofNat 32 (recTaskId l.image + s.inp.idx) ∧ k.launch = l.key ∧ k.index = s.inp.idx ∧
          k.ctx = dieOf g * 8192 + e ∧ k.prio = recPrio l.image) ∧
        T.pc = word (recEntry l.image) ∧ T.ctxState = .active ∧
        (∀ r : Fin 32, T.x[r] =
          if r.val = 2 then T.x[2]
          else if r.val = 10 then word (recCount l.image)
          else if 11 ≤ r.val ∧ r.val ≤ 26 then word (recArg l.image (r.val - 11))
          else 0) ∧
        (recResult l.image = 0 → T.x[2] = 0) ∧ T.x[2].toNat % 16 = 0 ∧
        T.vl = 0 ∧ T.vcfg = 4 ∧ T.vkey = 0 ∧ T.vstat = 0 ∧ T.vmcnt = 0 ∧ T.vtrows = 0 ∧ T.vrthr = 0x40000 ∧ T.ctags = 0 ∧
        T.cfault = 0 ∧ T.queue = [] ∧ T.claims = List.replicate 32 .free ∧ T.unfold = none ∧
        T.weight = BitVec.ofNat 8 (recWeight l.image) ∧ T.sbase = sbase ∧ T.sdesc = sdesc ∧ T.medeleg = 0x10000FF00B1FF ∧
        T.mode = (if (descRead s sdesc 22 1).getD 0 % 2 = 1 then .supervisor else .user) ∧
        T.stvec = w 0 &&& ~~~2#64 ∧ T.sscratch = w 1 ∧ T.stimecmp = w 4 ∧ T.datp = w 5 ∧
        T.fmtb = w 6 &&& 0xFFFFFFFFFFF801

/-- R32, R219, R332, R333, R348, R352, R356: a suspended context is reloaded, with its reassembly records, on a free strand that it may resume
on, no line being locked, and is LOST where its frames are no more as written; a node becomes ready once its predecessors have completed, each
die's node at its own moment, and a streamed line is then in its slice's cache; a launch of no task completes as soon as it is ready, and what
precedes its completion precedes the launches that waited for it. -/
def Sys2Proof.Claims.ResumptionAndReadiness : Prop :=
  ∀ (s : State), s.Inv →
    let g := s.inp.gid
    let die := s.inp.die
    (∀ c, s.suspended.find? (fun d => d.ctx == s.inp.key) = some c →
      g < 2048 → strandFree s g = true → mayResume s c g = true → outranked s (c.ctx / 8192) (readyRank s c) = false →
      (∀ n, (sliceAt s n).locks = []) → Sound s c.saved.sbase c.saved.sdesc →
        ((∃ p ∈ c.seeds, imageOk s (c.saved.sbase.toNat + p.1) p.2 = false) → copiesOpen s g = false → c.saved.task.isSome →
          ∃ t, exec .taskResumption s = .next t ∧ Idle (strandAt t g) .lost) ∧
        ((∀ p ∈ c.seeds, imageOk s (c.saved.sbase.toNat + p.1) p.2 = true) →
        ∃ t, exec .taskResumption s = .next t ∧ (∀ d ∈ t.suspended, d.ctx ≠ c.ctx) ∧
          t.records = s.records ++ c.records.map (fun r => { r with gid := g }) ∧
          let T := strandAt t g
          T = { c.saved with
            gen := (strandAt s g).gen, preempt := none, ctxState := .active, share := T.share, nextShare := T.nextShare, watchdog := T.watchdog
            reservation := T.reservation, sbaseNow := c.saved.sbase, sdescNow := c.saved.sdesc })) ∧
    (∀ l, launchOf s s.inp.key = some l → l.hold = false → (∀ k ∈ l.edges, launchOf s k = none) → die ∈ l.nodes.map Prod.fst →
      die ∉ l.ready.map Prod.fst →
        let ready := ∀ n ∈ l.nodes, n.1 ∈ die :: l.ready.map Prod.fst
        ∃ t, exec .nodeReady s = .next t ∧
          (ready → taskTotal l.image = 0 → t.launches = (s.launches.filter fun m => m.key != l.key).map fun m =>
            if m.edges.contains l.key then { m with clock := m.clock.max l.doneClock } else m) ∧
          (¬ ready ∨ taskTotal l.image ≠ 0 →
            launchOf t l.key = some { l with ready := (die, (s.nextOrder, s.clock)) :: l.ready }) ∧
          (∀ a, streamLines s l die = [a] → s.errs = [] → lineLocked s a = false → (∀ n, (sliceAt s n).locks = []) →
            0 < cacheWays s (homeSlice a) → a ∈ (sliceAt t (homeSlice a)).cache) ∧ t.mem = s.mem)

namespace Sys2Proof.Claims

/-- No vector atomic holds the lock of a line (R255). -/
def Unlocked (s : State) (line : Nat) : Prop := ∀ p ∈ (sliceAt s (homeSlice line)).locks, p.1 ≠ line

/-- No engine owns a line (R194). -/
def Unowned (s : State) (line : Nat) : Prop := ∀ p ∈ (sliceAt s (homeSlice line)).owned, p.1 ≠ line

/-- A strand's port may inject a request of a class for a line at a slice now, its reply having `nf + 1` flits, and the record it
reserves is number n, the lowest that is free (R203, R205, R219); no such request waits in the slice's queue already. That the lowest is taken
is the model's choice (log entry 100). -/
def Injects (s : State) (sl g plane line typ nf n : Nat) : Prop :=
  portStopped s g = false ∧ unanswered s g line nf = false ∧ queuedRequest s sl g line typ = none ∧ n < 32 ∧
    (∀ r ∈ s.records, r.multicast = false → r.gid = g → r.plane = plane → r.recNo ≠ n) ∧
    ∀ i, i < n → ∃ r ∈ s.records, r.multicast = false ∧ r.gid = g ∧ r.plane = plane ∧ r.recNo = i

/-- A record as it is reserved (R203) for a scalar or a vector access. -/
def Reserved (s : State) (g plane n line nf : Nat) (scalar : Bool) : Record :=
  ⟨g, plane, n, false, line, 0, nf, [], none, false, false, false, Clock4.zero, s.inp.va, scalar⟩

/-- No record of a strand waits for a line. -/
def NoRecord (s : State) (g line : Nat) : Prop := ∀ r ∈ s.records, r.multicast = false → r.gid = g → r.line ≠ line

/-- The first message of a kind on the wire, and the wire without it. -/
def FirstMsg (s : State) (kind : Msg → Prop) (m : Msg) (rest : List Msg) : Prop :=
  ∃ pre post, s.wire = pre ++ m :: post ∧ rest = pre ++ post ∧ kind m ∧ ∀ x ∈ pre, ¬ kind x

/-- An entry as it was pushed, its element operands being the strand's registers. -/
def AsPushed (e : QEntry) : Prop :=
  e.done = false ∧ e.vsrc = [] ∧ e.ksrc = [] ∧ e.late = 0 ∧ e.held = [] ∧ fmtLegal (cfgFmt e.vcfg) = true ∧ e.vl.toNat ≤ cfgVlmax e.vcfg

/-- What the oldest entry of the focus strand's queue is when an event tries it again: as it was pushed, in the mode of now; its unit and its spares are
there (R26, R41, R135), and no register of the strand holds bad parity (R360). -/
def Retried (f : State) (e : QEntry) : Prop :=
  AsPushed e ∧ e.mode = f.t.mode ∧ e.sum = f.t.mstatus.getLsbD 18 ∧ e.mxr = f.t.mstatus.getLsbD 19 ∧
    hasSpares f [] e = true ∧ unitFreeFor f 0 e = true ∧ f.t.vbad = [] ∧ f.t.kbad = []

/-- A strand whose oldest entry has been performed from the queue: it awaits its commit (R18), and past an instruction that writes an x register
the scalar stream goes on (R19). -/
def HeadDone (T : Strand) (e : QEntry) (r : List QEntry) : Strand :=
  { T with
    replay := none, peek := false, upto := none, place := 0
    queue := { e with done := true, passed := true, late := 0 } :: r
    pc := if e.xw then T.pc + 4 else T.pc }

/-- The oldest entry still waits, past its fault point (R27). -/
def HeadWaits (u : State) (e : QEntry) (r : List QEntry) : Prop :=
  ∃ e', u.t.queue = e' :: r ∧ e'.instr = e.instr ∧ e'.pc = e.pc ∧ e'.done = false ∧ e'.progress = 0 ∧ e'.passed = true

/-- What the failure of a strand's access leaves (R402, R403): nothing where the strand has no task; a pending trap of a scalar access; the trap of
the memory instruction at the head of the queue, for a vector one. -/
def FailsAt (u : State) (r : Record) (cause : Nat) (t : State) : Prop :=
  let T := strandAt u r.gid
  let f := focusOn u r.gid
  (T.task = none → t = u) ∧
    (T.task.isSome → r.scalar = true → t = putStrand u r.gid { T with storeTraps := T.storeTraps ++ [⟨cause, r.va⟩] }) ∧
    (T.task.isSome → r.scalar = false →
      (∀ e q, f.t.queue = e :: q → e.done = false → e.word.toNat % 128 = 0x2B →
        t = focusOn (vectorTrap f f e q cause r.va f.t.pc) u.gid) ∧
      (f.t.queue = [] → t = focusOn f u.gid))

/-- An answer of one flit to a strand's request for a line lands (R203, R403): its record, where one waits, is freed, and a failed one fails there. -/
def LandsOne (i : Instr) (s : State) (g line : Nat) (failed : Bool) (cause : Nat) (rest : List Msg) : Prop :=
  let found := s.records.find? fun r => recordFor g line r && decide (r.nf = 0)
  (found = none → exec i s = .next { s with wire := rest }) ∧
    ∀ r, found = some r → r.got = 0 → r.dead = false →
      let u := { s with wire := rest, records := s.records.erase r }
      (failed = false → r.failed = false → exec i s = .next u) ∧
      (failed = true ∨ r.failed = true → ∃ t, exec i s = .next t ∧ FailsAt u r cause t)

/-- A guest may apply an update (R244): the epochs before the write's have come from its die, and those the write follows from the
other dies. -/
def MayApply (s : State) (u : Update) : Prop :=
  (u.clock.get u.origin).toNat ≤ frontier s u.die u.origin + 1 ∧
    ∀ e, e < 4 → e ≠ u.die → e ≠ u.origin → (u.clock.get e).toNat ≤ frontier s u.die e

/-- Memory after `bs` has been written at a location. -/
def Written (s t : State) (loc : Nat) (bs : List Byte) : Prop :=
  ∀ x, homeByte t x = if loc ≤ x ∧ x < loc + bs.length then bs.getD (x - loc) 0 else homeByte s x

/-- Memory after a list of bytes has been written, a later one over an earlier one. -/
def WrittenList (s t : State) (ws : List (Nat × Byte)) : Prop :=
  ∀ x, homeByte t x = ((ws.reverse.find? fun w => w.1 == x).map Prod.snd).getD (homeByte s x)

/-- No line with guests of a slice, other than one, is left 2^30 behind by the count after the next (R210). -/
def NoneDue (s : State) (sl line : Nat) : Prop :=
  ∀ p ∈ s.lines, p.2.guests = 0 ∨ homeSlice p.1 ≠ sl ∨ p.1 = line ∨ ((sliceAt s sl).counter + 2 - p.2.stamp).toNat < 2 ^ 30

end Sys2Proof.Claims

open Sys2Proof Sys2Proof.Machine Sys2Proof.Claims

/-- R182 to R185, R188, R202, R203, R205, R219, R237, R244, R402, R403: a read request reserves the lowest free record and sends the line as the
strand's die reads it; the slice that serves it holds the line, but after a vector load whose footprint is above THR. A replica fill, and a scalar
fill of another die's line, takes the home's value, stamp, clock and a guest bit. The reply's flits land in the record that they name, and the last
one delivers it: the record is free, or keeps the line for the frame while the port is stopped; a failed reply fails at its requester. -/
def Sys2Proof.Claims.ReadEvents : Prop :=
  ∀ (s : State), s.Inv →
    let g := s.inp.gid
    let line := s.inp.line
    let die := dieOf g
    let dest := s.inp.dest
    let sl := servingSlice s die line
    let guest := dest = .replica ∨ dest = .scalarL1
    (∀ n, Injects s sl g (planeOf line) line 0 1 n → line * 128 < hostLoc → Unlocked s line → Unowned s line →
      (dest = .scalarL1 → (∀ c, (c, line) ∈ s.invals → c / 8 ≠ die ∧ c / 8 ≠ homeDie line) ∧ ∀ w ∈ s.waits, w.line ≠ line) →
        ∃ t, exec .readRequest s = .next t ∧
          t = { s with
            slices := t.slices, lines := t.lines, replicas := t.replicas, updates := t.updates, l1 := t.l1
            records := s.records ++ [Reserved s g (planeOf line) n line 1 (decide (dest = .scalarL1 ∨ dest = .instrCache))]
            wire := s.wire ++ [.readReply g line n (readBytes s die (line * 128) 128) (s.errs.contains line) dest] } ∧
          (∀ k, sliceAt t k = { sliceAt s k with cache := (sliceAt t k).cache }) ∧
          (∀ l, lineAt t l = { lineAt s l with guests := (lineAt t l).guests }) ∧
          (dest = .instrCache ∨ (dest = .record ∧ s.inp.f0 = false) → line * 128 < bskLoc → setFull s sl line = false →
            line ∈ (sliceAt t sl).cache) ∧
          (guest → line * 128 < bskLoc → homeDie line ≠ die → replicaAt s die line = none → line ∉ s.errs →
            setFull s (die * 512 + homeSlice line % 512) line = false →
            replicaAt t die line =
              some ⟨die, line, (lineAt s line).stamp, (lineAt s line).past, homeBytes s (line * 128) 128, []⟩ ∧
            (die < 4 → (lineAt t line).guests.getLsbD die = true))) ∧
    (∀ r bs failed dest rest, s.records.find? (fun r => recordFor g line r && (replyOf s r).isSome) = some r →
      FirstMsg s (fun m => ∃ b f d, m = .readReply g line r.recNo b f d) (.readReply g line r.recNo bs failed dest) rest →
      r.nf = 1 → r.dead = false →
        let got := r.got ||| BitVec.ofNat 3 (2 ^ (s.inp.slot % 2))
        let landed := fun q : Record => s.records.map fun p => if p = r then q else p
        let u := { s with
          wire := rest
          records := if portStopped s g then landed { r with got := got, bytes := bs, delivered := true } else s.records.erase r }
        (got ≠ 3 → exec .readReply s = .next { s with records := landed { r with got := got } }) ∧
        (got = 3 → failed = true ∨ r.failed = true → ∃ t, exec .readReply s = .next t ∧
          FailsAt { s with wire := rest, records := s.records.filter fun q => !(recordFor g line q && q.recNo == r.recNo) } r 27 t) ∧
        (got = 3 → failed = false → r.failed = false →
          (dest = .record ∨ dest = .replica → exec .readReply s = .next u) ∧
          (dest = .instrCache → ∃ C, exec .readReply s = .next { u with icache := C } ∧
            (coreOf g, (line, bs)) ∈ C ∧
            ∀ p ∈ C, p = (coreOf g, (line, bs)) ∨ (p ∈ s.icache ∧ ¬ (p.1 = coreOf g ∧ p.2.1 = line))) ∧
          (dest = .scalarL1 → ∃ L, exec .readReply s = .next { u with l1 := L } ∧
            (line * 128 < hostLoc → (homeDie line = coreOf g / 128 ∨ ∃ q ∈ s.replicas, q.die = coreOf g / 128 ∧ q.line = line) →
              (bskLoc ≤ line * 128 ∨ line ∈ (sliceAt s (servingSlice s (coreOf g / 128) line)).cache) → (coreOf g, line) ∈ L) ∧
            ∀ p ∈ L, p ∈ s.l1 ∨ p = (coreOf g, line))))

/-- R183, R203, R205, R210, R360, R402, R403: a write request reserves a record. While a scalar L1 of the home die other than a scalar writer's holds
the line, or a write waits for it already, it waits, and an invalidation goes to each cluster that holds copies. Else it is refused on a line whose
check fails, unless it covers it; else it is accepted and stamped, and acknowledged. The acknowledgement frees the record; a refused write fails at
its requester. -/
def Sys2Proof.Claims.WriteEvents : Prop :=
  ∀ (s : State), s.Inv →
    let g := s.inp.gid
    let loc := s.inp.loc
    let bs := s.inp.data
    let scalar := s.inp.f0
    let line := lineOf loc
    let sl := homeSlice line
    (∀ n, loc < hostLoc → bs ≠ [] → loc % 128 + bs.length ≤ 128 → Unlocked s line → Injects s sl g (planeOf line) line 2 0 n →
      let copy := fun p : Nat × Nat => p ∈ s.l1 ∧ p.2 = line ∧ p.1 / 128 = homeDie line ∧ ¬ (scalar = true ∧ p.1 = coreOf g)
      let waiting := ∃ w ∈ s.waits, w.line = line
      let refused := line ∈ s.errs ∧ bs.length < 128
      let u := { s with records := s.records ++ [Reserved s g (planeOf line) n line 0 scalar] }
      ((∃ p, copy p) ∨ waiting →
        ∃ I, exec .writeRequest s = .next { u with
            invals := I, waits := s.waits ++ [⟨g, line, (List.range bs.length).map fun i => (loc + i, bs.getD i 0), none, scalar, s.inp.va⟩] } ∧
          ∀ c l, (c, l) ∈ I ↔ (c, l) ∈ s.invals ∨ (l = line ∧ ¬ waiting ∧ ∃ p, copy p ∧ p.1 / 16 = c)) ∧
      ((∀ p, ¬ copy p) → ¬ waiting → Unowned s line →
        (refused → exec .writeRequest s = .next { u with wire := s.wire ++ [.writeAck g line 0 s.inp.va scalar true] }) ∧
        (¬ refused → ∃ t, exec .writeRequest s = .next t ∧ WritesOnly u t ∧ Written s t loc bs ∧ line ∉ t.errs ∧
          (NoneDue s sl line → (lineAt t line).stamp = (sliceAt s sl).counter + 1 ∧ (sliceAt t sl).counter = (sliceAt s sl).counter + 1) ∧
          (∀ l ∈ (sliceAt t sl).links, l.line ≠ line) ∧
          .writeAck g line (lineAt t line).stamp s.inp.va scalar false ∈ t.wire))) ∧
    ∀ st va sc f rest, FirstMsg s (fun m => ∃ st va sc f, m = .writeAck g s.inp.line st va sc f) (.writeAck g s.inp.line st va sc f) rest →
      LandsOne .writeAcknowledgement s g s.inp.line f (if s.inp.line * 128 < hostLoc then 27 else 7) rest

/-- R184, R203, R205, R253, R255, R402, R403: an atomic at a bank ALU, and its reply; the lock of a line, which its slice then holds, and its retry
after a NACK. -/
def Sys2Proof.Claims.AtomicEvents : Prop :=
  ∀ (s : State), s.Inv →
    let g := s.inp.gid
    let loc := s.inp.loc
    let n := if s.inp.f0 then 8 else 4
    let old := homeNat s loc n
    let T := strandAt s g
    let line := s.inp.line
    let sl := homeSlice line
    (∀ k, loc < hostLoc → loc % n = 0 → Unlocked s (lineOf loc) → Unowned s (lineOf loc) →
      Injects s (homeSlice (lineOf loc)) g (planeOf (lineOf loc)) (lineOf loc) 4 0 k →
      let u := { s with records := s.records ++ [Reserved s g (planeOf (lineOf loc)) k (lineOf loc) 0 true] }
      (lineOf loc ∈ s.errs → exec .atomicRequest s = .next { u with wire := s.wire ++ [.atomicReply g loc 0 true] }) ∧
      (lineOf loc ∉ s.errs → ∃ t, exec .atomicRequest s = .next t ∧ WritesOnly u t ∧ .atomicReply g loc (word old) false ∈ t.wire ∧
        (s.inp.amo = .lr → t.mem = s.mem ∧ t.images = s.images) ∧
        (s.inp.amo ≠ .lr → Stored s t 0 loc n (amoInt s.inp.amo (8 * n) old (s.inp.lo.toNat % 2 ^ (8 * n)))))) ∧
    (∀ v f rest, FirstMsg s (fun m => ∃ v f, m = .atomicReply g loc v f) (.atomicReply g loc v f) rest →
      LandsOne .atomicReply s g (lineOf loc) f 27 rest) ∧
    (∀ e r, T.queue = e :: r → e.done = false → e.word.toNat % 128 = 0x2B → (e.word.toNat / 2 ^ 12 % 8 = 2 ∨ e.word.toNat / 2 ^ 12 % 8 = 3) →
      line * 128 < hostLoc → Unlocked s line → (∀ l ∈ T.locks, l < line) → portStopped s g = false → unanswered s g line 0 = false →
      queuedRequest s sl g line 4 = none → (freeRecord s g (planeOf line)).isSome →
        (waysLocked s line = true → exec .lineLockRequest s = .next { s with wire := s.wire ++ [.lockReply g line false] }) ∧
        (waysLocked s line = false → Unowned s line → ∃ t, exec .lineLockRequest s = .next t ∧
          t = { s with
            t := t.t, peers := t.peers, slices := t.slices, lines := t.lines, replicas := t.replicas, updates := t.updates, l1 := t.l1 } ∧
          (line, g) ∈ (sliceAt t sl).locks ∧ (line * 128 < bskLoc → setFull s sl line = false → line ∈ (sliceAt t sl).cache) ∧
          (∀ k, sliceAt t k = { sliceAt s k with cache := (sliceAt t k).cache, locks := (sliceAt t k).locks }) ∧
          ∀ h, strandAt t h = if h = g then { T with locks := T.locks ++ [line] } else strandAt s h)) ∧
    (∀ m rest, FirstMsg s (fun m => ∃ l, m = .lockReply g l false) m rest → ∃ u, Does .amoLockRetry s u ∧
      u = { focusOn s g with t := { T with locks := [] }, slices := u.slices, wire := rest } ∧
      ∀ l ∈ T.locks, (l, g) ∉ (sliceAt u (homeSlice l)).locks)

/-- R183, R194, R203, R211, R233: an invalidation that a home has sent takes a line out of the scalar L1s of its cluster, but a scalar writer's own, and
its acknowledgement waits for them; after the last one the write that waits first is refused or accepted. Ownership of a line is asked for by a
running copy that writes the line next; it is granted to the agent that has waited longest where no one has the line and its engine owns fewer
than 256, the scalar L1s of the home die losing it, and the copy reads and holds what it writes there; at a recall that is written. -/
def Sys2Proof.Claims.CoherenceEvents : Prop :=
  ∀ (s : State), s.Inv →
    let line := s.inp.line
    let unit := s.inp.unit
    let sl := homeSlice line
    let k := sliceAt s sl
    let first := s.waits.find? fun w => w.line == line
    let spared := fun p : Nat × Nat => ∃ w, first = some w ∧ w.isScalar = true ∧ p.1 = coreOf w.gid
    let target := fun p : Nat × Nat => (unit, line) ∈ s.invals ∧ p.1 / 16 = unit ∧ p.2 = line ∧ ¬ spared p
    let I := s.invals.erase (unit, line)
    (∃ L, exec .scalarL1Invalidation s = .next { s with l1 := L } ∧ ∀ p, p ∈ L ↔ p ∈ s.l1 ∧ ¬ target p) ∧
    (((unit, line) ∉ s.invals ∨ ∃ p ∈ s.l1, target p) → exec .invalidationAcknowledgement s = .next s) ∧
    ((unit, line) ∈ s.invals → (∀ p ∈ s.l1, ¬ target p) →
      ((∃ c, (c, line) ∈ I) ∨ ¬ Unlocked s line ∨ first = none → exec .invalidationAcknowledgement s = .next { s with invals := I }) ∧
      ∀ w, (∀ c, (c, line) ∉ I) → Unlocked s line → Unowned s line → first = some w →
        let u := { s with invals := I, waits := s.waits.erase w }
        let refused := line ∈ s.errs ∧ coversLine (w.ws.map Prod.fst) line = false
        (refused → exec .invalidationAcknowledgement s = .next { u with wire := s.wire ++ [.writeAck w.gid line 0 w.va w.isScalar true] }) ∧
        (¬ refused → ∃ t, exec .invalidationAcknowledgement s = .next t ∧ WritesOnly u t ∧ WrittenList s t w.ws ∧
          .writeAck w.gid line (lineAt t line).stamp w.va w.isScalar false ∈ t.wire)) ∧
    ((∀ j, copyRunning s unit = some j → nextLine s j ≠ some line) → exec .ownershipRequest s = .next s) ∧
    (∀ j n, copyRunning s unit = some j → nextLine s j = some line → Unowned s line → (line, unit) ∉ k.ownerQueue →
      Injects s sl (unit / 64) (planeOf line) line 8 0 n →
      ∃ S, exec .ownershipRequest s = .next { s with
          slices := S, records := s.records ++ [Reserved s (unit / 64) (planeOf line) n line 0 false] } ∧
        ∀ i, sget Slice.reset S i = if i = sl then { k with ownerQueue := k.ownerQueue ++ [(line, unit)] } else sliceAt s i) ∧
    (∀ a rest, FirstMsg s (fun m => ∃ a, m = .ownerGrant a line) (.ownerGrant a line) rest →
      LandsOne .ownershipGrant s (a / 64) line false 27 rest) ∧
    (∀ pre a post, (∀ b, .ownerGrant b line ∉ s.wire) → k.ownerQueue = pre ++ (line, a) :: post → (∀ p ∈ pre, p.1 ≠ line) →
      let left := fun (S : List (Nat × Slice)) o => ∀ i, sget Slice.reset S i =
        if i = sl then { k with owned := o, ownerQueue := pre ++ post } else sliceAt s i
      ((∀ j, copyRunning s a = some j → nextLine s j ≠ some line) →
        ∃ S, exec .ownershipGrant s = .next { s with slices := S } ∧ left S k.owned) ∧
      ∀ j, copyRunning s a = some j → nextLine s j = some line →
        (¬ Unowned s line ∨ ¬ Unlocked s line ∨ 256 ≤ ownedBy s (a / 256) → exec .ownershipGrant s = .next s) ∧
        (Unowned s line → Unlocked s line → ownedBy s (a / 256) < 256 → j.tag < 64 → j.fill = true → isTranslated j.xl = false →
          (∀ c ∈ s.copies, c.gid = j.gid → c.tag = j.tag → c = j) → pieceFails s j (pieceOf j j.pos) = none →
          let ws := (pieceOf j j.pos).filterMap fun t => (copyTo s j t).map fun x => (x, copyByte s j t)
          ∃ S L, exec .ownershipGrant s = .next { s with
              slices := S, l1 := L, wire := s.wire ++ [.ownerGrant a line]
              copies := s.copies.map fun c => if c = j then
                { j with pos := j.pos + pieceLen j j.pos, got := [], held := j.held ++ [(line, ws)] } else c } ∧
            (∀ p, p ∈ L ↔ p ∈ s.l1 ∧ ¬ (p.2 = line ∧ p.1 / 128 = homeDie line)) ∧ left S (k.owned ++ [(line, a)]))) ∧
    (Unowned s line → exec .ownershipRecall s = .next s) ∧
    ∀ a, (line, a) ∈ k.owned → (∀ p ∈ k.owned, p.1 = line → p = (line, a)) →
      ((∀ j ∈ s.copies, j.gid * 64 + j.tag ≠ a) → ∃ S, exec .ownershipRecall s = .next { s with slices := S } ∧
        ∀ j, sget Slice.reset S j = if j = sl then { k with owned := k.owned.filter fun p => p != (line, a) } else sliceAt s j) ∧
      (∀ j ws, s.copies.find? (fun j => j.gid * 64 + j.tag == a) = some j → j.held = [(line, ws)] →
        ∃ t, exec .ownershipRecall s = .next t ∧ Unowned t line ∧
          t.copies = (s.copies.map fun c => if c.gid = j.gid ∧ c.tag = j.tag then { j with held := [] } else c) ∧ WrittenList s t ws)

/-- R259, R262, R263: an arrival at a barrier's home; the oldest entry tried again where it is a barrier wait whose request is not sent, or a
sleep; a request that was answered NACK sent again with twice the backoff, up to 4,096. -/
def Obligations.WaitEvents : Prop :=
  ∀ (s : State), s.Inv →
    let g := s.inp.gid
    let loc := s.inp.loc
    let f := focusOn s g
    let T := f.t
    (loc % 16 = 0 → loc < hostLoc → Unlocked s (lineOf loc) → Unowned s (lineOf loc) → lineOf loc ∉ s.errs →
      let expected := max (numAt (homeByte s) 0 loc 4) 1
      let arrived := numAt (homeByte s) 0 (loc + 4) 4 + 1
      let phase := numAt (homeByte s) 0 (loc + 8) 4
      let new := if expected ≤ arrived then (phase + 1) % 2 ^ 32 * 2 ^ 32 else arrived + phase * 2 ^ 32
      ∃ t, exec .barrierArrival s = .next t ∧ WritesOnly s t ∧ Stored s t 0 (loc + 4) 8 new) ∧
    (∀ e r a b m base, T.queue = e :: r → e.instr = .vmBwait a b m → Retried f e → act f m 0 = true → Plain f base → s.wire = [] →
      e.xa.toNat % 16 = 0 → InHbm base e.xa.toNat 16 →
      (∀ p, Deferred.bwait g (e.xa.toNat - base) p ∉ (sliceAt s (homeSlice (lineOf (e.xa.toNat - base)))).deferred) →
        let now := numAt (homeByte s) base (e.xa.toNat + 8) 4
        (now ≠ e.xb.toNat % 2 ^ 32 → ∃ u, Does .barrierWaitRequest s u ∧ Synced { f with t := HeadDone T e r } u) ∧
        (now = e.xb.toNat % 2 ^ 32 → ∃ u, Does .barrierWaitRequest s u ∧ u.mem = s.mem ∧ HeadWaits u e r)) ∧
    (∀ e r d a b m base i, i = .gcsleepWake ∨ i = .gcsleepPoll → T.queue = e :: r → e.instr = .vmGcsleep d a b m → Retried f e →
      Plain f base → e.vl.toNat ≤ 1024 →
        let addr := fun j => (e.xa.toNat + elem 32 (getV f (2 * d.toNat)).bits j) % 2 ^ 64
        let is := (List.range e.vl.toNat).filter (act f m)
        (∀ j ∈ is, InHbm base (addr j) 4 ∧ addr j % 4 = 0) →
          let S := is.filter fun j => numAt (homeByte s) base (addr j) 4 == elem 32 (getV f (2 * d.toNat + 1)).bits j
          let met := (if b = 1 then S = is else S ≠ []) ∨ e.vl = 0 ∨ T.wake = true ∨ T.preempt.isSome
          (met → ∃ K u, Mask e.vl.toNat K (fun j => S.contains j) ∧ Does i s u ∧
            Awake { f with t := { HeadDone T e r with k := if m = 0 then T.k else T.k.set m.toNat K } } u) ∧
          (¬ met → ∃ u, Does i s u ∧ HeadWaits u e r ∧ u.mem = s.mem ∧ u.t.k = T.k)) ∧
    (∀ bar ph n rest, FirstMsg s (fun m => (∃ l p n, m = .nackBwait g l p n) ∨ ∃ h n, m = .nackFld g h n) (.nackBwait g bar ph n) rest →
      let now := BitVec.ofNat 32 (homeNat s (bar + 8) 4)
      let sl := homeSlice (lineOf bar)
      let k := sliceAt s sl
      (¬ Unlocked s (lineOf bar) → exec .nackRetry s = .next s) ∧
      (Unlocked s (lineOf bar) → Unowned s (lineOf bar) →
        (now ≠ ph → exec .nackRetry s = .next { s with wire := rest ++ [.phase g bar now (homeClock s (lineOf bar))] }) ∧
        (now = ph → ∃ S, (∀ j, j ≠ sl → sget Slice.reset S j = sliceAt s j) ∧
          (k.deferred.length < 32 → exec .nackRetry s = .next { s with wire := rest, slices := S } ∧
            sget Slice.reset S sl = { k with deferred := k.deferred ++ [.bwait g bar ph] }) ∧
          (32 ≤ k.deferred.length →
            exec .nackRetry s = .next { s with wire := rest ++ [.nackBwait g bar ph (min 4096 (2 * n))], slices := S } ∧
            sget Slice.reset S sl = { k with nacks := k.nacks + 1 }))))

/-- R310 to R317, R319 to R325: the request of the CLAIM instruction at the head of a strand's queue, as it reaches its slice: a claim, a future load,
a fulfilment, an abandon, a release, and a probe. Without such an entry nothing happens. -/
def Obligations.SlathEvents : Prop :=
  ∀ (s : State) (j : Nat), s.Inv →
    let g := s.inp.gid
    let f := focusOn s g
    let T := f.t
    (T.queue = [] → ∀ i ∈ [Instr.slathClaimRequest, .slathFldRequest, .slathFulfilRequest, .slathAbandonRequest, .slathReleaseRequest,
      .slathProbeRequest], Does i s f) ∧
    ∀ e r, T.queue = e :: r → Retried f e →
      let D := { f with t := HeadDone T e r }
      let gives := fun (i : Instr) (x : Vector Word 32) (c : ClaimSlot) (k n : Nat) (v : State → SlathEntry) (more : State → List Msg) =>
        ∃ u, Does i s u ∧ ClaimFrame D u ∧ u.t.x = x ∧ u.t.claims = T.claims.set j c ∧ slathAt u k n = v u ∧ OthersKeep D u k n ∧
          u.wire = s.wire ++ more u
      let rd := fun (d : Reg) (v : Word) => (withX D d v).t.x
      (∀ d a b, e.instr = .vxClaim d a b →
        let hi := e.xa
        let lo := e.xb
        let k := slathSlice hi lo
        let at' := fun w => slathSet hi lo * 8 + w
        let n := fun w => slathAt s k (at' w)
        let named := fun w => (n w).state ≠ .free ∧ (n w).hi = hi ∧ (n w).lo = lo
        let answers := fun (v : Word) (c : ClaimSlot) w (x : SlathEntry) =>
          gives .slathClaimRequest (rd d v) c k (at' w) (fun _ => x) fun _ => []
        ((∀ i, i < 32 → T.claims.getD i .free ≠ .free) → Does .slathClaimRequest s (withX D d 3)) ∧
        (FirstSlot f (fun c => c = .free) j →
          (∀ w, w < 8 → (∀ i, i < 8 → ¬ named i) → (n w).state = .free → (∀ i, i < w → (n i).state ≠ .free) →
            let h := handleOf k (at' w) (n w).gen 0 0x5C
            answers h (.maker h) w ⟨hi, lo, 0, .making, false, BitVec.ofNat 11 g, 0, 0, 0, (n w).gen, Clock4.zero, 0⟩) ∧
          (∀ w, w < 8 → named w → (∀ i, i < w → ¬ named i) →
            ((n w).state = .making → (n w).vac = true →
              let h := handleOf k (at' w) (n w).gen (n w).lease 0x5C
              answers h (.maker h) w { n w with vac := false, maker := BitVec.ofNat 11 g }) ∧
            ((n w).state = .making → (n w).vac = false → (n w).wait ≠ 4095#12 →
              let h := handleOf k (at' w) (n w).gen 0 0x5D
              answers (h ||| 1) (.future h) w { n w with wait := (n w).wait + 1 }) ∧
            ((n w).state = .done → (n w).refs ≠ 0xFFFF#16 →
              answers ((n w).value ||| 2) (.ref k (at' w) (n w).gen (n w).value) w { n w with refs := (n w).refs + 1, age := 0 })))) ∧
      (let h := e.xa
       let k := handleSlice h
       let n := handleEntry h
       let held := heldFlds s k n
       (∀ d a x, e.instr = .vxFld d a → Current s h x → FirstSlot f (HoldsFuture h) j → handleTag h = 0x5D → s.wire = [] →
         (x.state = .done → gives .slathFldRequest (rd d (x.value ||| 2)) (.ref k n x.gen x.value) k n
           (fun _ => { x with wait := x.wait - 1, refs := x.refs + 1, age := 0 }) fun _ => []) ∧
         (x.state = .making → x.vac = true →
           let c := handleOf k n x.gen x.lease 0x5C
           gives .slathFldRequest (rd d c) (.maker c) k n (fun _ => { x with wait := x.wait - 1, vac := false, maker := BitVec.ofNat 11 g })
             fun _ => []) ∧
         (x.state = .making → x.vac = false → x.maker.toNat ≠ g → (sliceAt s k).deferred = [] →
           ∃ u e', Does .slathFldRequest s u ∧ u.t.queue = e' :: r ∧ e'.instr = e.instr ∧ e'.pc = e.pc ∧ e'.done = false ∧
             (sliceAt u k).deferred = [.fld g n (handleBase h)])) ∧
       (∀ a b x, e.instr = .vxFulfil a b → Current s h x → FirstSlot f (HoldsMaker h) j → handleTag h = 0x5C → x.state = .making →
         x.vac = false → e.xb.toNat % 8 = 0 → canonical e.xb.toNat = true →
           gives .slathFulfilRequest T.x .free k n
             (fun u => { x with
               state := .done, value := e.xb, maker := 0, age := 0, clock := clockAt u (dieOf g)
               wait := x.wait - BitVec.ofNat 12 held.length, refs := x.refs + BitVec.ofNat 16 held.length })
             fun u => held.map fun p => .slath p.1 p.2 (e.xb ||| 2) (clockAt u (dieOf g)) false) ∧
       (∀ a x, e.instr = .vxAbandon a → Current s h x → FirstSlot f (fun c => HoldsMaker h c ∨ HoldsFuture h c) j →
         (handleTag h = 0x5C → x.state = .making → x.vac = false → held = [] →
           gives .slathAbandonRequest T.x .free k n
             (fun _ => if x.wait = 0 then Freed x else { x with lease := x.lease + 1, vac := true, maker := 0 }) fun _ => []) ∧
         (handleTag h = 0x5D →
           gives .slathAbandonRequest T.x .free k n
             (fun _ => if x.state = .making ∧ x.vac = true ∧ x.wait = 1 then Freed x else { x with wait := x.wait - 1 }) fun _ => [])) ∧
       (∀ a k' n' gen, e.instr = .vxRelease a → FirstSlot f (fun c => ∃ x y z, c = .ref x y z h) j → T.claims.getD j .free = .ref k' n' gen h →
         (slathAt s k' n').state = .done → (slathAt s k' n').gen = gen → (n', gen) ∉ (sliceAt s k').lost →
           gives .slathReleaseRequest T.x .free k' n' (fun _ => { slathAt s k' n' with refs := (slathAt s k' n').refs - 1 }) fun _ => []) ∧
       (∀ d a, e.instr = .vxFprobe d a → (handleTag h = 0x5C ∨ handleTag h = 0x5D) →
         let x := slathAt s k n
         Does .slathProbeRequest s (withX D d (if x.state = .free ∨ x.gen ≠ handleGen h ∨
           (handleTag h = 0x5C ∧ x.lease ≠ handleLease h) then 0 else word (
             (if x.state = .making then 1 else 2) + (if x.vac then 4 else 0) +
               (if x.state = .making ∧ x.vac = false ∧ x.maker.toNat = g then 8 else 0) + x.wait.toNat * 2 ^ 4 +
               x.refs.toNat * 2 ^ 16 + x.maker.toNat * 2 ^ 32 + x.lease.toNat * 2 ^ 43)))))

/-- R26, R229, R264: a sequence ticket goes to a strand with a sequentially consistent access at its head while none is out; a push asks for its
next register, is granted one that is EMPTY, a spare of the peer core's pool being free, and is bound to the peer's context, or finds no task there,
where a force-saved context makes it wait; and the data makes it FULL. -/
def Obligations.PushEvents : Prop :=
  ∀ (s : State), s.Inv →
    let g := s.inp.gid
    let f := focusOn s g
    let T := f.t
    let mine := fun m : Msg => (∃ p r b n, m = .pushAsk g p r b n) ∨ (∃ p r b n o, m = .pushGrant g p r b n o) ∨ ∃ p, m = .pushPeer g p
    (∀ o, s.scOut = some o → exec .scTicket s = .next s) ∧
    (∀ e r d a m, s.scOut = none → T.queue = e :: r → e.done = false → e.instr = .vmLdsc d a m ∨ e.instr = .vmStsc d a m →
      exec .scTicket s = .next { s with scOut := some g, scTicket := s.scTicket + 1 }) ∧
    (∀ e r d a b m, T.queue = e :: r → e.instr = .vxPush d a b m → AsPushed e → d.toNat % cfgG e.vcfg = 0 →
      b.toNat % cfgG e.vcfg = 0 → e.xa.toNat < 2048 → e.xa.toNat ≠ g → e.progress < cfgG e.vcfg → (∀ x ∈ s.wire, ¬ mine x) →
        let w := cfgW e.vcfg
        ∃ X, Dense w e.vl.toNat X (fun i => if act f m i then elem w (getV f (b.toNat + e.progress)).bits i else 0) ∧
          Does .pushRequest s { f with wire := s.wire ++ [.pushAsk g e.xa.toNat (d.toNat + e.progress) X.bits X.len.toNat] }) ∧
    (∀ p reg bits n rest, FirstMsg s (fun m => ∃ p r b n, m = .pushAsk g p r b n) (.pushAsk g p reg bits n) rest → p ≠ g →
      T.bound = none →
        let P := strandAt s p
        let forced := ∃ c ∈ s.suspended, c.forced = true ∧ c.last = p
        (P.task = none → ¬ forced → Does .pushGrant s { f with wire := rest ++ [.pushPeer g p] }) ∧
        (P.task = none → forced → Does .pushGrant s f) ∧
        (∀ k (hr : reg < 32), P.task = some k → P.pending[reg] = none → P.granted = [] → corePending f (coreOf p) < 16 → 0 < poolFree f (coreOf p) →
          ∃ u, Does .pushGrant s u ∧ u.wire = rest ++ [.pushGrant g p reg bits n k.order] ∧ u.t = { T with bound := some k.order } ∧
            strandAt u p = { P with granted := [(reg, g)] } ∧ u.mem = s.mem)) ∧
    (∀ p reg bits n o rest k e r, FirstMsg s (fun m => ∃ p r b n o, m = .pushGrant g p r b n o) (.pushGrant g p reg bits n o) rest →
      p ≠ g → (strandAt s p).task = some k → k.order = o → T.queue = e :: r → ∀ (hr : reg < 32),
        ∃ u, Does .pushData s u ∧ u.t = { T with queue := { e with progress := e.progress + 1 } :: r } ∧ u.mem = s.mem ∧
          (∀ x, x ∈ u.wire ↔ x ∈ s.wire ∧ ¬ mine x) ∧
          strandAt u p = { strandAt s p with
            pending := (strandAt s p).pending.set reg (some ⟨.dense, false, BitVec.ofNat 12 n, BitVec.ofNat 11 n, 0, bits⟩)
            granted := (strandAt s p).granted.filter fun q => q != (reg, g) })

/-- R210, R244: a guest applies an update that its frontier allows, one line's in order, unless its replica's stamp is at or past it, keeping the
bytes that its own die wrote later; a replica is dropped; an epoch closes; a line with guests is stamped anew, its value unchanged. That a
replica's clock is the largest of the writes that it took is the model's choice (log entry 103). -/
def Obligations.ReplicaEvents : Prop :=
  ∀ (s : State), s.Inv →
    let die := s.inp.die
    let line := s.inp.line
    let i := lineAt s line
    let sl := homeSlice line
    (∀ pre u post, s.updates = pre ++ u :: post → u.die = die → MayApply s u →
      (u.line = line ∧ ∀ x ∈ pre, x.die = die → x.line ≠ line) ∨
        ((∀ x ∈ s.updates, x.die = die → x.line ≠ line) ∧ ∀ x ∈ pre, x.die ≠ die) →
      ∃ L, exec .replicaUpdate s = .next { s with
          updates := pre ++ post, l1 := L
          replicas := s.replicas.map fun r =>
            if r.die = die ∧ r.line = u.line ∧ 1 ≤ (u.stamp - r.stamp).toNat ∧ (u.stamp - r.stamp).toNat < 2 ^ 31 then
              { r with
                stamp := u.stamp, clock := r.clock.max u.clock, own := r.own.filter fun p => laterStamp p.2 u.stamp
                bytes := (List.range 128).map fun i =>
                  if r.own.any fun p => p.1 == i && laterStamp p.2 u.stamp then r.bytes.getD i 0 else u.bytes.getD i 0 }
            else r } ∧
        ∀ p, p ∈ L ↔ p ∈ s.l1 ∧ ¬ (p.1 / 128 = die ∧ p.2 = u.line)) ∧
    ((∀ u ∈ s.updates, u.die = die → ¬ MayApply s u) → exec .replicaUpdate s = .next s) ∧
    (replicaAt s die line = none → exec .replicaDrop s = .next s) ∧
    ((replicaAt s die line).isSome → homeDie line ≠ die → ∃ t, exec .replicaDrop s = .next t ∧ replicaAt t die line = none ∧
      t = { s with slices := t.slices, lines := t.lines, replicas := t.replicas, updates := t.updates, l1 := t.l1 } ∧
      (∀ k, sliceAt t k = { sliceAt s k with cache := (sliceAt t k).cache }) ∧
      lineAt t line = { i with guests := i.guests &&& ~~~BitVec.ofNat 4 (2 ^ die) } ∧ (∀ l, l ≠ line → lineAt t l = lineAt s l) ∧
      (∀ r, r ∈ t.replicas ↔ r ∈ s.replicas ∧ ¬ (r.die = die ∧ r.line = line))) ∧
    (die ∉ s.openEpochs → exec .epochCloseTimeout s = .next s) ∧
    (die ∈ s.openEpochs → ∃ C E, exec .epochCloseTimeout s = .next { s with clocks := C, openEpochs := E } ∧
      (∀ d, d ∈ E ↔ d ∈ s.openEpochs ∧ d ≠ die) ∧ ∀ d, sget Clock4.zero C d =
        if d = die then (clockAt s die).put die ((clockAt s die).get die + 1) else clockAt s d) ∧
    (i.guests = 0 → (∀ p ∈ s.lines, p.2.guests = 0 ∨ homeSlice p.1 ≠ sl ∨ ((sliceAt s sl).counter + 1 - p.2.stamp).toNat < 2 ^ 30) →
      exec .restamp s = .next s) ∧
    (i.guests ≠ 0 → NoneDue s sl line →
      let stamp := (sliceAt s sl).counter + 1
      ∃ t, exec .restamp s = .next t ∧
        t = { s with slices := t.slices, lines := t.lines, updates := t.updates } ∧
        lineAt t line = { i with stamp := stamp } ∧ sliceAt t sl = { sliceAt s sl with counter := stamp } ∧
        ∀ d, d < 4 → i.guests.getLsbD d = true →
          (⟨d, line, stamp, homeDie line, i.clock, homeBytes s (line * 128) 128⟩ : Update) ∈ t.updates)

/-- R180, R203, R250, R396, R397: an access of a strand to the host or to a Wale window is forwarded by the slice of its die that column and row of
its physical address give; one to a window goes out to the window's target, on the lowest port that reaches it and can send. An access from
another package is performed at its home slice, and answered on the port it came in on, or another while that is down: a read, a write, an atomic;
it waits while a vector atomic holds the line. -/
def Sys2Proof.Claims.OuterAccesses : Prop :=
  ∀ (s : State) (loc : Nat), s.Inv → locOf s s.inp.addr = some loc → s.errs = [] →
    let g := s.inp.gid
    let port := s.inp.unit
    let acc := s.inp.acc
    let request : RemoteReq := ⟨port, s.inp.addr, acc⟩
    let far := fun (i : Instr) (answered : State → State → List Byte → Prop) =>
      (∀ n, acc = .read n → ∃ t, exec i s = .next t ∧ answered s t (homeBytes s loc n)) ∧
      (∀ bs, acc = .write bs → ∃ u t, exec i s = .next t ∧ WritesOnly s u ∧ Written s u loc bs ∧ answered u t []) ∧
      (∀ op dword v, acc = .amo op dword v →
        let n := if dword then 8 else 4
        ∃ u t, exec i s = .next t ∧ WritesOnly s u ∧ answered u t (homeBytes s loc n) ∧
          (if op = .lr then u.mem = s.mem else Stored s u 0 loc n (amoInt op (8 * n) (homeNat s loc n) (v.toNat % 2 ^ (8 * n)))))
    let sends := fun (u t : State) (k : Nat) (payload : List Byte) =>
      let p := portAt u k
      t = { u with ports := t.ports } ∧
        portAt t k = { p with
          nextSeq := p.nextSeq + 1
          sending := p.sending ++ [p.flit p.nextSeq 1 payload]
          replay := p.replay ++ [(p.nextSeq, payload)] } ∧
        ∀ i, i ≠ k → portAt t i = portAt u i
    (∀ n, hostLoc ≤ loc → Injects s (sliceOn (dieOf g) s.inp.addr) g (columnOf s.inp.addr) (lineOf loc) 13 0 n → NoRecord s g (lineOf loc) →
      (placeOf loc = .host → far .forwardedAccess fun u t _ => t = u) ∧
      (∀ w, placeOf loc = .wale → waleOf s.map s.inp.addr = some w →
        let reaches := fun k => portReady s k = true ∧ Config.portReaches k w.target = true
        (∀ k, k < 36 → reaches k → (∀ i, i < k → ¬ reaches i) →
          far .forwardedAccess fun u t _ => sends u t k (Config.packedRequest w.target (w.tbase + (s.inp.addr - w.base)) acc)) ∧
        ((∀ k, k < 36 → ¬ reaches k) → exec .forwardedAccess s = .next s))) ∧
    (loc < hostLoc → exec .forwardedAccess s = .next s) ∧
    (loc < hostLoc → ¬ Unlocked s (lineOf loc) → exec .remoteAccess s = .next { s with incoming := s.incoming ++ [request] }) ∧
    ((loc < hostLoc → Unlocked s (lineOf loc) ∧ Unowned s (lineOf loc)) → request ∉ s.incoming → (∀ bs f, .remoteReply bs f ∉ s.wire) →
      far .remoteAccess fun u t bs =>
        (∀ k, (k = port ∧ portReady s port = true) ∨
            ((portAt s port).up = false ∧ k < 36 ∧ portReady s k = true ∧ ∀ i, i < k → portReady s i = false) →
          sends u t k (Config.packedReply bs false)) ∧
        (portReady s port = false → ((portAt s port).up = true ∨ ∀ k, k < 36 → portReady s k = false) →
          t = { u with wire := u.wire ++ [.remoteReply bs false] }))

/-- R203, R205, R211, R212, R219, R244: a masked multicast read of the `vm.ldmc` at the head of a strand's queue reserves its strand's multicast record. It is
served alone where its core is not in the mask or has joined already; it joins an open window of its key; it opens one where there is none and
room for it; a window whose cores have all joined closes. A window that closes, then or 64 Weave cycles after it opened, is read once for all that
joined, and the reply lands in each core's record. -/
def Sys2Proof.Claims.MulticastEvents : Prop :=
  ∀ (s : State), s.Inv →
    let line := s.inp.line
    let sl := homeSlice line
    let ws := (sliceAt s sl).windows
    let replies := fun (cluster : Nat) (m : BitVec 16) (mc : Bool) =>
      Msg.mcReply (cluster / 8) cluster m line (homeBytes s (line * 128) 128) mc (s.errs.contains line) (homeClock s line)
    (let g := s.inp.gid
     let mask := headMask s g
     let core := coreOf g
     let cluster := core / 16
     let bit := BitVec.ofNat 16 (2 ^ (core % 16))
     let key := fun w : Window => w.line = line ∧ w.cluster = cluster ∧ w.mask = mask
     let plane := planeOf line
     let kept := fun t : State =>
       t.records = s.records ++ [⟨g, plane, line % 32, true, line, 0, 1, [], none, false, false, false, Clock4.zero, 0, false⟩] ∧
         t = { s with records := t.records, slices := t.slices, wire := t.wire }
     let alone := ∃ t, exec .multicastReadRequest s = .next t ∧ kept t ∧ t.slices = s.slices ∧ t.wire = s.wire ++ [replies cluster bit false]
     line * 128 < hostLoc → portStopped s g = false → Unlocked s line → Unowned s line → queuedRequest s sl g line 14 = none →
     unanswered s g line 1 = false → (∀ w ∈ ws, windowDue s w = false) →
     (∀ r ∈ s.records, r.multicast = true → coreOf r.gid = core → r.plane = plane → r.recNo = line % 32 → r.line = line ∧ r.gid ≠ g) →
       (headWants s g line = false → exec .multicastReadRequest s = .next s) ∧
       (headWants s g line = true →
         (mask.getLsbD (core % 16) = false → alone) ∧
         (mask.getLsbD (core % 16) = true → ∀ pre w post, ws = pre ++ w :: post → key w → w.isOpen = true →
           (∀ v ∈ pre ++ post, v ≠ w ∧ (key v → v.isOpen = false)) →
           (w.joined.getLsbD (core % 16) = true → alone) ∧
           (w.joined.getLsbD (core % 16) = false → ∃ t, exec .multicastReadRequest s = .next t ∧ kept t ∧
             (w.joined ||| bit ≠ mask → t.wire = s.wire ∧
               (sliceAt t sl).windows = pre ++ { w with joined := w.joined ||| bit } :: post) ∧
             (w.joined ||| bit = mask → t.wire = s.wire ++ [replies cluster mask true]))) ∧
         (mask.getLsbD (core % 16) = true → mask ≠ bit → (∀ w ∈ ws, ¬ key w) → ws.length < 64 →
           ∃ t, exec .multicastReadRequest s = .next t ∧ kept t ∧ t.wire = s.wire ∧
             (sliceAt t sl).windows = ws ++ [⟨line, cluster, mask, bit, true, s.weave⟩]))) ∧
    (let cluster := s.inp.unit
     let mask := BitVec.ofNat 16 s.inp.key
     ∀ pre w post, ws = pre ++ w :: post → w.line = line → w.cluster = cluster → w.mask = mask → w.isOpen = true →
       (∀ v ∈ pre, ¬ (v.line = line ∧ v.cluster = cluster ∧ v.mask = mask ∧ v.isOpen = true)) →
         (w.joined ≠ mask → s.weave < w.since + 64 → exec .mergeWindowClose s = .next s) ∧
         (w.joined = mask ∨ w.since + 64 ≤ s.weave → Unowned s line → ∃ t, exec .mergeWindowClose s = .next t ∧
           (sliceAt t sl).windows = pre ++ post ++ [{ w with isOpen := false, since := s.weave }] ∧
           t = { s with slices := t.slices, wire := s.wire ++ [replies cluster w.joined true] })) ∧
    (let cluster := s.inp.unit
     ∀ d m bs mc f v rest, FirstMsg s (fun x => ∃ d m b c f v, x = .mcReply d cluster m line b c f v) (.mcReply d cluster m line bs mc f v) rest →
       let mine := fun r : Record =>
         r.multicast && r.line == line && r.gid / 64 == cluster && m.getLsbD (r.gid / 4 % 16) && !r.delivered
       (∀ r ∈ s.records, mine r = true → r.dead = false) →
         exec .multicastReadReply s = .next { s with
           wire := rest
           records := s.records.map fun r => if mine r then { r with got := 3, bytes := bs, delivered := true, failed := f, clock := v } else r })

/-- R362 to R366: a walk for a miss: a leaf on a numeric page (FAI 0) that permits the access fills the cluster's L2 TLB and the core's L1 TLB, some
other entry leaving a full set;
a walk that fails, an address that is not canonical, and a strand without translation fill nothing. -/
def Sys2Proof.Claims.PageWalk : Prop :=
  ∀ (s : State), s.Inv →
    let f := focusOn s s.inp.gid
    let T := f.t
    let va := s.inp.va.toNat
    let acc := if s.inp.f1 then Acc.fetch else if s.inp.f0 then .write else .read
    let walk := walkFrom f va 5 (T.datp.toNat % 2 ^ 44)
    ((isTranslated (xlateNow f) = false ∨ canonical va = false) → Does .pageWalk s f) ∧
    (∀ c, walk = .error c → Does .pageWalk s f) ∧
    (∀ l, walk = .ok l → isTranslated (xlateNow f) = true → canonical va = true → walkWaits f (coreOf s.inp.gid) (xlateNow f) va = false →
      l.pte / 2 ^ 54 % 128 = 0 →
      (permOk (xlateNow f) acc (l.pte % 256) = false → Does .pageWalk s f) ∧
      (permOk (xlateNow f) acc (l.pte % 256) = true → ∃ u, Does .pageWalk s u ∧
        u = { f with tlbs := u.tlbs, free := u.free } ∧
        let e : Bool → Nat → TlbEntry := fun l2 core =>
          ⟨l2, core, T.datp.toNat / 2 ^ 44 % 2 ^ 16, l.global, l.level, va / 2 ^ (12 + 9 * l.level),
            l.pte / 2 ^ 10 % 2 ^ 44, l.pte % 256, 0, none, T.fmtb, false⟩
        e true (clusterOf s.inp.gid) ∈ u.tlbs ∧ e false (coreOf s.inp.gid) ∈ u.tlbs ∧
        ∀ x ∈ u.tlbs, x ∈ s.tlbs ∨ x = e true (clusterOf s.inp.gid) ∨ x = e false (coreOf s.inp.gid)))

namespace Sys2Proof.Claims

/-- A physical map that keeps R361: bases aligned, sizes powers of two in range, within 56 bits, no two ranges overlapping. -/
def MapOk (m : PhysMap) : Prop :=
  (∀ b, m.hbmb = some b → b % 2 ^ 40 = 0) ∧ (∀ b, m.bskb = some b → b % 2 ^ 30 = 0) ∧
    (∀ b, m.hostb = some b → (∃ k, 30 ≤ k ∧ k ≤ 55 ∧ m.hostsz = 2 ^ k) ∧ b % m.hostsz = 0) ∧
    (∀ w ∈ m.wale, (∃ k, 30 ≤ k ∧ k ≤ 56 ∧ w.2.size = 2 ^ k) ∧ w.2.base % w.2.size = 0 ∧ w.2.target < 1024) ∧
    let rs := (m.hbmb.toList.map fun b => (b, 768 * 2 ^ 30)) ++ (m.bskb.toList.map fun b => (b, 2 ^ 30)) ++
      (m.hostb.toList.map fun b => (b, m.hostsz)) ++ m.wale.map fun w => (w.2.base, w.2.size)
    (∀ r ∈ rs, r.1 + r.2 ≤ 2 ^ 56) ∧ rs.Pairwise fun a b => a.1 + a.2 ≤ b.1 ∨ b.1 + b.2 ≤ a.1

/-- The state with a reply to an MCTP requester (R394). -/
def replied (s : State) (r : List Nat) : State := { s with handle := { s.handle with replies := s.handle.replies ++ [r] } }

/-- No task runs on the dies that a test accepts. -/
def Quiet (s : State) (on : Nat → Prop) : Prop := ∀ g, on (dieOf g) → (strandAt s g).task = none

/-- Everything of the package lost but for the Handle's and what the model keeps of its own (R405, R408). -/
def Lost (s t : State) : Prop :=
  t = { State.reset with
    mem := t.mem, errs := t.errs, handle := t.handle, d3hot := t.d3hot
    timePace := s.timePace, free := s.free, agenda := s.agenda } ∧
  (∀ loc, homeByte t loc = if loc < hostLoc then 0 else homeByte s loc) ∧ ∀ l, l ∈ t.errs ↔ l ∈ s.errs ∧ hostLoc ≤ l * 128

end Sys2Proof.Claims

open Sys2Proof Sys2Proof.Machine Sys2Proof.Claims

/-- R191 to R195, R233, R248: a copy that may start starts. A started one fails where its descriptor is one that R192 rejects, and is over past its
last byte. Else, without translation, no other agent wanting its lines, it performs its next piece: every byte that goes to the same destination
line, of its row and the later ones. It is read, a source line at a time where the event says so, and written as one write, or kept while the
engine owns the line. A piece with a byte that cannot be reached up to its last is not written, and the copy fails. At its end the tag's bit is set,
and the fault bit of a failed one. A byte that a scalar store of the strand replaced with no `vm.fence` before the copy may be read as it was. -/
def Sys2Proof.Claims.CopyEvents : Prop :=
  ∀ (s : State) (j : CopyJob), s.Inv →
    let g := s.inp.gid
    let tag := s.inp.unit
    let T := strandAt s g
    copyAt s g tag = some j → (∀ k, ∀ p ∈ (sliceAt s k).ownerQueue, p.2 ≠ g * 64 + tag) →
      let puts := fun (c' : CopyJob) => s.copies.map fun c => if c.gid == g && c.tag == tag then c' else c
      let left := s.copies.filter fun c => !(c.gid == g && c.tag == tag)
      let on := { j with pos := j.pos + pieceLen j j.pos, got := [] }
      let ts := pieceOf j j.pos
      let value := fun t =>
        if j.fill then BitVec.ofNat 8 (j.src.toNat / 256 ^ (t % j.rowlen % 8))
        else ((copyFrom s j t).map (readByte s (dieOf g))).getD 0
      let may := fun (v : Nat → Byte) => ∀ i, v i = value i ∨ j.fill = false ∧ (copyFrom s j i).bind (missedByte s j) = some (v i)
      let ws := fun (v : Nat → Byte) => ts.filterMap fun t => (copyTo s j t).map fun x => (x, v t)
      (j.outcome = none → j.started = false →
        (copyMayStart s j = false → exec .copyStart s = .next s) ∧
        (copyMayStart s j = true → exec .copyStart s = .next { s with copies := puts { j with started := true } })) ∧
      (j.outcome.isSome → exec .copyStart s = .next s) ∧
      (j.outcome = none → j.started = true → j.held = [] →
        (j.bad = true → exec .copyStart s = .next { s with copies := puts { j with got := [], outcome := some false } }) ∧
        (j.bad = false → j.rowlen * j.rows ≤ j.pos → exec .copyStart s = .next { s with copies := puts { j with outcome := some true } }) ∧
        (j.bad = false → j.pos < j.rowlen * j.rows → lineDone j j.pos = true → exec .copyStart s = .next { s with
          copies := puts { j with pos := j.pos + pieceLen j j.pos } })) ∧
      (j.outcome = none → j.started = true → j.held = [] → j.got = [] → j.bad = false → j.pos < j.rowlen * j.rows →
        lineDone j j.pos = false → isTranslated j.xl = false →
        (∀ k, (sliceAt s k).locks = [] ∧ (sliceAt s k).owned = [] ∧ (sliceAt s k).ownerQueue = []) → s.errs = [] →
        let fails := ∃ t, j.pos ≤ t ∧ t ≤ ts.foldl Nat.max j.pos ∧ copyByteFails s j t = true
        let goal := copyTo s j j.pos
        (¬ fails → s.inp.f1 = false → (s.inp.f0 = false ∨ ∃ x, goal = some x ∧ hostLoc ≤ x) → ∃ v t, exec .copyStart s = .next t ∧ may v ∧
          WritesOnly { s with copies := puts on } t ∧ WrittenList s t (ws v)) ∧
        (¬ fails → s.inp.f1 = false → s.inp.f0 = true → ∀ x, goal = some x → x < hostLoc → ∃ v t, exec .copyStart s = .next t ∧ may v ∧
          t.mem = s.mem ∧ t.copies = puts { on with held := [(lineOf x, ws v)] } ∧
          (∀ c, (c, lineOf x) ∈ t.l1 → c / 128 ≠ homeDie (lineOf x)) ∧
          (sliceAt t (homeSlice (lineOf x))).owned = [(lineOf x, g * 64 + tag)]) ∧
        (fails → s.inp.f1 = false → exec .copyStart s = .next { s with copies := puts { j with got := [], outcome := some false } }) ∧
        (s.inp.f1 = true → ∀ l m r, sourceLines s j ts = l :: m :: r → ∃ v t, exec .copyStart s = .next t ∧ may v ∧ t.mem = s.mem ∧
          t.copies = puts { j with
            got := (ts.filter fun t => decide ((copyFrom s j t).map lineOf = some l)).map fun t => (t, v t) })) ∧
      (tag < 64 → j.outcome = some true → ∃ t, exec .copyComplete s = .next t ∧
        t = { s with copies := left, t := t.t, peers := t.peers } ∧ ∀ h, strandAt t h =
          if h = g then { T with ctags := T.ctags ||| BitVec.ofNat 64 (2 ^ tag) } else strandAt s h) ∧
      (tag < 64 → j.outcome = some false → ∃ t, exec .copyFailure s = .next t ∧
        t = { s with copies := left, t := t.t, peers := t.peers } ∧ ∀ h, strandAt t h =
          if h = g then { T with ctags := T.ctags ||| BitVec.ofNat 64 (2 ^ tag), cfault := T.cfault ||| BitVec.ofNat 64 (2 ^ tag) }
          else strandAt s h) ∧
      (j.outcome = none → exec .copyComplete s = .next s ∧ exec .copyFailure s = .next s)

/-- R277, R295: one step of the long product at the head of a strand's queue, without translation, under LAM = 1 and with A in memory: C takes
in the first 32 of the K products, and the product is over where K is 32 or less. -/
def Sys2Proof.Claims.MatrixStep : Prop :=
  ∀ (s : State) (e : QEntry) (r : List QEntry) (d a : Reg) (F : FpFmt) (base : Nat),
    let f := focusOn s s.inp.gid
    let T := f.t
    T.queue = e :: r → e.instr = .vxMgemm d a → Retried f e → e.progress = 0 → Plain f base → fpFmt (cfgFmt e.vcfg) = some F →
    8 ≤ cfgFmt e.vcfg → cfgFmt e.vcfg ≤ 11 → cfgLam e.vcfg = true → 0 < e.vl.toNat → e.vl.toNat ≤ 1024 → d.toNat % cfgG e.vcfg = 0 →
    e.xa.toNat % 64 = 0 → InHbm base e.xa.toNat 64 →
      let D := fun off k => numAt (readByte s (dieOf s.inp.gid)) base (e.xa.toNat + off) k
      let K := D 24 4
      let w := cfgW e.vcfg / 8
      let ava := fun q k => wrap ((D 0 8 : Int) + (q : Int) * sgn 32 (D 16 4) + ((k * w : Nat) : Int))
      let bva := fun k n => wrap ((D 8 8 : Int) + (k : Int) * sgn 32 (D 20 4) + ((n * w : Nat) : Int))
      1 ≤ K → K ≤ 32768 → D 32 4 = 0 → D 36 28 = 0 →
      (∀ q k, q < cfgG e.vcfg → k < min K 32 → Mapped f (ava q k) w) → (∀ k n, k < min K 32 → n < e.vl.toNat → Mapped f (bva k n) w) →
        ∃ u, Does .mgemmStep s u ∧
          (u.t.queue.map fun q => (q.instr, q.done)) = (e.instr, decide (K ≤ 32)) :: r.map (fun q => (q.instr, q.done)) ∧
          u.mem = s.mem ∧ ∀ q n, q < cfgG e.vcfg → n < e.vl.toNat →
            elem 32 (getV u (d.toNat + q)).bits n =
              (products F (min K 32) (fun k => valAt f (ava q k) w) (fun k => valAt f (bva k n) w) (elem 32 (getV f (d.toNat + q)).bits n)).1

/-- R268, R269, R285, R298: a block reads the next request's descriptor and counts, or inserts the next node, of up to 8 rows, while the pool has
room; a node that no other comes before is placed on a free strand of its die, and computes its rows of C from +0, at the end; DONE is written 1 or 2 once
every node has ended. -/
def Sys2Proof.Claims.BlockEvents : Prop :=
  ∀ (s : State), s.Inv →
    let b := s.inp.unit
    let k := blockAt s b
    let sets := fun (t : State) (v : GBlock) => ∀ x, blockAt t x = if x = b then v else blockAt s x
    let only := fun (t : State) (v : GBlock) => t = { s with blocks := t.blocks } ∧ sets t v
    (∀ q r, (∀ l, (sliceAt s l).locks = []) → (∀ v ∈ k.served, v.serving = false) → k.queue = q :: r → ∃ t v, exec .glaunchBlockServe s = .next t ∧
      v.serial = k.serial ∧ v.req = q ∧ v.num = 0 ∧ v.row = 0 ∧ v.group = 0 ∧ v.serving = !v.failed ∧
      only t { k with serial := k.serial + 1, queue := if v.failed then r else q :: r, served := k.served ++ [v] } ∧
      (blockRead s q q.desc.toNat 64 = none → v.failed = true) ∧
      ∀ bs, blockRead s q q.desc.toNat 64 = some bs →
        let F := fun off n => ofBytes ((bs.drop off).take n)
        let legal := F 52 2 ≠ 0 ∧ 1 ≤ F 54 2 ∧ F 54 2 ≤ 32768 ∧ F 56 2 ≠ 0 ∧ 8 ≤ F 58 1 ∧ F 58 1 ≤ 11 ∧
          F 54 2 * fmtWidth (F 58 1) / 8 ≤ F 40 4 ∧ 4 * F 56 2 ≤ F 44 4 ∧ F 59 5 = 0 ∧ F 32 8 % 4 = 0
        v.doneVa.toNat = F 32 8 ∧ v.abase.toNat = F 8 8 ∧ v.bbase.toNat = F 16 8 ∧ v.cbase.toNat = F 24 8 ∧ v.apitch = F 40 4 ∧
          v.cpitch = F 44 4 ∧ v.bstride = F 48 4 ∧ v.k = F 54 2 ∧ v.n = F 56 2 ∧ v.fmt = F 58 1 ∧
          (¬ legal → v.failed = true) ∧
          (legal → blockRead s q (F 0 8) (4 * F 52 2) = none → v.failed = true) ∧
          ∀ cs, legal → blockRead s q (F 0 8) (4 * F 52 2) = some cs →
            let counts := (List.range (F 52 2)).map fun i => ofBytes ((cs.drop (4 * i)).take 4)
            (2 ^ 32 ≤ counts.sum → v.failed = true) ∧ (counts.sum < 2 ^ 32 → v.failed = false ∧ v.counts = counts)) ∧
    (∀ pre v post z, k.served = pre ++ v :: post → (∀ u ∈ pre, u.serving = false) → v.serving = true →
      (∀ u ∈ pre ++ post, u.serial ≠ v.serial) → v.counts = List.replicate z 0 → ∃ t, exec .glaunchBlockServe s = .next t ∧
        only t { k with queue := k.queue.tail, served := pre ++ { v with serving := false } :: post }) ∧
    (∀ pre v post z c rest, k.served = pre ++ v :: post → (∀ u ∈ pre, u.serving = false) → v.serving = true →
      (∀ u ∈ pre ++ post, u.serial ≠ v.serial) → v.counts = List.replicate z 0 ++ c :: rest → c ≠ 0 →
        (4096 ≤ poolCount s (b / 4) → exec .glaunchBlockServe s = .next s) ∧
        (poolCount s (b / 4) < 4096 → ∃ t, exec .glaunchBlockServe s = .next t ∧
          t = { s with blocks := t.blocks, nextOrder := s.nextOrder + 1 } ∧ sets t { k with
          nodes := k.nodes ++ [⟨v.serial, v.num, v.group + z, v.row, min 8 c, 0, 0, s.nextOrder, s.clock⟩]
          served := pre ++ { v with counts := (c - min 8 c) :: rest, group := v.group + z, row := v.row + min 8 c, num := v.num + 1 } :: post })) ∧
    (let g := s.inp.gid
     let marked := fun (n : GNode) (st : Nat) =>
       { k with nodes := k.nodes.map fun m => if m.serial = n.serial ∧ m.num = n.num then { m with status := st, on := g } else m }
     (∀ n v, (∀ m ∈ k.nodes, ¬ (m.status = 1 ∧ m.on = g)) → waitingNode k = some (n, v) →
      ((dieOf g ≠ b / 4 ∨ strandFree s g = false ∨ outranked s (b / 4) (v.req.prio, n.order) = true) → exec .glaunchNode s = .next s) ∧
      (dieOf g = b / 4 → strandFree s g = true → outranked s (b / 4) (v.req.prio, n.order) = false → ∃ t, exec .glaunchNode s = .next t ∧
        t = { s with t := t.t, peers := t.peers, blocks := t.blocks, gated := t.gated } ∧ sets t (marked n 1) ∧ coreOf g ∉ t.gated ∧
        ∀ h, strandAt t h = { strandAt s h with share := (strandAt t h).share, nextShare := (strandAt t h).nextShare })) ∧
     ∀ n v, runningNode k g = some (n, v) →
      (nodeWaits s g (n, v) = true → exec .glaunchNode s = .next s) ∧
      (nodeWaits s g (n, v) = false → ∃ t st, exec .glaunchNode s = .next t ∧ (st = 2 ∨ st = 3) ∧ blockAt t b = marked n st ∧
        (∀ F base, fpFmt v.fmt = some F → 8 ≤ v.fmt → v.fmt ≤ 11 → isTranslated v.req.xl = false → s.map.hbmb = some base → s.errs = [] →
          (∀ k, (sliceAt s k).owned = []) → v.n ≤ 1024 → 0 < v.n → v.k ≤ 32768 → 4 * v.n ≤ v.cpitch →
          let w := fmtWidth v.fmt / 8
          let f := focusOn s g
          let ava := fun q i => (v.abase.toNat + (n.row + q) * v.apitch + i * w) % 2 ^ 64
          let bva := fun i c => (v.bbase.toNat + n.group * v.bstride + i * (v.n * w) + c * w) % 2 ^ 64
          let cva := v.cbase.toNat + n.row * v.cpitch
          (∀ q i, q < n.m → i < v.k → Mapped f (ava q i) w) → (∀ i c, i < v.k → c < v.n → Mapped f (bva i c) w) →
          InHbm base cva (n.m * v.cpitch) →
            st = 2 ∧
            (∀ q c, q < n.m → c < v.n → numAt (homeByte t) base (cva + q * v.cpitch + 4 * c) 4 =
              (products F v.k (fun i => valAt f (ava q i) w) (fun i => valAt f (bva i c) w) 0).1) ∧
            ∀ loc, (∀ q, q < n.m → ¬ (cva + q * v.cpitch ≤ base + loc ∧ base + loc < cva + q * v.cpitch + 4 * v.n)) →
              homeByte t loc = homeByte s loc))) ∧
    (∀ v, (∀ l, (sliceAt s l).locks = [] ∧ (sliceAt s l).owned = []) → doneRequest k = some v → ∃ t, exec .glaunchDone s = .next t ∧
      (∀ u ∈ (blockAt t b).served, u.serial ≠ v.serial) ∧ (∀ n ∈ (blockAt t b).nodes, n.serial ≠ v.serial) ∧
      (v.doneVa.toNat % 4 ≠ 0 → t.mem = s.mem ∧ t.handle = (logEvent s 3 (strandUnit v.req.gid) 0 [v.serial]).handle) ∧
      ∀ base, isTranslated v.req.xl = false → s.map.hbmb = some base → s.errs = [] → v.doneVa.toNat % 4 = 0 →
        InHbm base v.doneVa.toNat 4 → Stored s t base v.doneVa.toNat 4 (if v.failed then 2 else 1))

/-- R327 to R333, R390, R391, R392: the doorbell, the start and the stop of a launch queue, with INTE, by the function that owns it; a packet is taken, refused with ERR 160, waits for a pool, or overruns
the queue; an ABORT fails the task it names. -/
def Obligations.QueueEvents : Prop :=
  ∀ (s : State), s.Inv →
    let q := s.inp.idx % 64
    let k := queueAt s q
    let own := s.bonded = true ∨ s.inp.unit = q / 32
    let only := fun (t : State) (v : HostQueue) => ∀ x, queueAt t x = if x = q then v else queueAt s x
    let spills := fun (t : State) (v : HostQueue) => only t { v with state := .overrun, cause := 49 } ∧ t.mem = s.mem ∧
      t.launches = s.launches ∧ t.msix = (if v.inte then q :: s.msix else s.msix)
    let far := fun (v : HostQueue) => 2 ^ v.rsize.toNat < (v.tail - v.head).toNat
    (¬ own → ∀ i ∈ [Instr.queueDoorbell, .queueStart, .queueStop], exec i s = .next s) ∧
    (let v := { k with tail := s.inp.lo.setWidth 32 }
     own → ∃ t, exec .queueDoorbell s = .next t ∧ (∀ x ∈ t.updates, 4 ≤ x.die) ∧
      (v.state = .run → far v → spills t v) ∧ (v.state ≠ .run ∨ ¬ far v → only t v ∧ t.mem = s.mem ∧ t.msix = s.msix)) ∧
    (k.state = .overrun → exec .queueStart s = .next s) ∧
    (let m := { k with inte := s.inp.lo.getLsbD 8 }
     let sets := fun (i : Instr) (v : HostQueue) => ∃ Q, exec i s = .next { s with queues := Q } ∧
       ∀ x, sget HostQueue.reset Q x = if x = q then v else queueAt s x
     (own → k.state = .stopped → sets .queueStart { m with head := 0, tail := 0, expseq := k.seq0, state := .run, ids := [] }) ∧
     (own → k.state = .run → sets .queueStart m) ∧ (own → sets .queueStop { m with state := .stopped })) ∧
    (k.stuck = none →
      let r := homeBytes s (hostLoc + k.rbase + 256 * (k.head.toNat % 2 ^ k.rsize.toNat)) 256
      let next := { k with head := k.head + 1, expseq := k.expseq + 1, ids := (recId r, s.nextKey) :: k.ids }
      let after := fun e => ∃ i p, i < 4 ∧ recDep r i ≠ 0xFFFFFFFF ∧ k.ids.find? (fun p => p.1 == recDep r i) = some p ∧ p.2 = e
      (k.state ≠ .run ∨ k.head = k.tail → exec .packetTake s = .next s) ∧
      (k.state = .run → k.head ≠ k.tail → (far k ∨ recSeq r ≠ k.expseq.toNat) → ∃ t, exec .packetTake s = .next t ∧ spills t k) ∧
      (k.state = .run → k.head ≠ k.tail → ¬ far k → recSeq r = k.expseq.toNat →
        (recValid r = false → ∃ t, exec .packetTake s = .next t ∧ t.launches = s.launches ∧
          only t next ∧
          (recCompl r = 0 → t.mem = s.mem) ∧
          (recCompl r ≠ 0 → ∀ x, homeByte t x =
            let at' := hostLoc + k.cbase + 128 * recCompl r
            if at' ≤ x ∧ x < at' + 8 then BitVec.ofNat 8 ((1 + 160 * 2 ^ 8 + recTaskId r * 2 ^ 32) / 256 ^ (x - at')) else homeByte s x)) ∧
        (recValid r = true → (∀ d, d < 4 → 4096 ≤ poolCount s d) → ∃ t E, exec .packetTake s = .next t ∧
          only t { next with stuck := some (r, (E, s.nextKey)) } ∧ t.launches = s.launches ∧ ∀ e, e ∈ E ↔ after e) ∧
        (recValid r = true → (∀ d, d < 4 → poolCount s d < 4096 ∧ ∃ n, n < 4096 ∧ nodeTaken s d n = false) →
          ∃ t l, exec .packetTake s = .next t ∧ t.launches = s.launches ++ [l] ∧ l.image = r ∧ l.queue = some (q, k.cbase) ∧
            l.key = s.nextKey ∧ l.hold = false ∧ l.ready = [] ∧ l.started = [] ∧ only t next ∧
            (topScope (levelsOf r) = 4 → l.nodes.map Prod.fst = [0, 1, 2, 3]) ∧
            (topScope (levelsOf r) ≠ 4 → ∃ d i, d < 4 ∧ l.nodes = [(d, i)]) ∧
            (∀ p ∈ l.nodes, nodeTaken s p.1 p.2 = false) ∧
            ∀ e, e ∈ l.edges ↔ after e))) ∧
    (liveTask s (s.inp.lo.setWidth 32) = none → exec .taskAbort s = .next s) ∧
    (∀ l i g t, liveTask s (s.inp.lo.setWidth 32) = some (l, i) → (strandAt s g).task = some t → t.launch = l.key → t.index = i →
      (∀ h u, h ≠ g → (strandAt s h).task = some u → ¬ (u.launch = l.key ∧ u.index = i)) →
        (copiesOpen s g = false → closeLocked s g = false → ∃ u, exec .taskAbort s = .next u ∧ Idle (strandAt u g) .ended ∧ t.ctx ∉ u.ctxUsed) ∧
        (copiesOpen s g = true ∨ closeLocked (dropLocks s g) g = true → ∃ u, exec .taskAbort s = .next u ∧
          (strandAt u g).failing = some (false, 161) ∧ (strandAt u g).queue = []))

/-- R361, R388, R389, R390, R393, R402: TLBCTL, ignored while GO reads 1; the registers of BAR0 that a host writes, those of its own function's queue while it is
STOPPED and an arena's while no task runs on its die; the reads of BAR0; reads and
posted writes of BAR2, which over bonded links are performed in the order in which the host issued them. -/
def Obligations.HostAccesses : Prop :=
  ∀ (s : State), s.Inv →
    let v := s.inp.lo
    let o := s.inp.addr
    let free := ∀ k, (sliceAt s k).locks = [] ∧ (sliceAt s k).owned = []
    let hit := fun e : TlbEntry =>
      (v.getLsbD 16 = true ∨ e.vpage = s.tlbva.toNat / 2 ^ (12 + 9 * e.level)) ∧
        (v.getLsbD 17 = true ∨ (e.global = false ∧ e.asid = v.toNat % 2 ^ 16))
    (goReads s = true → exec .tlbctlGo s = .next s) ∧
    (goReads s = false → v.getLsbD 31 = false → exec .tlbctlGo s = .next { s with tlbctl := v.setWidth 18 }) ∧
    (goReads s = false → v.getLsbD 31 = true → ∃ t, exec .tlbctlGo s = .next t ∧ t.tlbctl = v.setWidth 18 ∧ t.mem = s.mem ∧
      (∀ e, e ∈ t.tlbs ↔ e ∈ s.tlbs ∧ ¬ hit e) ∧ ∀ x ∈ t.updates, 4 ≤ x.die) ∧
    (let writes := fun (t : State) => exec .bar0RegisterWrite s = .next t
     (s.inp.reg = .tlbVa → writes { s with tlbva := v }) ∧ (s.inp.reg = .devId ∨ (∃ n, s.inp.reg = .other n) → writes s) ∧
     (∀ d, s.inp.reg = .arenaBase d ∨ s.inp.reg = .arenaSize d → ¬ (Quiet s (fun x => x = d) ∧ d < 4) → writes s) ∧
     (∀ d, s.inp.reg = .arenaSize d → Quiet s (fun x => x = d) → d < 4 → ∃ A, writes { s with arena := A } ∧ ∀ x,
       sget (0, 0) A x = if x = d then ((sget (0, 0) s.arena d).1, (v &&& 0xFFFFFFFFF000).toNat) else sget (0, 0) s.arena x) ∧
     (∀ d, s.inp.reg = .arenaBase d → Quiet s (fun x => x = d) → d < 4 →
       let b := (v &&& 0xFFFFFFFFFFF000).toNat
       (inHbm s b 1 = false → writes s) ∧
       (inHbm s b 1 = true → ∃ A, writes { s with arena := A } ∧ ∀ x,
         sget (0, 0) A x = if x = d then (b, (sget (0, 0) s.arena d).2) else sget (0, 0) s.arena x)) ∧
     ∀ q f, (s.inp.reg = .queueBase q ∧ f = (fun k : HostQueue => { k with rbase := (v &&& 0xFFFFFFFFFFFFF000).toNat })) ∨
         (s.inp.reg = .queueCbase q ∧ f = (fun k => { k with cbase := (v &&& 0xFFFFFFFFFFFFFF80).toNat })) ∨
         (s.inp.reg = .queueSize q ∧ 4 ≤ v.toNat % 16 ∧ v.toNat % 16 ≤ 12 ∧
           f = (fun k => { k with rsize := v.setWidth 4, seq0 := (v >>> 32).setWidth 32 })) ∨
         (s.inp.reg = .queueInte q ∧ f = (fun k => { k with inte := v.getLsbD 8 })) →
       let own := s.bonded = true ∨ s.inp.unit = q / 32
       (64 ≤ q ∨ ¬ own ∨ ((queueAt s q).state ≠ .stopped ∧ s.inp.reg ≠ .queueInte q) → writes s) ∧
       (q < 64 → own → (queueAt s q).state = .stopped ∨ s.inp.reg = .queueInte q → ∃ Q, writes { s with queues := Q } ∧
         ∀ x, sget HostQueue.reset Q x = if x = q then f (queueAt s q) else queueAt s x)) ∧
    (let n := s.inp.idx
     s.inp.f1 = false →
     (2 ^ 40 + 2 ^ 30 ≤ o → 0 < n → exec .bar2Read s = .next { logEvent s 4 (unitOn .link 0 0) o [] with
       hostReplies := (List.replicate n 0xFF, false) :: s.hostReplies }) ∧
     (o + n ≤ 768 * 2 ^ 30 → free → (∀ k, k < n → lineOf (o + k) ∉ s.errs) → exec .bar2Read s = .next { s with
       hostReplies := (homeBytes s o n, false) :: s.hostReplies }) ∧
     (o + n ≤ 768 * 2 ^ 30 → free → (∃ k, k < n ∧ lineOf (o + k) ∈ s.errs) → ∃ t, exec .bar2Read s = .next t ∧
       t = { s with hostReplies := (List.replicate n 0xFF, true) :: s.hostReplies, aer := o :: s.aer, handle := t.handle } ∧
         ∃ e, t.handle.log.getLast? = some e ∧ e.cls = 2 ∧ e.unit = unitOn .link 0 0)) ∧
    (let reads := fun (v : Nat) => exec .bar2Read s = .next { s with hostReplies := (bytesOf 8 v, false) :: s.hostReplies }
     s.inp.f1 = true →
     (o = 0 → reads 0x4C590768) ∧
     (∀ d, d < 4 → (o = 0x100 + 16 * d → (sget (0, 0) s.arena d).1 < 2 ^ 64 → reads (sget (0, 0) s.arena d).1) ∧
       (o = 0x108 + 16 * d → (sget (0, 0) s.arena d).2 < 2 ^ 64 → reads (sget (0, 0) s.arena d).2)) ∧
     (o = 0x200 → reads s.tlbva.toNat) ∧ (o = 0x208 → reads (s.tlbctl.toNat + if goReads s then 2 ^ 31 else 0)) ∧
     ∀ q, q < 64 →
       let k := queueAt s q
       let b := 0x10000 + 0x40 * q
       (o = b → k.rbase < 2 ^ 64 → reads k.rbase) ∧ (o = b + 0x08 → reads (k.rsize.toNat + k.seq0.toNat * 2 ^ 32)) ∧
       (o = b + 0x10 → k.cbase < 2 ^ 64 → reads k.cbase) ∧ (o = b + 0x20 → reads (k.head.toNat + k.expseq.toNat * 2 ^ 32)) ∧
       (o = b + 0x28 → reads ((match k.state with | .stopped => 0 | .run => 1 | .overrun => 2) + if k.inte then 256 else 0))) ∧
    (let n := s.inp.data.length
     let outside := 2 ^ 40 + 2 ^ 30 ≤ o ∧ 0 < n
     let inside := o + n ≤ 768 * 2 ^ 30 ∧ free ∧ s.errs = []
     (s.bonded = false →
       (outside → exec .bar2Write s = .next (logEvent s 4 (unitOn .link 0 0) o [])) ∧
       (inside → ∃ t, exec .bar2Write s = .next t ∧ WritesOnly s t ∧ Written s t o s.inp.data)) ∧
     (s.bonded = true →
       (s.inp.unit ≠ o / 4096 % 2 → exec .bar2Write s = .next s) ∧
       (s.inp.unit = o / 4096 % 2 → (∀ p ∈ s.posted, p.1 ≠ s.inp.key ∧ p.1 ≠ s.postNext) →
         (s.postNext < s.inp.key → exec .bar2Write s = .next { s with posted := s.posted ++ [(s.inp.key, (o, s.inp.data))] }) ∧
         (s.inp.key = s.postNext → s.posted = [] → inside → ∃ t, exec .bar2Write s = .next t ∧
           WritesOnly { s with postNext := s.postNext + 1 } t ∧ Written s t o s.inp.data))))

/-- R186, R361, R394: a configuration request of the Handle's that meets its condition is done and answered with success; any other is refused with an
error status, and nothing else changes. -/
def Sys2Proof.Claims.Configuring : Prop :=
  ∀ (s : State), s.Inv →
    let a := fun i => s.inp.nums.getD i 0
    let sets := fun (i : Instr) (ok : Prop) (P : State → Prop) =>
      (ok → ∃ t, exec i s = .next (replied t [0]) ∧ P t) ∧ (¬ ok → exec i s = .next (replied s [1]))
    let on := fun n b => if a 0 / 2 ^ n % 2 = 1 then some (a b) else none
    let map := { s.map with hbmb := on 0 1, bskb := on 1 2, hostb := on 2 3, hostsz := a 4, bars := barRanges (s.inp.nums.drop 5) }
    let rest := s.map.wale.filter fun w => w.1 != a 0
    let windows := { s.map with wale := if a 1 = 0 then rest else (a 0, ⟨a 2, a 3, a 4, a 5⟩) :: rest }
    let die := s.inp.die
    sets .setPhysicalMap (Quiet s (fun _ => True) ∧ MapOk map) (fun t => t = { s with map := map }) ∧
    sets .setWaleWindow (Quiet s (fun _ => True) ∧ a 0 < 64 ∧ MapOk windows) (fun t => t = { s with map := windows }) ∧
    sets .setBasketPartition (Quiet s (fun d => d = die) ∧ die < 4 ∧ (a 0 = 0 ∨ a 0 = 128 ∨ a 0 = 256 ∨ a 0 = 384)) (fun t =>
      t = { s with
        mem := t.mem, errs := t.errs, l1 := t.l1, basket := t.basket, slices := t.slices, replicas := t.replicas, updates := t.updates
        lines := t.lines } ∧
      (∀ k, sliceAt t k = { sliceAt s k with cache := (sliceAt t k).cache } ∧
        (k / 512 = die → ∀ x, ((sliceAt t k).cache.filter fun l => Machine.setOf l == x).length ≤ 16 - a 0 / 32)) ∧
      (∀ loc, homeByte t loc = if bskLoc ≤ loc ∧ loc < hostLoc ∧ (loc - bskLoc) / 2 ^ 28 = die then 0 else homeByte s loc) ∧
      (∀ d, sget 0 t.basket d = if d = die then a 0 else sget 0 s.basket d)) ∧
    sets .setContextTable (Quiet s (fun d => d = die) ∧ die < 4) (fun t => t = { s with ctxTable := t.ctxTable } ∧
      (∀ d, sget 0 t.ctxTable d = if d = die then s.inp.addr else sget 0 s.ctxTable d)) ∧
    sets .setLinkBonding ((∀ p ∈ s.queues, p.2.state = .stopped) ∧ s.posted = [] ∧
        ∀ r ∈ s.records, hostLoc ≤ r.line * 128 → r.line * 128 < 2 ^ 64 → r.delivered = true)
      (fun t => t = { s with bonded := s.inp.f0, posted := [], postNext := 0 }) ∧
    sets .setPowerLimit (1000 ≤ a 0 ∧ a 0 ≤ 3600) (fun t => t = { s with handle := { s.handle with powerLimit := a 0 } })

/-- R7, R360, R398 to R402, R404, R408: the Handle's readings, log, firmware slots and attestation; its sampling, which above 110 °C resets the package and above 95 °C or the power limit
slows the clock (the units of power are the model's choice: log entry 109); the scrubber; errors in the structures. -/
def Sys2Proof.Claims.HandleEvents : Prop :=
  ∀ (s : State), s.Inv →
    let h := s.handle
    let hot := fun n => ∃ i, i < 64 ∧ n ≤ s.inp.nums.getD i 0
    let tooMuch := h.powerLimit < railPower (s.inp.nums.drop 64)
    let temps := (List.range 64).map fun i => s.inp.nums.getD i 0
    let sampled := { s with
      msix := if s.inp.f1 then 64 :: s.msix else s.msix
      handle := { h with temps := temps, rails := s.inp.nums.drop 64 } }
    let port := portAt s s.inp.idx
    (s.inp.key ≠ 1 → s.inp.key ≠ 2 → exec .sensorRead s = .next (replied s (h.temps ++ h.rails))) ∧
    (s.inp.key = 1 → exec .sensorRead s = .next (replied s [(sliceAt s s.inp.idx).nacks])) ∧
    (s.inp.key = 2 → exec .sensorRead s = .next (replied s [if port.up then 1 else 0, port.replays])) ∧
    (∀ e, h.log[s.inp.idx]? = some e → exec .logRead s = .next (replied s
      ([e.time.toNat, e.cls.toNat, e.unit.toNat, e.addr] ++ e.data.map BitVec.toNat))) ∧
    (h.log.length ≤ s.inp.idx → exec .logRead s = .next (replied s [])) ∧
    (let slot : FwSlot := ⟨s.inp.idx, s.inp.f0⟩
     let l := logEvent s 6 (unitOn .handle 0 0) 0 [s.inp.idx]
     exec .firmwareUpdate s = .next { l with handle := { l.handle with
       slotA := if h.bootedA then h.slotA else slot, slotB := if h.bootedA then slot else h.slotB } }) ∧
    (let body := Config.measurement (if h.bootedA then h.slotA else h.slotB).version ++ Config.controlMeasurement ++ bytesOf 4 h.fuse ++
       s.inp.data.take 32 ++ Config.certificate
     exec .attestation s = .next (replied s ((body ++ Config.signature body).map BitVec.toNat))) ∧
    (¬ hot 95 → ¬ tooMuch → exec .sensorSample s = .next sampled) ∧
    (¬ hot 110 → (hot 95 ∨ tooMuch) → exec .sensorSample s = .next { sampled with handle := { sampled.handle with
      clockMhz := if 100 < h.clockMhz then h.clockMhz - 100 else h.clockMhz } }) ∧
    (hot 110 → ∃ t, exec .sensorSample s = .next t ∧ Lost s t ∧ t.handle.temps = temps ∧
      ∃ e, t.handle.log.getLast? = some e ∧ e.cls = 5) ∧
    (let log := fun (t : State) (cls : Nat) => ∃ e, t.handle.log.getLast? = some e ∧ e.cls = cls
     let line := s.inp.line
     (s.inp.scrub = .clean → exec .scrub s = .next s) ∧
     (s.inp.scrub = .corrected → ∃ t, exec .scrub s = .next t ∧ t = { s with handle := t.handle } ∧ log t 1) ∧
     (∀ l, s.inp.bad = .soft l → ∃ t, exec .structureError s = .next t ∧ t = { s with handle := t.handle } ∧ log t 1) ∧
     (s.inp.scrub = .uncorrectable → ∃ t, exec .scrub s = .next t ∧ t = { s with handle := t.handle, errs := t.errs } ∧ log t 2 ∧
       ∀ l, l ∈ t.errs ↔ l = line ∨ l ∈ s.errs) ∧
     (∀ k n, s.inp.bad = .slath k n → ∃ t, exec .structureError s = .next t ∧ log t 2 ∧ slathAt t k n = Freed (slathAt s k n) ∧
       heldFlds t k n = [] ∧ t.mem = s.mem ∧ ((slathAt s k n).state ≠ .free → (n, (slathAt s k n).gen) ∈ (sliceAt t k).lost) ∧ 
       ∀ p ∈ heldFlds s k n, .slath p.1 (handleBase p.2) 0 Clock4.zero true ∈ t.wire) ∧
     (∀ k l g, s.inp.bad = .link k l g → ∃ t, exec .structureError s = .next t ∧ log t 2 ∧
       t = { s with slices := t.slices, handle := t.handle } ∧
       sliceAt t k = { sliceAt s k with links := (sliceAt s k).links.filter fun x => !(x.line == l && x.gid == g) }) ∧
     (∀ k i d, s.inp.bad = .deferral k i → (sliceAt s k).deferred[i]? = some d → ∃ t, exec .structureError s = .next t ∧ log t 2 ∧
       sliceAt t k = { sliceAt s k with deferred := (sliceAt s k).deferred.erase d, nacks := (sliceAt s k).nacks + 1 } ∧
       t.wire = s.wire ++ [match d with
         | .bwait g loc ph => .nackBwait g loc ph 64
         | .fld g _ x => .nackFld g (handleBase x) 64]) ∧
     (∀ g n, s.inp.bad = .xReg g n → g < 2048 → n % 32 ≠ 0 → ∃ t, exec .structureError s = .next t ∧
       t = { s with t := t.t, peers := t.peers } ∧ ∀ h, strandAt t h =
       if h = g then { strandAt s g with xbad := if n % 32 ∈ (strandAt s g).xbad then (strandAt s g).xbad else (n % 32) :: (strandAt s g).xbad }
       else strandAt s h) ∧
     (∀ g n i, s.inp.bad = .vReg g n i → g < 2048 → ∃ t, exec .structureError s = .next t ∧
       t = { s with t := t.t, peers := t.peers } ∧ ∀ h, strandAt t h =
       if h = g then { strandAt s g with
         vbad := (n % 32, i % 1024) :: (strandAt s g).vbad.filter fun p => p != (n % 32, i % 1024) } else strandAt s h) ∧
     (∀ g n i, s.inp.bad = .kReg g n i → g < 2048 → n % 8 ≠ 0 → ∃ t, exec .structureError s = .next t ∧
       t = { s with t := t.t, peers := t.peers } ∧ ∀ h, strandAt t h =
       if h = g then { strandAt s g with
         kbad := (n % 8, i % 4096) :: (strandAt s g).kbad.filter fun p => p != (n % 8, i % 4096) } else strandAt s h) ∧
     (∀ d n l, s.inp.bad = .poolNode d n → s.launches.find? (fun l => l.nodes.contains (d, n)) = some l → launchOf s l.key = some l →
       taskTotal l.image = 1 → l.ended = [] → l.started = [] →
       (∀ g k, (strandAt s g).task = some k → k.launch ≠ l.key) → (∀ c ∈ s.suspended, ∀ k, c.saved.task = some k → k.launch ≠ l.key) →
         ∃ t, exec .structureError s = .next t ∧ log t 2 ∧ launchOf t l.key = none) ∧
     ∀ b r n, s.inp.bad = .groupNode b r n → (∃ m ∈ (blockAt s b).nodes, m.serial = r ∧ m.num = n ∧ m.status = 0) →
       ∃ t, exec .structureError s = .next t ∧ log t 2 ∧ t = { s with blocks := t.blocks, handle := t.handle } ∧
         blockAt t b = { blockAt s b with
           served := (blockAt s b).served.map fun v => if v.serial = r then { v with serving := false, failed := true, counts := [] } else v
           nodes := (blockAt s b).nodes.map fun m => if m.serial = r ∧ m.status = 0 then { m with status := 3 } else m })

/-- R186, R400, R405, R406, R408: what each reset leaves, D3hot, and the clock gate of a core no strand of which holds a task or runs a
node. The Handle boots the highest version that it accepts, or the other slot where that one does not report itself good; where it accepts none,
nothing runs. What does not boot at first is logged. -/
def Obligations.Resets : Prop :=
  ∀ (s : State), s.Inv →
    let h := s.handle
    let ok := fun f : FwSlot => f.valid = true ∧ h.fuse ≤ f.version
    (∃ t, exec .packageReset s = .next t ∧ Lost s t ∧ t.handle = h ∧ t.d3hot = false) ∧
    (∃ t, exec .pcieD3hot s = .next t ∧ Lost s t ∧ t.handle = h ∧ t.d3hot = true) ∧
    (s.d3hot = false → exec .d3hotRestart s = .next s) ∧
    (s.d3hot = true → ∃ t, exec .d3hotRestart s = .next t ∧ Lost s t ∧ t.handle = h ∧ t.d3hot = false) ∧
    (∃ t, exec .coldReset s = .next t ∧ Lost s t ∧ t.handle.replies = [] ∧ t.handle.slotA = h.slotA ∧ t.handle.slotB = h.slotB ∧
      (ok h.slotA → ¬ ok h.slotB → t.handle.bootedA = true) ∧ (¬ ok h.slotA → ok h.slotB → t.handle.bootedA = false) ∧
      (s.inp.f0 = false → t.handle.fuse = h.fuse ∧ (t.handle.running = true ↔ ok h.slotA ∧ ok h.slotB) ∧
        (ok h.slotA → ok h.slotB → (t.handle.bootedA = true ↔ h.slotA.version < h.slotB.version))) ∧
      (s.inp.f0 = true → (t.handle.running = true ↔ ok h.slotA ∨ ok h.slotB) ∧
        t.handle.fuse = (if t.handle.running then max h.fuse (if t.handle.bootedA then h.slotA else h.slotB).version else h.fuse) ∧
        (ok h.slotA → ok h.slotB → (t.handle.bootedA = true ↔ h.slotB.version ≤ h.slotA.version))) ∧
      (s.inp.f0 = true → t.handle.running = true → t.handle.log = []) ∧
      (s.inp.f0 = false ∨ t.handle.running = false → ∃ e, t.handle.log = [e] ∧ e.cls = 6)) ∧
    (let core := s.inp.unit
     ((∃ j, j < 4 ∧ strandFree s (core * 4 + j) = false) → exec .coreClockGate s = .next s) ∧
     ((∀ j, j < 4 → strandFree s (core * 4 + j) = true) → ∃ G, exec .coreClockGate s = .next { s with gated := G } ∧
       ∀ c, c ∈ G ↔ c = core ∨ c ∈ s.gated)) ∧
    (let die := s.inp.die % 4
     (∀ k, (sliceAt s k).locks = []) → ∃ t, exec .dieReset s = .next t ∧ (∀ g, dieOf g = die → (strandAt t g).task = none) ∧
       (∀ loc, bskLoc ≤ loc → loc < hostLoc → (loc - bskLoc) / 2 ^ 28 = die → homeByte t loc = 0) ∧
       (∀ k, k / 512 = die → (sliceAt t k).links = [] ∧ (sliceAt t k).windows = [] ∧ (sliceAt t k).locks = [] ∧ (sliceAt t k).owned = [] ∧
         (sliceAt t k).cache = [] ∧ (sliceAt t k).requests = []) ∧
       (∀ r ∈ t.replicas, r.die ≠ die ∧ homeDie r.line ≠ die) ∧ (∀ p ∈ t.l1, p.1 / 128 ≠ die) ∧ (∀ p ∈ t.icache, p.1 / 128 ≠ die) ∧
       (∀ r ∈ t.records, dieOf r.gid ≠ die) ∧ (∀ c ∈ t.copies, dieOf c.gid ≠ die) ∧
       ∃ e, t.handle.log.getLast? = some e ∧ e.cls = 2)

/-- R395, R396: a flit received at a Wale port: while the port is down it is lost; a bad or untimely one is dropped and a replay request sent; a good one
frees what it acknowledges and delivers its transaction, or, a replay request, has the flits after it resent. A replay resends from the sequence asked
for, and the 16th in a row takes the port down; a retraining brings it up. A remote access that times out fails as its kind says: a scalar store
traps with cause 7, a copy fails, and for any other the window answers its strand no more. -/
def Sys2Proof.Claims.WalePorts : Prop :=
  ∀ (s : State), s.Inv →
    let n := s.inp.unit
    let p := portAt s n
    let only := fun (t : State) (v : WalePort) => t = { s with ports := t.ports, handle := t.handle } ∧
      ∀ x, portAt t x = if x = n then v else portAt s x
    let sets := fun (i : Instr) (v : WalePort) => ∃ t, exec i s = .next t ∧ only t v ∧ t.handle = s.handle
    let resends := fun (i : Instr) (v : WalePort) (f : BitVec 12) =>
      let w := { v with
        replays := v.replays + 1
        sending := v.sending ++ (v.replay.filter fun q => decide ((q.1 - f).toNat < 2048)).map fun q => v.flit q.1 1 q.2 }
      (w.replays < 16 → sets i w) ∧
      (16 ≤ w.replays → ∃ t, exec i s = .next t ∧ only t { w with up := false } ∧ ∃ e, t.handle.log.getLast? = some e ∧ e.cls = 4)
    let bs := fecCorrected s.inp.data
    let w := ofBytes (bs.take 4)
    let seq := BitVec.ofNat 12 (w % 2 ^ 12)
    let ack := BitVec.ofNat 12 (w / 2 ^ 12 % 2 ^ 12)
    let kind := w / 2 ^ 24 % 2 ^ 8
    let payload := (bs.drop 4).take 236
    let bad := crc32 (bs.take 240) ≠ BitVec.ofNat 32 (ofBytes ((bs.drop 240).take 4))
    let g := s.inp.gid
    let T := strandAt s g
    ((∀ bs f, .remoteReply bs f ∉ s.wire) →
      (p.up = false → exec .waleFlitReceive s = .next s ∧
        sets .walePortRetrain { p with up := true, replays := 0, sending := p.sending ++ [p.flit p.nextSeq 3 []] }) ∧
      (p.up = true →
        ((bad ∨ (kind ≠ 2 ∧ seq ≠ p.expSeq)) → sets .waleFlitReceive { p with sending := p.sending ++ [p.flit p.nextSeq 2 []] }) ∧
        (¬ bad → (kind = 2 ∨ seq = p.expSeq) →
          let kept := p.replay.filter fun q => decide (2048 ≤ (ack - q.1).toNat)
          let v := { p with
            replay := kept, acked := ack, replays := if kept.length < p.replay.length ∨ kind = 3 then 0 else p.replays }
          (kind = 1 → sets .waleFlitReceive { v with expSeq := p.expSeq + 1, received := p.received ++ [payload] }) ∧
          (kind = 2 → resends .waleFlitReceive v (ack + 1)) ∧
          (kind ≠ 1 → kind ≠ 2 → sets .waleFlitReceive v)))) ∧
    (p.up = false → exec .waleReplayRequest s = .next s) ∧
    (p.up = true → exec .walePortRetrain s = .next s ∧
      ((∀ bs f, .remoteReply bs f ∉ s.wire) → resends .waleReplayRequest p (BitVec.ofNat 12 s.inp.idx))) ∧
    (T.task = none → exec .remoteAccessTimeout s = .next s) ∧
    (T.task.isSome → s.inp.f0 = true → ∃ t, exec .remoteAccessTimeout s = .next t ∧ t = { s with t := t.t, peers := t.peers } ∧
      ∀ h, strandAt t h = if h = g then { T with storeTraps := T.storeTraps ++ [⟨7, s.inp.va⟩] } else strandAt s h) ∧
    (T.task.isSome → s.inp.f0 = false → s.inp.f1 = true →
      (copyAt s g n = none → exec .remoteAccessTimeout s = .next s) ∧
      ∀ j, copyAt s g n = some j →
        (j.outcome.isSome → exec .remoteAccessTimeout s = .next s) ∧
        (j.outcome = none → j.held = [] → (∀ k, ∀ q ∈ (sliceAt s k).ownerQueue, q.2 ≠ g * 64 + n) →
          exec .remoteAccessTimeout s = .next { s with copies := s.copies.map fun c =>
            if c.gid = g ∧ c.tag = n then { j with got := [], outcome := some false } else c })) ∧
    (T.task.isSome → s.inp.f0 = false → s.inp.f1 = false →
      (waleOf s.map s.inp.addr = none → exec .remoteAccessTimeout s = .next s) ∧
      ∀ v, waleOf s.map s.inp.addr = some v → ∃ t, exec .remoteAccessTimeout s = .next t ∧ t = { s with timedOut := t.timedOut } ∧
        (∀ q, q ∈ t.timedOut ↔ q = (g, v.base) ∨ q ∈ s.timedOut) ∧
        ∀ x, locOf (focusOn s g) s.inp.addr = some x → 2 ^ 64 ≤ x → locOf (focusOn t g) s.inp.addr = none)

/-- R199, R200, R206, R207, R213, R215, R403: a Weave cycle of a plane in which one flit arrives: at its destination it is ejected, and a request joins
the slice's queue; elsewhere it goes to a neighbour on a shortest route, a hop older, and wakes that router, or crosses a bridge in 144 cycles. The throttle's window of 256 cycles, the power-down of a router without a bridge after
2,048 idle cycles, and a record lost. -/
def Sys2Proof.Claims.Weave : Prop :=
  ∀ (s : State), s.Inv →
    let n : Node := (s.inp.die % 4, s.inp.unit % 192)
    let plane := s.inp.plane % 8
    let now := sget 0 s.planes plane
    let k := routerNo n.1 plane n.2
    let r := routerAt s k
    let sets := fun (i : Instr) (v : Router) => ∃ R, exec i s = .next { s with routers := R } ∧
      ∀ x, sget Router.reset R x = if x = k then v else routerAt s x
    let next := fun v : Router => if 64 ≤ v.d then min 64 (2 * v.k) else if v.d < 16 then max 1 (v.k / 2) else v.k
    let window := fun v : Router =>
      if v.since + 256 ≤ now then { v with k := next v, d := 0, loss := false, since := now / 256 * 256 } else v
    (∀ f, s.inp.nums = [] → (∀ x, x / 192 % 8 = plane → x ≠ k → routerAt s x = Router.reset ∨ (routerAt s x).down = true) →
      (∀ p ∈ s.transit, p.2.1 / 192 % 8 = plane → now < p.1) →
      r.down = false → r.inject = [] → r.arriving = [f] → f.mc = false → s.inp.f1 = false →
      let dest : Node := (f.ddie.toNat, f.dnode.toNat)
      let cycled := fun t : State => t = { s with
          routers := t.routers, planes := t.planes, free := t.free, transit := t.transit, slices := t.slices } ∧
        ∀ x, sget 0 t.planes x = if x = plane then now + 1 else sget 0 s.planes x
      let here := fun (t : State) (v : Router) => t.transit = s.transit ∧ ∀ x, routerAt t x = if x = k then v else routerAt s x
      (∀ sl, dest = n → sliceOfNode plane n = some sl → f.crc = crcOf f →
        (f.typ.toNat ∈ [1, 3, 5, 6, 9, 11, 15] → ∃ t, exec .routerCycle s = .next t ∧ cycled t ∧ t.slices = s.slices ∧
          here t { window r with arriving := [], ejected := r.ejected ++ [f] }) ∧
        (isRequest f.typ = true → f.nf = 0 → f.fi = 0 → (sliceAt s sl).requests.length < 128 →
          (∀ q ∈ (sliceAt s sl).requests, sameMessage f q = false) → (∀ p ∈ (sliceAt s sl).owned, p.1 ≠ (argLine s f).getD 0) →
            ∃ t q, exec .routerCycle s = .next t ∧ cycled t ∧ here t { window r with arriving := [] } ∧
              q.typ = f.typ.toNat ∧ q.recNo = f.recNo.toNat ∧ q.line = (argLine s f).getD 0 ∧ q.whole = true ∧
              ∀ x, sliceAt t x = if x = sl then { sliceAt s sl with requests := (sliceAt s sl).requests ++ [q] } else sliceAt s x)) ∧
      (dest ≠ n → (∃ p, productive n p dest = true) → ∃ t p m br, exec .routerCycle s = .next t ∧ cycled t ∧ t.slices = s.slices ∧
        beyond n p = some (m, br) ∧ hops m dest + 1 = hops n dest ∧
        routerAt t k = { window r with arriving := [], idleFrom := now + 1 } ∧
        (let a := { f with age := BitVec.ofNat 8 (min 255 (f.age.toNat + if br then 144 else 1)) }
         let next := routerNo m.1 plane m.2
         (br = true → t.transit = s.transit ++ [(now + 144, (next, { a with crc := crcOf a }))]) ∧
         (br = false → t.transit = s.transit ∧ routerAt t next = { routerAt s next with
          down := false
          arriving := (routerAt s next).arriving ++ [{ a with crc := crcOf a }] })))) ∧
    sets .throttleWindowEnd (window r) ∧
    ((hasBridge n = true ∨ now < r.idleFrom + 2048) → exec .routerPowerDown s = .next s) ∧
    (hasBridge n = false → r.idleFrom + 2048 ≤ now → sets .routerPowerDown
      (if r.arriving = [] ∧ r.inject = [] then { r with down := true, idleFrom := now } else { r with idleFrom := now })) ∧
    (let hit := fun x : Record => x.delivered = false ∧ (∃ c, x.marked = some c ∧ c + 2 ^ 24 ≤ sget 0 s.planes x.plane) ∧
       x.gid = s.inp.gid ∧ x.line = s.inp.line
     ((∀ x ∈ s.records, ¬ hit x) → exec .recordLossTimeout s = .next s) ∧
     ∀ pre x post, s.records = pre ++ x :: post → hit x → (∀ y ∈ pre, ¬ hit y) →
       (x.multicast = true → exec .recordLossTimeout s = .next { s with
         records := s.records.map fun q => if q = x then { x with failed := true, delivered := true } else q }) ∧
       (x.multicast = false → x.dead = true → exec .recordLossTimeout s = .next { s with records := pre ++ post }) ∧
       (x.multicast = false → x.dead = false → ∃ t, exec .recordLossTimeout s = .next t ∧
         FailsAt { s with records := pre ++ post } x 27 t))

namespace Sys2Proof.Claims

/-- The nine that the front end executes itself (R17). -/
def frontEnd : Instr → Bool
  | .vaSetvl _ _ _ | .vaSetvlP _ _ _ | .vaSetcfg _ _ | .vaSetkey _ _ | .vxEnd | .vxYield | .vxVdrain | .vxSave _ | .vxRestore => true
  | _ => false

/-- The instructions of the custom opcodes that write an x register (R19, R346). -/
def awaited : Instr → Bool
  | .vxClaim _ _ _ | .vxFld _ _ | .vxFprobe _ _ | .vaKpop _ _ _ | .vaKfirst _ _ _ | .vxFe _ | .vpExt _ _ _ | .vpGetd _ _ | .vpChk _ _
  | .vpSpk _ _ | .vpSpdot _ _ _ | .vmCpwany _ _ _ | .vmCpwall _ _ _ | .vmCpffr _ _ _ | .vxSpawn _ _ | .vxDep _ _ _
  | .vxLvl _ _ => true
  | _ => false

/-- A major opcode of the four custom ones (R50). -/
def custom (w : InstrWord) : Prop := w.toNat % 128 = 0x0B ∨ w.toNat % 128 = 0x2B ∨ w.toNat % 128 = 0x5B ∨ w.toNat % 128 = 0x7B

/-- What reset leaves of a strand (R42, R44, R313, R36). -/
def StrandAtReset (t : Strand) : Prop :=
  t.vl = 0 ∧ t.vcfg = 4 ∧ t.vkey = 0 ∧ t.vstat = 0 ∧ t.vmcnt = 0 ∧ t.vtrows = 0 ∧ t.vrthr = 0x40000 ∧ t.ctags = 0 ∧ t.queue = [] ∧
    t.task = none ∧ t.share = 0 ∧ t.weight = 0 ∧ t.pending = Vector.replicate 32 none ∧ t.claims = List.replicate 32 .free ∧
    t.unfold = none ∧ t.reservation = none ∧ t.mode = .machine

end Sys2Proof.Claims

open Sys2Proof Sys2Proof.Machine Sys2Proof.Claims

/-- R50 to R57: words that the spec writes out decode to what it says they are, and reserved words are rejected. -/
def Obligations.DecodeWords : Prop :=
  (∀ p ∈ ([(0x0020B18B, .vaFaddFvv 3 1 2 0), (0x2020D10B, .vaSlt 2 1 2 0), (0x6220B40B, .vaFmaccFvv 8 1 2 1), (0xA020D18B, .vaKand 3 1 2),
      (0x000400AB, .vmLd 1 8 0), (0x1075912B, .vmSts 2 11 7 0), (0x0001D02B, .vmFence 3 0), (0x0055602B, .vmCp 10 5 0),
      (0x0000025B, .vpSort 4 0), (0x309415DB, .vpSpmul 11 8 9), (0x6012B3DB, .vpBcast 7 5 1), (0x0080087B, .vxMmac 16 0 8),
      (0x0045947B, .vxPush 8 11 4 0), (0x0067A3FB, .vxClaim 7 15 6), (0x04B532FB, .vxDep 5 10 11), (0x0A00407B, .vxWdpet)] :
      List (InstrWord × Instr)), decode p.1 = .ok p.2) ∧
  ∀ w ∈ ([0x0200025B, 0xA000025B, 0, 0xFFFFFFFF] : List InstrWord), ∀ i, decode w ≠ .ok i

/-- R2, R5, R17, R18, R36, R57, R393: a step performs the instruction whose word stands at the pc, time having passed; a word that does not decode is
performed as RESERVED_WORD, a fetch that fails traps, one that meets a locked line waits. While the vector queue holds entries, it and the scalar stream
take turns: a completed oldest entry commits, else the next entry that may be is tried; no turn is the scalar stream's while it stands at an instruction
that writes an x register or at a `vx.tlbinv`, or while a trap or a save waits. A `wfi` that waits ends once an interrupt is pending and enabled. (Every register holds good parity.) -/
def Obligations.StepRunsDecoded : Prop :=
  ∀ (s : State),
    let u := { s with
      clock := s.clock + s.timePace * s.handle.clockMhz / 100
      weave := s.weave + 24 * s.timePace
      time := s.time + BitVec.ofNat 64 s.timePace
      tlbGo := if goReads s then s.tlbGo else none }
    let free := s.t.task.isSome ∧ s.t.failing = none ∧ s.t.framing = none ∧ s.t.firmware = false ∧ watchdogOut u u.t = false ∧
      saveDue u = false ∧ takePending u = none
    (s.agenda = [] → s.stalled = false → free → s.t.waiting = true →
      (wakePending u = true → step s = .next { u with t := { u.t with waiting := false } }) ∧
      (wakePending u = false → s.t.queue = [] → step s = .next (yieldTurn u))) ∧
    (s.agenda = [] → s.stalled = false → attend u = none → s.t.xbad = [] → s.t.vbad = [] → s.t.kbad = [] →
      let fetches := fun (v : State) =>
        (fetchWaits v = true → step s = .next { v with stalled := true }) ∧
        (fetchWaits v = false →
          (∀ w e, fetchWord v = .ok w → decode w = .error e → step s = exec (.reservedWord w) v) ∧
          ∀ c, fetchWord v = .error c → step s = .next (scalarTrap v c v.t.pc))
      let turn := { u with t := { u.t with vectorTurn := true } }
      let vector := (s.t.vectorTurn = true ∧ held u = false) ∨ s.t.waiting = true ∨ xWaits s.t = true ∨ frontStopped u = true
      (s.t.queue = [] → s.t.waiting = false → fetches u ∧
        ∀ w i, fetchWaits u = false → fetchWord u = .ok w → decode w = .ok i → step s = exec i u) ∧
      ∀ e r, s.t.queue = e :: r →
        (e.done = true → step s = .next { u with t := { u.t with queue := r, place := 0, vcpPc := e.pc, vstat := u.t.vstat ||| e.late } }) ∧
        (e.done = false → vector →
          (tryPlace u = none → step s = .next { u with t := { u.t with place := 0, vectorTurn := false }, stalled := true }) ∧
          ∀ n d, tryPlace u = some n → s.t.queue[n]? = some d → step s = exec d.instr { u with t := { u.t with
            replay := some d, place := n, peek := !mayComplete u n, upto := none, vectorTurn := false } }) ∧
        (e.done = false → ¬ vector → fetches turn ∧
          ∀ w i, fetchWaits turn = false → fetchWord turn = .ok w → decode w = .ok i →
            step s = mapNext (exec i turn) fun t => if t.t.queue.length = s.t.queue.length then wrote turn t i else t))

/-- R17, R19, R36: while an entry waits, a vector instruction of the scalar stream, in a mode that may run it, is pushed with the word, the pc, the scalar
registers it reads, `vl`, `vcfg` and `vkey` as they stand, and is counted; where it writes an x register the scalar stream stays at it. With all 64 entries
taken the scalar stream waits. -/
def Obligations.QueuePush : Prop :=
  ∀ (i : Instr) (w : InstrWord) (s : State), encode i = some w → custom w → frontEnd i = false → s.t.replay = none → s.t.queue ≠ [] →
    ((∃ a b, i = .vxTlbinv a b) → s.t.mode ≠ .user) →
    (64 ≤ s.t.queue.length → exec i s = .next { s with stalled := true }) ∧
    (s.t.queue.length < 64 → ∃ e,
      exec i s = .next (toPc { s with t := { s.t with queue := s.t.queue ++ [e] } } (if awaited i then s.t.pc else s.t.pc + 4)) ∧
      e.instr = i ∧ e.word = w ∧ e.pc = s.t.pc ∧ e.xa = xr s (w.extractLsb' 15 5) ∧ e.xb = xr s (w.extractLsb' 20 5) ∧ e.vl = s.t.vl ∧
      e.vcfg = s.t.vcfg ∧ e.vkey = s.t.vkey ∧ e.gen = s.t.gen ∧ e.mode = s.t.mode ∧ e.done = false ∧ e.progress = 0 ∧ e.xw = awaited i)

/-- R50 to R57: decoding the word of a well-formed instruction gives the instruction back, with every operand. -/
def Sys2Proof.Claims.EncodeDecode : Prop := ∀ (i : Instr) (w : InstrWord), WellFormed i → encode i = some w → decode w = .ok i

/-- R50 to R57: every word that decodes is the word of the instruction it decodes to, which is well formed. -/
def Sys2Proof.Claims.DecodeEncode : Prop := ∀ (w : InstrWord) (i : Instr), decode w = .ok i → WellFormed i ∧ encode i = some w

/-- R36, R42, R44, R312, R361, R390, R405, R407: after reset every strand is idle with its CSRs at their reset values, memory is clear and passes every
check, every Slath entry is FREE, every queue STOPPED, and no physical range is enabled; and every map is in its canonical form. -/
def Obligations.ResetState : Prop :=
  let s := State.reset
  s.Inv ∧ (∀ g, StrandAtReset (strandAt s g)) ∧ (∀ loc, homeByte s loc = 0) ∧ s.errs = [] ∧
    (∀ k n, (slathAt s k n).state = .free ∧ (slathAt s k n).gen = 0) ∧ (∀ q, (queueAt s q).state = .stopped) ∧
    (∀ pa, locOf s pa = none) ∧ s.launches = [] ∧ s.copies = [] ∧ s.frames = [] ∧ s.suspended = []

/-- Every step keeps the sparse maps in their canonical form and every strand's VL within VLMAX of an assigned format. -/
def Obligations.StepKeepsInv : Prop := ∀ (s t : State), s.Inv → step s = .next t → t.Inv

/-- Every step keeps memory in its canonical form: addresses rise strictly and no byte is listed that an unlisted one reads as. -/
def Obligations.StepKeepsMemory : Prop := ∀ (s t : State), Memory.wf s.mem = true → step s = .next t → Memory.wf t.mem = true

/-- Every instruction and event has a next state in every state, and so has every step whose agenda names no unit that the package does not have. -/
def Obligations.NothingStops : Prop :=
  (∀ (i : Instr) (s : State), ∃ t, exec i s = .next t) ∧ ∀ (s : State), s.agenda = [] → ∃ t, step s = .next t

/-- R45.2, R56: `vl`, `vcfg` and `vkey` change only through their four instructions; and no instruction of user mode changes the supervisor's and machine's
registers that set up translation, delegation, handlers and the save area. -/
def Sys2Proof.Claims.KeptRegisters : Prop :=
  ∀ (i : Instr) (s t : State), isEvent i = false → exec i s = .next t →
    ((∀ d a b, i ≠ .vaSetvl d a b ∧ i ≠ .vaSetvlP d a b ∧ i ≠ .vaSetcfg d a ∧ i ≠ .vaSetkey d a) →
      t.t.vl = s.t.vl ∧ t.t.vcfg = s.t.vcfg ∧ t.t.vkey = s.t.vkey) ∧
    (s.t.mode = .user → t.t.datp = s.t.datp ∧ t.t.fmtb = s.t.fmtb ∧ t.t.sbase = s.t.sbase ∧ t.t.sdesc = s.t.sdesc ∧
      t.t.stvec = s.t.stvec ∧ t.t.sscratch = s.t.sscratch ∧ t.t.stimecmp = s.t.stimecmp ∧ t.t.mtvec = s.t.mtvec ∧
      t.t.medeleg = s.t.medeleg ∧ t.t.mideleg = s.t.mideleg ∧ t.t.mie = s.t.mie ∧ t.t.mcounteren = s.t.mcounteren ∧
      t.t.scounteren = s.t.scounteren)

/-- The frame of the register-only families: an instruction of custom-0 or custom-2 other than the grant of a length leaves every byte of memory, every other
strand, the slices, the records and messages, the scalar CSRs that it does not name and the frames as they are. -/
def Sys2Proof.Claims.RegisterOnly : Prop :=
  ∀ (i : Instr) (w : InstrWord) (s t : State), encode i = some w → w.toNat % 128 = 0x0B ∨ w.toNat % 128 = 0x5B →
    (∀ d a b, i ≠ .vaSetvl d a b ∧ i ≠ .vaSetvlP d a b) → s.t.locks = [] → exec i s = .next t →
      (∀ die loc, readByte t die loc = readByte s die loc) ∧ (∀ loc, homeByte t loc = homeByte s loc) ∧ t.gid = s.gid ∧
        t.peers = s.peers ∧ t.slices = s.slices ∧ t.lines = s.lines ∧ t.copies = s.copies ∧ t.frames = s.frames ∧ t.wire = s.wire ∧ t.records = s.records ∧
        t.launches = s.launches ∧ t.t.claims = s.t.claims ∧ t.t.pending = s.t.pending ∧ t.t.reservation = s.t.reservation ∧
        t.t.ctags = s.t.ctags ∧ t.t.cfault = s.t.cfault ∧ t.t.vrthr = s.t.vrthr ∧ t.t.datp = s.t.datp ∧ t.t.fmtb = s.t.fmtb ∧
        t.t.task = s.t.task

/-- Integer element operations and compares: `IntegerElements` and `IntegerCompares`. -/
def Obligations.IntegerElementOperations : Prop := Claims.IntegerElements ∧ Claims.IntegerCompares

/-- Floating-point element operations, compares and their format trap: `FpElements`, `FpUnaryElements`, `FpFormatTrap` and
`FpCompares`. -/
def Obligations.FpElementOperations : Prop := Claims.FpElements ∧ Claims.FpUnaryElements ∧ Claims.FpFormatTrap ∧ Claims.FpCompares

/-- Moves, generators, and the instructions that write an x register from registers alone: `MovesAndGenerators` and `ToScalar`. -/
def Obligations.MovesGeneratorsToScalar : Prop := Claims.MovesAndGenerators ∧ Claims.ToScalar

/-- Reductions over the active elements: `IntegerReductions`, `MaximumWithIndex` and `FpReductions`. -/
def Obligations.Reductions : Prop := Claims.IntegerReductions ∧ Claims.MaximumWithIndex ∧ Claims.FpReductions

/-- The SORT group: sorting, checking, runs, and SORT-STATE: `Sorting`, `CheckAndMark`, `RunOperations` and `SortState`. -/
def Obligations.SortGroup : Prop := Claims.Sorting ∧ Claims.CheckAndMark ∧ Claims.RunOperations ∧ Claims.SortState

/-- Keys, the SPARSE group and the GATE group: `SparseOperations` and `GateOperations`. -/
def Obligations.SparseAndGateGroups : Prop := Claims.SparseOperations ∧ Claims.GateOperations

/-- Va.setvl grants a length; va.setvl.p is the pre-emption point: `LengthGrant` and `PreemptionPoint`. -/
def Obligations.LengthGrantAndPreemption : Prop := Claims.LengthGrant ∧ Claims.PreemptionPoint

/-- Vector loads: `LoadedElements`, `SpecialLoads` and `MulticastLoad`. -/
def Obligations.VectorLoads : Prop := Claims.LoadedElements ∧ Claims.SpecialLoads ∧ Claims.MulticastLoad

/-- Vector stores write the bytes of their active elements and no other: `StoredElements` and `ConditionalScatter`. -/
def Obligations.VectorStores : Prop := Claims.StoredElements ∧ Claims.ConditionalScatter

/-- Vector atomics and updates: `VectorAtomics`, `Updates` and `FpAtomicsAndUpdates`. -/
def Obligations.AtomicsAndUpdates : Prop := Claims.VectorAtomics ∧ Claims.Updates ∧ Claims.FpAtomicsAndUpdates

/-- Fences and barrier arrivals: `Fences` and `BarrierArrival`. -/
def Obligations.FencesAndArrivals : Prop := Claims.Fences ∧ Claims.BarrierArrival

/-- Barrier waits and sleeps: `BarrierWait` and `SleepOnWords`. -/
def Obligations.WaitsAndSleeps : Prop := Claims.BarrierWait ∧ Claims.SleepOnWords

/-- Vm.cp and the copy tags: `CopyBegins` and `CopyTags`. -/
def Obligations.CopyGroup : Prop := Claims.CopyBegins ∧ Claims.CopyTags

/-- Vx.push fills a peer's pending registers, vx.take takes one: `PushRegisters` and `TakeRegister`. -/
def Obligations.PushAndTake : Prop := Claims.PushRegisters ∧ Claims.TakeRegister

/-- Vx.mtld and vx.mcomp: `TileLoad` and `Compression`. -/
def Obligations.TileLoadAndCompression : Prop := Claims.TileLoad ∧ Claims.Compression

/-- Vx.munf and the long products: `UnfoldingSlot` and `LongProducts`. -/
def Obligations.UnfoldingAndLongProducts : Prop := Claims.UnfoldingSlot ∧ Claims.LongProducts

/-- Vx.claim, vx.fld, vx.fprobe and the CLAIM trap: `ClaimName`, `FutureLoads` and `ClaimTraps`. -/
def Obligations.ClaimsAndFutures : Prop := Claims.ClaimName ∧ Claims.FutureLoads ∧ Claims.ClaimTraps

/-- Vx.spawn and vx.dep: `Spawning` and `Dependencies`. -/
def Obligations.SpawnAndDep : Prop := Claims.Spawning ∧ Claims.Dependencies

/-- Vx.glaunch, vx.yield and vx.lvl: `GroupedLaunch` and `YieldAndLevels`. -/
def Obligations.GlaunchYieldLvl : Prop := Claims.GroupedLaunch ∧ Claims.YieldAndLevels

/-- Vx.save, vx.restore and the rest of the SYS group: `GivingUp`, `Restoring` and `SystemGroup`. -/
def Obligations.SysGroup : Prop := Claims.GivingUp ∧ Claims.Restoring ∧ Claims.SystemGroup

/-- Scalar loads, stores, LR, SC and atomics: `ScalarMemory` and `ScalarAtomics`. -/
def Obligations.ScalarMemoryAndAtomics : Prop := Claims.ScalarMemory ∧ Claims.ScalarAtomics

/-- Taking a trap and returning from one: `TrapEntry` and `TrapReturn`. -/
def Obligations.TrapsTakenAndLeft : Prop := Claims.TrapEntry ∧ Claims.TrapReturn

/-- Focus, issue, commit and delivery: `Focus`, `ElementGroupIssue` and `CommitAndDelivery`. -/
def Obligations.IssueCommitDelivery : Prop := Claims.Focus ∧ Claims.ElementGroupIssue ∧ Claims.CommitAndDelivery

/-- Dispatch, resumption and readiness: `TaskDispatch` and `ResumptionAndReadiness`. -/
def Obligations.DispatchAndResumption : Prop := Claims.TaskDispatch ∧ Claims.ResumptionAndReadiness

/-- Reads and writes through the Weave: `ReadEvents` and `WriteEvents`. -/
def Obligations.ReadAndWriteEvents : Prop := Claims.ReadEvents ∧ Claims.WriteEvents

/-- Bank ALU atomics, line locks, invalidations and ownership: `AtomicEvents` and `CoherenceEvents`. -/
def Obligations.AtomicAndCoherenceEvents : Prop := Claims.AtomicEvents ∧ Claims.CoherenceEvents

/-- Outer accesses, multicast reads and page walks: `OuterAccesses`, `MulticastEvents` and `PageWalk`. -/
def Obligations.OuterMulticastWalk : Prop := Claims.OuterAccesses ∧ Claims.MulticastEvents ∧ Claims.PageWalk

/-- Copy engines, a step of a long product, grouped-launch blocks: `CopyEvents`, `MatrixStep` and `BlockEvents`. -/
def Obligations.EngineEvents : Prop := Claims.CopyEvents ∧ Claims.MatrixStep ∧ Claims.BlockEvents

/-- Configuration requests and the Handle: `Configuring` and `HandleEvents`. -/
def Obligations.ConfiguringAndHandle : Prop := Claims.Configuring ∧ Claims.HandleEvents

/-- Wale ports and the Weave's routers: `WalePorts` and `Weave`. -/
def Obligations.WaleAndWeave : Prop := Claims.WalePorts ∧ Claims.Weave

/-- Decoding and encoding are each other's inverse on all well-formed instructions: `EncodeDecode` and `DecodeEncode`. -/
def Obligations.WordsAndInstructionsAgree : Prop := Claims.EncodeDecode ∧ Claims.DecodeEncode

/-- Who may change vl, vcfg, vkey and the privileged registers; the frame of custom-0 and custom-2: `KeptRegisters` and
`RegisterOnly`. -/
def Obligations.KeptRegisters : Prop := Claims.KeptRegisters ∧ Claims.RegisterOnly
end

