-- ==== Sys2Proof/Laws/Bits.lean ====
section
/-! SUPPORT. The laws of registers' contents: an element reads as it was packed, and bytes give back the number they came from. -/

namespace Sys2Proof.Machine

/-- A packed number stays below the power of its width. -/
theorem packNat_lt (w : Nat) (f : Nat → Nat) (n : Nat) : packNat w f n < 2 ^ (w * n) := by
  induction n with
  | zero => simp [packNat]
  | succ n ih =>
    have h : f n % 2 ^ w + 1 ≤ 2 ^ w := Nat.mod_lt _ (Nat.two_pow_pos w)
    have := Nat.mul_le_mul_right (2 ^ (w * n)) h
    rw [Nat.add_mul, Nat.one_mul] at this
    rw [packNat, Nat.mul_succ, Nat.pow_add, Nat.mul_comm (2 ^ (w * n)) (2 ^ w)]
    omega

/-- A digit of a packed number. -/
theorem packNat_digit (w : Nat) (f : Nat → Nat) (n i : Nat) :
    packNat w f n / 2 ^ (i * w) % 2 ^ w = if i < n then f i % 2 ^ w else 0 := by
  induction n with
  | zero => simp [packNat]
  | succ n ih =>
    have hlt := packNat_lt w f n
    rcases Nat.lt_trichotomy i n with h | rfl | h
    · have e : w * n = i * w + w * (n - i) := by
        rw [Nat.mul_comm i w, ← Nat.mul_add]
        congr 1
        omega
      have hw : w * (n - i) = w + w * (n - i - 1) := by
        conv_lhs => rw [show n - i = 1 + (n - i - 1) by omega, Nat.mul_add, Nat.mul_one]
      rw [packNat, e, Nat.pow_add, ← Nat.mul_assoc, Nat.mul_comm (f n % 2 ^ w) (2 ^ (i * w)), Nat.mul_assoc,
        Nat.add_mul_div_left _ _ (Nat.two_pow_pos _), hw, Nat.pow_add, Nat.mul_left_comm, Nat.add_mul_mod_self_left, ih]
      simp [h, Nat.lt_succ_of_lt h]
    · rw [packNat, Nat.mul_comm w i, Nat.add_mul_div_right _ _ (Nat.two_pow_pos _), Nat.div_eq_of_lt (by rwa [Nat.mul_comm])]
      simp
    · have hb := packNat_lt w f (n + 1)
      have hm : 2 ^ (w * (n + 1)) ≤ 2 ^ (i * w) := Nat.pow_le_pow_right (by decide) (by
        rw [Nat.mul_comm i w]
        exact Nat.mul_le_mul_left w h)
      rw [Nat.div_eq_of_lt (Nat.lt_of_lt_of_le hb hm)]
      simp [show ¬ i < n + 1 by omega]

/-- An element of a packed register: what was packed below the count, and 0 from it on. -/
theorem elem_packV (w : Nat) (f : Nat → Nat) (n i : Nat) (h : w * n ≤ 32768) :
    elem w (packV w f n) i = if i < n then f i % 2 ^ w else 0 := by
  have hlt : packNat w f n < 2 ^ 32768 := Nat.lt_of_lt_of_le (packNat_lt w f n) (Nat.pow_le_pow_right (by decide) h)
  rw [elem, bits, packV, BitVec.toNat_ofNat, Nat.mod_eq_of_lt hlt, packNat_digit]

/-- A bit of a packed mask: what was packed below the count, and false from it on (R41). -/
theorem getLsbD_packK (f : Nat → Bool) (n i : Nat) (h : n ≤ 4096) : (packK f n).getLsbD i = (decide (i < n) && f i) := by
  have hlt : packNat 1 (fun i => if f i then 1 else 0) n < 2 ^ 4096 :=
    Nat.lt_of_lt_of_le (packNat_lt _ _ n) (Nat.pow_le_pow_right (by decide) (by omega))
  have hd := packNat_digit 1 (fun i => if f i then 1 else 0) n i
  rw [Nat.mul_one, Nat.pow_one] at hd
  rw [packK, BitVec.getLsbD_ofNat, Nat.testBit_eq_decide_div_mod_eq, hd]
  by_cases hi : i < n
  · by_cases hf : f i <;> simp [hi, hf, Nat.lt_of_lt_of_le hi h]
  · simp [hi]

/-- The bytes of a number are as many as asked for. -/
@[simp] theorem bytesOf_length (n v : Nat) : (bytesOf n v).length = n := by
  induction n generalizing v with
  | zero => rfl
  | succ n ih => simp [bytesOf, ih]

/-- The bytes of a number give it back, modulo their width. -/
theorem ofBytes_bytesOf (n v : Nat) : ofBytes (bytesOf n v) = v % 256 ^ n := by
  induction n generalizing v with
  | zero => simp [bytesOf, ofBytes, Nat.mod_one]
  | succ n ih =>
    have h : v % 256 ^ (n + 1) = v % 256 + 256 * (v / 256 % 256 ^ n) := by rw [Nat.pow_succ', Nat.mod_mul]
    rw [bytesOf, ofBytes, ih, BitVec.toNat_ofNat, h]

end Sys2Proof.Machine
end

