-- ==== Sys2Proof/Laws/Sparse.lean ====
section
/-! SUPPORT. The laws of sparse maps: what a read after a write gives, and that a write keeps the canonical form. -/

namespace Sys2Proof.Machine

@[simp] theorem sget_nil {α : Type} (d : α) (k : Nat) : sget d [] k = d := rfl

/-- What holds of every entry and of the unlisted value holds of what is read. -/
theorem sget_all {α : Type} {P : α → Prop} {d : α} {m : List (Nat × α)} (k : Nat) (hd : P d) (hm : ∀ p ∈ m, P p.2) : P (sget d m k) := by
  induction m with
  | nil => exact hd
  | cons p r ih =>
    simp only [sget]
    split
    · exact hd
    · split
      · exact hm p (by simp)
      · exact ih fun q hq => hm q (by simp [hq])

/-- Below the bound of a canonical map every key reads as unlisted. -/
theorem sget_of_lt {α : Type} [DecidableEq α] (d : α) (m : List (Nat × α)) (lo k : Nat) (h : swfFrom d lo m = true) (hk : k < lo) :
    sget d m k = d := by
  cases m with
  | nil => rfl
  | cons p r =>
    obtain ⟨j, v⟩ := p
    simp only [swfFrom, Bool.and_eq_true, decide_eq_true_eq] at h
    simp [sget, Nat.lt_of_lt_of_le hk h.1.1]

/-- A canonical map from a bound is canonical from any lower one. -/
theorem swfFrom_mono {α : Type} [DecidableEq α] (d : α) (m : List (Nat × α)) (a b : Nat) (hab : a ≤ b) (h : swfFrom d b m = true) :
    swfFrom d a m = true := by
  cases m with
  | nil => rfl
  | cons p r =>
    obtain ⟨j, v⟩ := p
    simp only [swfFrom, Bool.and_eq_true, decide_eq_true_eq] at h ⊢
    exact ⟨⟨Nat.le_trans hab h.1.1, h.1.2⟩, h.2⟩

/-- A write keeps the canonical form, from a bound at or below its key. -/
theorem sput_wfFrom {α : Type} [DecidableEq α] (d : α) (m : List (Nat × α)) (lo k : Nat) (v : α) (hk : lo ≤ k)
    (h : swfFrom d lo m = true) : swfFrom d lo (sput d m k v) = true := by
  induction m generalizing lo with
  | nil =>
    by_cases hv : v = d <;> simp [sput, swfFrom, hv, hk]
  | cons p r ih =>
    obtain ⟨j, w⟩ := p
    simp only [swfFrom, Bool.and_eq_true, decide_eq_true_eq] at h
    obtain ⟨⟨hj, hw⟩, hr⟩ := h
    rcases Nat.lt_trichotomy k j with hkj | rfl | hkj
    · by_cases hv : v = d
      · simp [sput, hkj, hv, swfFrom, hj, hw, hr]
      · simp [sput, hkj, hv, swfFrom, hk, hw, hr, Nat.succ_le_of_lt hkj]
    · by_cases hv : v = d
      · simp only [sput, Nat.lt_irrefl, if_false, if_true, hv]
        exact swfFrom_mono d r _ _ (Nat.le_succ_of_le hj) hr
      · simp [sput, hv, swfFrom, hj, hr]
    · simp only [sput, Nat.not_lt.2 (Nat.le_of_lt hkj), if_false, Nat.ne_of_gt hkj, swfFrom, Bool.and_eq_true, decide_eq_true_eq]
      exact ⟨⟨hj, hw⟩, ih (j + 1) hkj hr⟩

/-- A write keeps the canonical form. -/
theorem sput_wf {α : Type} [DecidableEq α] (d : α) (m : List (Nat × α)) (k : Nat) (v : α) (h : swf d m = true) :
    swf d (sput d m k v) = true := sput_wfFrom d m 0 k v (Nat.zero_le k) h

/-- In a canonical map from above a key, the key reads as unlisted after a removal. -/
theorem sget_sput_same_from {α : Type} [DecidableEq α] (d : α) (m : List (Nat × α)) (lo k : Nat) (v : α)
    (h : swfFrom d lo m = true) : sget d (sput d m k v) k = v := by
  induction m generalizing lo with
  | nil => by_cases hv : v = d <;> simp [sput, sget, hv]
  | cons p r ih =>
    obtain ⟨j, w⟩ := p
    simp only [swfFrom, Bool.and_eq_true, decide_eq_true_eq] at h
    obtain ⟨-, hr⟩ := h
    rcases Nat.lt_trichotomy k j with hkj | rfl | hkj
    · by_cases hv : v = d <;> simp [sput, sget, hkj, hv]
    · by_cases hv : v = d
      · simpa [sput, hv] using sget_of_lt d r _ _ hr (Nat.lt_succ_self k)
      · simp [sput, sget, hv]
    · simp only [sput, Nat.not_lt.2 (Nat.le_of_lt hkj), if_false, Nat.ne_of_gt hkj, sget]
      exact ih (j + 1) hr

/-- A read after a write to the same key gives the value written. -/
theorem sget_sput_same {α : Type} [DecidableEq α] (d : α) (m : List (Nat × α)) (k : Nat) (v : α) (h : swf d m = true) :
    sget d (sput d m k v) k = v := sget_sput_same_from d m 0 k v h

/-- In a canonical map, a write to one key leaves every other key alone. -/
theorem sget_sput_other_from {α : Type} [DecidableEq α] (d : α) (m : List (Nat × α)) (lo k j : Nat) (v : α) (hj : j ≠ k)
    (h : swfFrom d lo m = true) : sget d (sput d m k v) j = sget d m j := by
  induction m generalizing lo with
  | nil => by_cases hv : v = d <;> simp [sput, sget, hv, hj]
  | cons p r ih =>
    obtain ⟨i, w⟩ := p
    simp only [swfFrom, Bool.and_eq_true, decide_eq_true_eq] at h
    obtain ⟨-, hr⟩ := h
    rcases Nat.lt_trichotomy k i with hki | rfl | hki
    · by_cases hv : v = d
      · simp [sput, hki, hv]
      · by_cases h1 : j < k
        · simp [sput, hki, hv, sget, h1, Nat.lt_trans h1 hki]
        · simp [sput, hki, hv, sget, h1, hj]
    · by_cases hv : v = d
      · simp only [sput, Nat.lt_irrefl, if_false, if_true, hv, sget, hj]
        by_cases h1 : j < k
        · simp [h1, sget_of_lt d r _ _ hr (Nat.lt_succ_of_lt h1)]
        · simp [h1]
      · simp [sput, hv, sget, hj]
    · simp only [sput, Nat.not_lt.2 (Nat.le_of_lt hki), if_false, Nat.ne_of_gt hki, sget]
      rw [ih (i + 1) hr]

/-- In a canonical map, a write to one key leaves every other key alone. -/
theorem sget_sput_other {α : Type} [DecidableEq α] (d : α) (m : List (Nat × α)) (k j : Nat) (v : α) (hj : j ≠ k)
    (h : swf d m = true) : sget d (sput d m k v) j = sget d m j := sget_sput_other_from d m 0 k j v hj h

/-- Filtering keeps the canonical form. -/
theorem swfFrom_filter {α : Type} [DecidableEq α] (d : α) (p : Nat × α → Bool) (m : List (Nat × α)) (lo : Nat)
    (h : swfFrom d lo m = true) : swfFrom d lo (m.filter p) = true := by
  induction m generalizing lo with
  | nil => rfl
  | cons q r ih =>
    obtain ⟨j, w⟩ := q
    simp only [swfFrom, Bool.and_eq_true, decide_eq_true_eq] at h
    obtain ⟨⟨hj, hw⟩, hr⟩ := h
    have hr' := ih (j + 1) hr
    by_cases hp : p (j, w) = true
    · simp [hp, swfFrom, hj, hw, hr']
    · simp only [List.filter_cons, hp]
      exact swfFrom_mono d _ _ _ (Nat.le_succ_of_le hj) hr'

/-- Filtering keeps the canonical form. -/
theorem swf_filter {α : Type} [DecidableEq α] (d : α) (p : Nat × α → Bool) (m : List (Nat × α)) (h : swf d m = true) :
    swf d (m.filter p) = true := swfFrom_filter d p m 0 h

end Sys2Proof.Machine
end

