-- ==== Sys2Proof/Laws/Memory.lean ====
section
/-! SUPPORT. The laws of memory: what a read after a write gives, and that every memory operation keeps the canonical form. -/

namespace Sys2Proof.Machine

/-- After a write to a location no frame image holds it. -/
theorem Image.holds_drop_same (m : Image) (loc : Nat) : (m.drop loc).holds loc = false := by
  unfold Image.drop
  split
  · simp [Image.holds]
  · exact Bool.eq_false_iff.mpr ‹_›

/-- A write to a location leaves what a frame image holds elsewhere. -/
theorem Image.holds_drop_other (m : Image) (loc a : Nat) (ha : a ≠ loc) : (m.drop loc).holds a = m.holds a := by
  unfold Image.drop
  split
  · simp [Image.holds, ha]
  · rfl

/-- A write keeps where a frame image stands and which frame it is of. -/
theorem Image.drop_keeps (m : Image) (loc : Nat) : (m.drop loc).seed = m.seed ∧ (m.drop loc).base = m.base := by
  by_cases h : m.holds loc = true <;> simp [Image.drop, h]

/-- A byte reads as it was written. -/
theorem homeByte_pokeByte_same (s : State) (loc : Nat) (b : Byte) (h : Memory.wf s.mem = true) :
    homeByte (pokeByte s loc b) loc = b := by
  have : imageAt (pokeByte s loc b) loc = none := by
    unfold imageAt
    split
    · simp only [pokeByte, List.find?_eq_none, List.mem_map]
      rintro _ ⟨m, -, rfl⟩
      simp [Image.holds_drop_same]
    · rfl
  simp only [homeByte, this]
  exact sget_sput_same 0 s.mem loc b h

/-- A write of one byte leaves every other byte. -/
theorem homeByte_pokeByte_other (s : State) (loc a : Nat) (b : Byte) (ha : a ≠ loc) (h : Memory.wf s.mem = true) :
    homeByte (pokeByte s loc b) a = homeByte s a := by
  have : imageAt (pokeByte s loc b) a = (imageAt s a).map fun m => m.drop loc := by
    unfold imageAt
    split
    · simp only [pokeByte, List.find?_map]
      congr 2
      funext m
      exact Image.holds_drop_other m loc a ha
    · rfl
  simp only [homeByte, this]
  cases imageAt s a with
  | none => exact sget_sput_other 0 s.mem loc a b ha h
  | some m => simp only [Option.map_some, (m.drop_keeps loc).1, (m.drop_keeps loc).2]

/-- A write of one byte keeps the canonical form. -/
theorem pokeByte_wf (s : State) (loc : Nat) (b : Byte) (h : Memory.wf s.mem = true) : Memory.wf (pokeByte s loc b).mem = true :=
  sput_wf 0 s.mem loc b h

/-- A write of consecutive bytes keeps the canonical form. -/
theorem pokeBytes_wf (bs : List Byte) (s : State) (loc : Nat) (h : Memory.wf s.mem = true) :
    Memory.wf (pokeBytes s loc bs).mem = true := by
  induction bs generalizing s loc with
  | nil => exact h
  | cons b r ih => exact ih _ _ (pokeByte_wf s loc b h)

/-- A write of a list of bytes keeps the canonical form. -/
theorem pokeList_wf (ws : List (Nat × Byte)) (s : State) (h : Memory.wf s.mem = true) : Memory.wf (pokeList s ws).mem = true := by
  induction ws generalizing s with
  | nil => exact h
  | cons w r ih => exact ih _ (pokeByte_wf s w.1 w.2 h)

/-- A write of consecutive bytes leaves every byte outside them. -/
theorem homeByte_pokeBytes_outside (bs : List Byte) (s : State) (loc a : Nat) (h : Memory.wf s.mem = true)
    (ha : a < loc ∨ loc + bs.length ≤ a) : homeByte (pokeBytes s loc bs) a = homeByte s a := by
  induction bs generalizing s loc with
  | nil => rfl
  | cons b r ih =>
    simp only [List.length_cons] at ha
    rw [pokeBytes, ih _ _ (pokeByte_wf s loc b h) (by omega), homeByte_pokeByte_other s loc a b (by omega) h]

/-- A byte of a run of written bytes reads as it was written. -/
theorem homeByte_pokeBytes_inside (bs : List Byte) (s : State) (loc i : Nat) (h : Memory.wf s.mem = true) (hi : i < bs.length) :
    homeByte (pokeBytes s loc bs) (loc + i) = bs[i] := by
  induction bs generalizing s loc i with
  | nil => exact absurd hi (Nat.not_lt_zero i)
  | cons b r ih =>
    cases i with
    | zero =>
      have := homeByte_pokeBytes_outside r (pokeByte s loc b) (loc + 1) loc (pokeByte_wf s loc b h) (by omega)
      exact this.trans (homeByte_pokeByte_same s loc b h)
    | succ i =>
      have := ih (pokeByte s loc b) (loc + 1) i (pokeByte_wf s loc b h) (Nat.lt_of_succ_lt_succ hi)
      rw [pokeBytes, show loc + (i + 1) = loc + 1 + i by omega, this]
      rfl

/-- A write of bytes changes nothing but memory and the frame images that held them. -/
theorem pokeBytes_frame (bs : List Byte) (s : State) (loc : Nat) :
    pokeBytes s loc bs = { s with mem := (pokeBytes s loc bs).mem, images := (pokeBytes s loc bs).images } := by
  induction bs generalizing s loc with
  | nil => rfl
  | cons b r ih =>
    rw [pokeBytes, ih]
    rfl

/-- A write of a list of bytes changes nothing but memory and the frame images that held them. -/
theorem pokeList_frame (ws : List (Nat × Byte)) (s : State) :
    pokeList s ws = { s with mem := (pokeList s ws).mem, images := (pokeList s ws).images } := by
  induction ws generalizing s with
  | nil => rfl
  | cons w r ih =>
    rw [pokeList, ih]
    rfl

/-- Two states whose memory holds the same bytes. -/
def SameMemory (u s : State) : Prop := u.mem = s.mem ∧ u.images = s.images

theorem SameMemory.rfl {s : State} : SameMemory s s := ⟨Eq.refl _, Eq.refl _⟩

theorem SameMemory.trans {u v s : State} (h : SameMemory u v) (k : SameMemory v s) : SameMemory u s :=
  ⟨h.1.trans k.1, h.2.trans k.2⟩

/-- Every byte reads alike in two states of the same memory. -/
theorem SameMemory.homeByte {u s : State} (h : SameMemory u s) (loc : Nat) : homeByte u loc = homeByte s loc := by
  unfold Machine.homeByte imageAt
  rw [h.1, h.2]

/-- A chain of updates that each leave memory leaves memory. -/
theorem SameMemory.foldl {α : Type} (f : State → α → State) (h : ∀ s a, SameMemory (f s a) s) (l : List α) (s : State) :
    SameMemory (l.foldl f s) s := by
  induction l generalizing s with
  | nil => exact .rfl
  | cons a r ih => exact (ih _).trans (h s a)

theorem onSlice_memory (s : State) (n : Nat) (f : Slice → Slice) : SameMemory (onSlice s n f) s := ⟨Eq.refl _, Eq.refl _⟩

theorem dropReplica_memory (s : State) (die line : Nat) : SameMemory (dropReplica s die line) s := ⟨Eq.refl _, Eq.refl _⟩

theorem evictLine_memory (s : State) (sl line : Nat) : SameMemory (evictLine s sl line) s := by
  unfold evictLine
  dsimp only
  split
  · exact ⟨Eq.refl _, Eq.refl _⟩
  · exact dropReplica_memory _ _ _

theorem cacheLine_memory (s : State) (sl line : Nat) (ins high : Bool) : SameMemory (cacheLine s sl line ins high) s := by
  unfold cacheLine
  split
  · exact .rfl
  · split
    · exact onSlice_memory _ _ _
    · split
      · exact .rfl
      · refine (onSlice_memory _ _ _).trans ?_
        split
        · exact evictLine_memory _ _ _
        · exact .rfl

theorem restamp_memory (s : State) (line : Nat) : SameMemory (restamp s line) s := by
  unfold restamp
  dsimp only
  split <;> exact ⟨Eq.refl _, Eq.refl _⟩

theorem restampLines_memory (sl n : Nat) (s : State) : SameMemory (restampLines sl n s) s := by
  induction n generalizing s with
  | zero => exact .rfl
  | succ n ih =>
    unfold restampLines
    split
    · exact (ih _).trans (restamp_memory _ _)
    · exact .rfl

theorem restampDue_memory (s : State) (sl : Nat) : SameMemory (restampDue s sl) s := restampLines_memory _ _ _

theorem applyUpdate_memory (s : State) (u : Update) : SameMemory (applyUpdate s u) s := ⟨Eq.refl _, Eq.refl _⟩

/-- The acceptance of a write leaves memory as the write left it. -/
theorem acceptLine_memory (s : State) (die line : Nat) (keep : Option Nat) (clock : Option Clock4) (ws : List (Nat × Byte)) :
    SameMemory (acceptLine s die line keep clock ws) s := by
  unfold acceptLine
  dsimp only
  refine (cacheLine_memory _ _ _ _ _).trans ((restampDue_memory _ _).trans ?_)
  split <;> exact ⟨Eq.refl _, Eq.refl _⟩

theorem putStrand_memory (s : State) (g : Nat) (t : Strand) : SameMemory (putStrand s g t) s := by
  unfold putStrand
  split <;> exact ⟨Eq.refl _, Eq.refl _⟩

theorem breakReservations_memory (s : State) (line : Nat) : SameMemory (breakReservations s line) s := by
  refine .foldl _ (fun s g => ?_) _ s
  dsimp only
  split
  · exact putStrand_memory _ _ _
  · exact .rfl

theorem acceptLines_memory (die : Nat) (keep : Option Nat) (ws : List (Nat × Byte)) (ls : List Nat) (s : State) :
    SameMemory (acceptLines die keep ws ls s) s := by
  induction ls generalizing s with
  | nil => exact .rfl
  | cons l r ih =>
    refine (ih _).trans ?_
    split
    · exact (acceptLine_memory _ _ _ _ _ _).trans (breakReservations_memory _ _)
    · exact breakReservations_memory _ _

/-- One write at its home is the writing of its bytes. -/
theorem homeWrite_memory (s : State) (die loc : Nat) (bs : List Byte) (keep : Option Nat) :
    ∃ u : State, SameMemory u s ∧ SameMemory (homeWrite s die loc bs keep) (pokeBytes u loc bs) :=
  ⟨clearErrs (noteHbm s (linesOf loc bs.length)) ((linesOf loc bs.length).filter (coversLine ((List.range bs.length).map fun i => loc + i))), ⟨Eq.refl _, Eq.refl _⟩,
    acceptLines_memory _ _ _ _ _⟩

/-- One write at its home keeps the canonical form. -/
theorem homeWrite_wf (s : State) (die loc : Nat) (bs : List Byte) (keep : Option Nat) (h : Memory.wf s.mem = true) :
    Memory.wf (homeWrite s die loc bs keep).mem = true := by
  obtain ⟨u, hu, e⟩ := homeWrite_memory s die loc bs keep
  rw [e.1]
  exact pokeBytes_wf bs u loc (hu.1 ▸ h)

/-- One write at its home leaves every byte outside it. -/
theorem homeByte_homeWrite_outside (s : State) (die loc a : Nat) (bs : List Byte) (keep : Option Nat) (h : Memory.wf s.mem = true)
    (ha : a < loc ∨ loc + bs.length ≤ a) : homeByte (homeWrite s die loc bs keep) a = homeByte s a := by
  obtain ⟨u, hu, e⟩ := homeWrite_memory s die loc bs keep
  rw [e.homeByte, homeByte_pokeBytes_outside bs u loc a (hu.1 ▸ h) ha, hu.homeByte]

/-- One write at its home gives its bytes. -/
theorem homeByte_homeWrite_inside (s : State) (die loc i : Nat) (bs : List Byte) (keep : Option Nat) (h : Memory.wf s.mem = true)
    (hi : i < bs.length) : homeByte (homeWrite s die loc bs keep) (loc + i) = bs[i] := by
  obtain ⟨u, hu, e⟩ := homeWrite_memory s die loc bs keep
  rw [e.homeByte, homeByte_pokeBytes_inside bs u loc i (hu.1 ▸ h) hi]

/-- The writes of one store or scatter keep the canonical form. -/
theorem homeScatter_wf (s : State) (die : Nat) (ws : List (Nat × Byte)) (h : Memory.wf s.mem = true) :
    Memory.wf (homeScatter s die ws).mem = true := by
  unfold homeScatter
  dsimp only
  rw [(acceptLines_memory _ _ _ _ _).1]
  exact pokeList_wf ws _ h

theorem drainUpdates_memory (s : State) (f : Nat) : SameMemory (drainUpdates s f) s :=
  (SameMemory.foldl _ applyUpdate_memory _ _).trans ⟨Eq.refl _, Eq.refl _⟩

theorem awaitFrontier_memory (q : Clock4) (f : Nat) (es : List Nat) (s : State) : SameMemory (awaitFrontier q f es s) s := by
  induction es generalizing s with
  | nil => exact .rfl
  | cons e r ih =>
    refine (ih _).trans ?_
    split
    · refine (drainUpdates_memory _ _).trans ?_
      split <;> exact ⟨Eq.refl _, Eq.refl _⟩
    · exact .rfl

/-- An acquire touches no memory. -/
theorem acquireWith_memory (s : State) (c : Clock4) : SameMemory (acquireWith s c) s :=
  (awaitFrontier_memory _ _ _ _).trans ⟨Eq.refl _, Eq.refl _⟩

theorem spread_memory (s : State) (die : Nat) : SameMemory (spread s die) s := by
  refine .foldl _ (fun s f => ?_) _ s
  split
  · exact drainUpdates_memory _ _
  · exact .rfl

theorem catchUp_memory (s : State) (die : Nat) (lines : List Nat) : SameMemory (catchUp s die lines) s := by
  unfold catchUp
  split
  · exact drainUpdates_memory _ _
  · exact .rfl

/-- A fence touches no memory. -/
theorem fenceAt_memory (s : State) (scope : Nat) : SameMemory (fenceAt s scope) s := by
  have h : SameMemory (acquire (release s)) s := (acquireWith_memory _ _).trans ⟨Eq.refl _, Eq.refl _⟩
  unfold fenceAt
  dsimp only
  by_cases h3 : 3 ≤ scope <;> by_cases h4 : 4 ≤ scope <;> simp only [h3, h4, if_true, if_false]
  · exact (spread_memory _ _).trans h
  · exact h
  · exact spread_memory _ _
  · exact .rfl

/-- A `vm.fence` touches no memory. -/
theorem performFence_memory (s : State) (scope : Nat) : SameMemory (performFence s scope) s :=
  (fenceAt_memory _ _).trans ⟨Eq.refl _, Eq.refl _⟩

end Sys2Proof.Machine
end

