-- ==== Sys2Proof/Laws/State.lean ====
section
/-! SUPPORT. What each update of the state leaves: one lemma for each field that it does not write, and what it writes. -/

namespace Sys2Proof.Machine

variable (s : State)

/-! `setX` -/

@[simp] theorem setX_gid (r : Reg) (w : Word) : (setX s r w).gid = s.gid := by unfold setX; split <;> rfl
@[simp] theorem setX_peers (r : Reg) (w : Word) : (setX s r w).peers = s.peers := by unfold setX; split <;> rfl
@[simp] theorem setX_mem (r : Reg) (w : Word) : (setX s r w).mem = s.mem := by unfold setX; split <;> rfl
@[simp] theorem setX_hbm (r : Reg) (w : Word) : (setX s r w).hbm = s.hbm := by unfold setX; split <;> rfl
@[simp] theorem setX_errs (r : Reg) (w : Word) : (setX s r w).errs = s.errs := by unfold setX; split <;> rfl
@[simp] theorem setX_map (r : Reg) (w : Word) : (setX s r w).map = s.map := by unfold setX; split <;> rfl
@[simp] theorem setX_basket (r : Reg) (w : Word) : (setX s r w).basket = s.basket := by unfold setX; split <;> rfl
@[simp] theorem setX_ctxTable (r : Reg) (w : Word) : (setX s r w).ctxTable = s.ctxTable := by unfold setX; split <;> rfl
@[simp] theorem setX_bonded (r : Reg) (w : Word) : (setX s r w).bonded = s.bonded := by unfold setX; split <;> rfl
@[simp] theorem setX_arena (r : Reg) (w : Word) : (setX s r w).arena = s.arena := by unfold setX; split <;> rfl
@[simp] theorem setX_tlbva (r : Reg) (w : Word) : (setX s r w).tlbva = s.tlbva := by unfold setX; split <;> rfl
@[simp] theorem setX_tlbctl (r : Reg) (w : Word) : (setX s r w).tlbctl = s.tlbctl := by unfold setX; split <;> rfl
@[simp] theorem setX_tlbGo (r : Reg) (w : Word) : (setX s r w).tlbGo = s.tlbGo := by unfold setX; split <;> rfl
@[simp] theorem setX_slices (r : Reg) (w : Word) : (setX s r w).slices = s.slices := by unfold setX; split <;> rfl
@[simp] theorem setX_lines (r : Reg) (w : Word) : (setX s r w).lines = s.lines := by unfold setX; split <;> rfl
@[simp] theorem setX_replicas (r : Reg) (w : Word) : (setX s r w).replicas = s.replicas := by unfold setX; split <;> rfl
@[simp] theorem setX_updates (r : Reg) (w : Word) : (setX s r w).updates = s.updates := by unfold setX; split <;> rfl
@[simp] theorem setX_clocks (r : Reg) (w : Word) : (setX s r w).clocks = s.clocks := by unfold setX; split <;> rfl
@[simp] theorem setX_openEpochs (r : Reg) (w : Word) : (setX s r w).openEpochs = s.openEpochs := by unfold setX; split <;> rfl
@[simp] theorem setX_l1 (r : Reg) (w : Word) : (setX s r w).l1 = s.l1 := by unfold setX; split <;> rfl
@[simp] theorem setX_invals (r : Reg) (w : Word) : (setX s r w).invals = s.invals := by unfold setX; split <;> rfl
@[simp] theorem setX_waits (r : Reg) (w : Word) : (setX s r w).waits = s.waits := by unfold setX; split <;> rfl
@[simp] theorem setX_icache (r : Reg) (w : Word) : (setX s r w).icache = s.icache := by unfold setX; split <;> rfl
@[simp] theorem setX_robuf (r : Reg) (w : Word) : (setX s r w).robuf = s.robuf := by unfold setX; split <;> rfl
@[simp] theorem setX_tlbs (r : Reg) (w : Word) : (setX s r w).tlbs = s.tlbs := by unfold setX; split <;> rfl
@[simp] theorem setX_scTicket (r : Reg) (w : Word) : (setX s r w).scTicket = s.scTicket := by unfold setX; split <;> rfl
@[simp] theorem setX_scOut (r : Reg) (w : Word) : (setX s r w).scOut = s.scOut := by unfold setX; split <;> rfl
@[simp] theorem setX_wire (r : Reg) (w : Word) : (setX s r w).wire = s.wire := by unfold setX; split <;> rfl
@[simp] theorem setX_records (r : Reg) (w : Word) : (setX s r w).records = s.records := by unfold setX; split <;> rfl
@[simp] theorem setX_copies (r : Reg) (w : Word) : (setX s r w).copies = s.copies := by unfold setX; split <;> rfl
@[simp] theorem setX_blocks (r : Reg) (w : Word) : (setX s r w).blocks = s.blocks := by unfold setX; split <;> rfl
@[simp] theorem setX_frames (r : Reg) (w : Word) : (setX s r w).frames = s.frames := by unfold setX; split <;> rfl
@[simp] theorem setX_scalarFrames (r : Reg) (w : Word) : (setX s r w).scalarFrames = s.scalarFrames := by unfold setX; split <;> rfl
@[simp] theorem setX_images (r : Reg) (w : Word) : (setX s r w).images = s.images := by unfold setX; split <;> rfl
@[simp] theorem setX_suspended (r : Reg) (w : Word) : (setX s r w).suspended = s.suspended := by unfold setX; split <;> rfl
@[simp] theorem setX_launches (r : Reg) (w : Word) : (setX s r w).launches = s.launches := by unfold setX; split <;> rfl
@[simp] theorem setX_nodeGen (r : Reg) (w : Word) : (setX s r w).nodeGen = s.nodeGen := by unfold setX; split <;> rfl
@[simp] theorem setX_nextKey (r : Reg) (w : Word) : (setX s r w).nextKey = s.nextKey := by unfold setX; split <;> rfl
@[simp] theorem setX_nextOrder (r : Reg) (w : Word) : (setX s r w).nextOrder = s.nextOrder := by unfold setX; split <;> rfl
@[simp] theorem setX_results (r : Reg) (w : Word) : (setX s r w).results = s.results := by unfold setX; split <;> rfl
@[simp] theorem setX_ctxUsed (r : Reg) (w : Word) : (setX s r w).ctxUsed = s.ctxUsed := by unfold setX; split <;> rfl
@[simp] theorem setX_queues (r : Reg) (w : Word) : (setX s r w).queues = s.queues := by unfold setX; split <;> rfl
@[simp] theorem setX_msix (r : Reg) (w : Word) : (setX s r w).msix = s.msix := by unfold setX; split <;> rfl
@[simp] theorem setX_hostReplies (r : Reg) (w : Word) : (setX s r w).hostReplies = s.hostReplies := by unfold setX; split <;> rfl
@[simp] theorem setX_posted (r : Reg) (w : Word) : (setX s r w).posted = s.posted := by unfold setX; split <;> rfl
@[simp] theorem setX_postNext (r : Reg) (w : Word) : (setX s r w).postNext = s.postNext := by unfold setX; split <;> rfl
@[simp] theorem setX_timedOut (r : Reg) (w : Word) : (setX s r w).timedOut = s.timedOut := by unfold setX; split <;> rfl
@[simp] theorem setX_incoming (r : Reg) (w : Word) : (setX s r w).incoming = s.incoming := by unfold setX; split <;> rfl
@[simp] theorem setX_aer (r : Reg) (w : Word) : (setX s r w).aer = s.aer := by unfold setX; split <;> rfl
@[simp] theorem setX_handle (r : Reg) (w : Word) : (setX s r w).handle = s.handle := by unfold setX; split <;> rfl
@[simp] theorem setX_ports (r : Reg) (w : Word) : (setX s r w).ports = s.ports := by unfold setX; split <;> rfl
@[simp] theorem setX_routers (r : Reg) (w : Word) : (setX s r w).routers = s.routers := by unfold setX; split <;> rfl
@[simp] theorem setX_transit (r : Reg) (w : Word) : (setX s r w).transit = s.transit := by unfold setX; split <;> rfl
@[simp] theorem setX_planes (r : Reg) (w : Word) : (setX s r w).planes = s.planes := by unfold setX; split <;> rfl
@[simp] theorem setX_rims (r : Reg) (w : Word) : (setX s r w).rims = s.rims := by unfold setX; split <;> rfl
@[simp] theorem setX_gated (r : Reg) (w : Word) : (setX s r w).gated = s.gated := by unfold setX; split <;> rfl
@[simp] theorem setX_issues (r : Reg) (w : Word) : (setX s r w).issues = s.issues := by unfold setX; split <;> rfl
@[simp] theorem setX_decided (r : Reg) (w : Word) : (setX s r w).decided = s.decided := by unfold setX; split <;> rfl
@[simp] theorem setX_issuedNow (r : Reg) (w : Word) : (setX s r w).issuedNow = s.issuedNow := by unfold setX; split <;> rfl
@[simp] theorem setX_d3hot (r : Reg) (w : Word) : (setX s r w).d3hot = s.d3hot := by unfold setX; split <;> rfl
@[simp] theorem setX_time (r : Reg) (w : Word) : (setX s r w).time = s.time := by unfold setX; split <;> rfl
@[simp] theorem setX_clock (r : Reg) (w : Word) : (setX s r w).clock = s.clock := by unfold setX; split <;> rfl
@[simp] theorem setX_weave (r : Reg) (w : Word) : (setX s r w).weave = s.weave := by unfold setX; split <;> rfl
@[simp] theorem setX_timePace (r : Reg) (w : Word) : (setX s r w).timePace = s.timePace := by unfold setX; split <;> rfl
@[simp] theorem setX_free (r : Reg) (w : Word) : (setX s r w).free = s.free := by unfold setX; split <;> rfl
@[simp] theorem setX_stalled (r : Reg) (w : Word) : (setX s r w).stalled = s.stalled := by unfold setX; split <;> rfl
@[simp] theorem setX_inp (r : Reg) (w : Word) : (setX s r w).inp = s.inp := by unfold setX; split <;> rfl
@[simp] theorem setX_agenda (r : Reg) (w : Word) : (setX s r w).agenda = s.agenda := by unfold setX; split <;> rfl

/-! `setV` -/

@[simp] theorem setV_gid (n : Nat) (r : VReg) : (setV s n r).gid = s.gid := rfl
@[simp] theorem setV_peers (n : Nat) (r : VReg) : (setV s n r).peers = s.peers := rfl
@[simp] theorem setV_mem (n : Nat) (r : VReg) : (setV s n r).mem = s.mem := rfl
@[simp] theorem setV_hbm (n : Nat) (r : VReg) : (setV s n r).hbm = s.hbm := rfl
@[simp] theorem setV_errs (n : Nat) (r : VReg) : (setV s n r).errs = s.errs := rfl
@[simp] theorem setV_map (n : Nat) (r : VReg) : (setV s n r).map = s.map := rfl
@[simp] theorem setV_basket (n : Nat) (r : VReg) : (setV s n r).basket = s.basket := rfl
@[simp] theorem setV_ctxTable (n : Nat) (r : VReg) : (setV s n r).ctxTable = s.ctxTable := rfl
@[simp] theorem setV_bonded (n : Nat) (r : VReg) : (setV s n r).bonded = s.bonded := rfl
@[simp] theorem setV_arena (n : Nat) (r : VReg) : (setV s n r).arena = s.arena := rfl
@[simp] theorem setV_tlbva (n : Nat) (r : VReg) : (setV s n r).tlbva = s.tlbva := rfl
@[simp] theorem setV_tlbctl (n : Nat) (r : VReg) : (setV s n r).tlbctl = s.tlbctl := rfl
@[simp] theorem setV_tlbGo (n : Nat) (r : VReg) : (setV s n r).tlbGo = s.tlbGo := rfl
@[simp] theorem setV_slices (n : Nat) (r : VReg) : (setV s n r).slices = s.slices := rfl
@[simp] theorem setV_lines (n : Nat) (r : VReg) : (setV s n r).lines = s.lines := rfl
@[simp] theorem setV_replicas (n : Nat) (r : VReg) : (setV s n r).replicas = s.replicas := rfl
@[simp] theorem setV_updates (n : Nat) (r : VReg) : (setV s n r).updates = s.updates := rfl
@[simp] theorem setV_clocks (n : Nat) (r : VReg) : (setV s n r).clocks = s.clocks := rfl
@[simp] theorem setV_openEpochs (n : Nat) (r : VReg) : (setV s n r).openEpochs = s.openEpochs := rfl
@[simp] theorem setV_l1 (n : Nat) (r : VReg) : (setV s n r).l1 = s.l1 := rfl
@[simp] theorem setV_invals (n : Nat) (r : VReg) : (setV s n r).invals = s.invals := rfl
@[simp] theorem setV_waits (n : Nat) (r : VReg) : (setV s n r).waits = s.waits := rfl
@[simp] theorem setV_icache (n : Nat) (r : VReg) : (setV s n r).icache = s.icache := rfl
@[simp] theorem setV_robuf (n : Nat) (r : VReg) : (setV s n r).robuf = s.robuf := rfl
@[simp] theorem setV_tlbs (n : Nat) (r : VReg) : (setV s n r).tlbs = s.tlbs := rfl
@[simp] theorem setV_scTicket (n : Nat) (r : VReg) : (setV s n r).scTicket = s.scTicket := rfl
@[simp] theorem setV_scOut (n : Nat) (r : VReg) : (setV s n r).scOut = s.scOut := rfl
@[simp] theorem setV_wire (n : Nat) (r : VReg) : (setV s n r).wire = s.wire := rfl
@[simp] theorem setV_records (n : Nat) (r : VReg) : (setV s n r).records = s.records := rfl
@[simp] theorem setV_copies (n : Nat) (r : VReg) : (setV s n r).copies = s.copies := rfl
@[simp] theorem setV_blocks (n : Nat) (r : VReg) : (setV s n r).blocks = s.blocks := rfl
@[simp] theorem setV_frames (n : Nat) (r : VReg) : (setV s n r).frames = s.frames := rfl
@[simp] theorem setV_scalarFrames (n : Nat) (r : VReg) : (setV s n r).scalarFrames = s.scalarFrames := rfl
@[simp] theorem setV_images (n : Nat) (r : VReg) : (setV s n r).images = s.images := rfl
@[simp] theorem setV_suspended (n : Nat) (r : VReg) : (setV s n r).suspended = s.suspended := rfl
@[simp] theorem setV_launches (n : Nat) (r : VReg) : (setV s n r).launches = s.launches := rfl
@[simp] theorem setV_nodeGen (n : Nat) (r : VReg) : (setV s n r).nodeGen = s.nodeGen := rfl
@[simp] theorem setV_nextKey (n : Nat) (r : VReg) : (setV s n r).nextKey = s.nextKey := rfl
@[simp] theorem setV_nextOrder (n : Nat) (r : VReg) : (setV s n r).nextOrder = s.nextOrder := rfl
@[simp] theorem setV_results (n : Nat) (r : VReg) : (setV s n r).results = s.results := rfl
@[simp] theorem setV_ctxUsed (n : Nat) (r : VReg) : (setV s n r).ctxUsed = s.ctxUsed := rfl
@[simp] theorem setV_queues (n : Nat) (r : VReg) : (setV s n r).queues = s.queues := rfl
@[simp] theorem setV_msix (n : Nat) (r : VReg) : (setV s n r).msix = s.msix := rfl
@[simp] theorem setV_hostReplies (n : Nat) (r : VReg) : (setV s n r).hostReplies = s.hostReplies := rfl
@[simp] theorem setV_posted (n : Nat) (r : VReg) : (setV s n r).posted = s.posted := rfl
@[simp] theorem setV_postNext (n : Nat) (r : VReg) : (setV s n r).postNext = s.postNext := rfl
@[simp] theorem setV_timedOut (n : Nat) (r : VReg) : (setV s n r).timedOut = s.timedOut := rfl
@[simp] theorem setV_incoming (n : Nat) (r : VReg) : (setV s n r).incoming = s.incoming := rfl
@[simp] theorem setV_aer (n : Nat) (r : VReg) : (setV s n r).aer = s.aer := rfl
@[simp] theorem setV_handle (n : Nat) (r : VReg) : (setV s n r).handle = s.handle := rfl
@[simp] theorem setV_ports (n : Nat) (r : VReg) : (setV s n r).ports = s.ports := rfl
@[simp] theorem setV_routers (n : Nat) (r : VReg) : (setV s n r).routers = s.routers := rfl
@[simp] theorem setV_transit (n : Nat) (r : VReg) : (setV s n r).transit = s.transit := rfl
@[simp] theorem setV_planes (n : Nat) (r : VReg) : (setV s n r).planes = s.planes := rfl
@[simp] theorem setV_rims (n : Nat) (r : VReg) : (setV s n r).rims = s.rims := rfl
@[simp] theorem setV_gated (n : Nat) (r : VReg) : (setV s n r).gated = s.gated := rfl
@[simp] theorem setV_issues (n : Nat) (r : VReg) : (setV s n r).issues = s.issues := rfl
@[simp] theorem setV_decided (n : Nat) (r : VReg) : (setV s n r).decided = s.decided := rfl
@[simp] theorem setV_issuedNow (n : Nat) (r : VReg) : (setV s n r).issuedNow = s.issuedNow := rfl
@[simp] theorem setV_d3hot (n : Nat) (r : VReg) : (setV s n r).d3hot = s.d3hot := rfl
@[simp] theorem setV_time (n : Nat) (r : VReg) : (setV s n r).time = s.time := rfl
@[simp] theorem setV_clock (n : Nat) (r : VReg) : (setV s n r).clock = s.clock := rfl
@[simp] theorem setV_weave (n : Nat) (r : VReg) : (setV s n r).weave = s.weave := rfl
@[simp] theorem setV_timePace (n : Nat) (r : VReg) : (setV s n r).timePace = s.timePace := rfl
@[simp] theorem setV_free (n : Nat) (r : VReg) : (setV s n r).free = s.free := rfl
@[simp] theorem setV_stalled (n : Nat) (r : VReg) : (setV s n r).stalled = s.stalled := rfl
@[simp] theorem setV_inp (n : Nat) (r : VReg) : (setV s n r).inp = s.inp := rfl
@[simp] theorem setV_agenda (n : Nat) (r : VReg) : (setV s n r).agenda = s.agenda := rfl

/-! `setK` -/

@[simp] theorem setK_gid (n : KReg) (b : KBits) : (setK s n b).gid = s.gid := by unfold setK; split <;> rfl
@[simp] theorem setK_peers (n : KReg) (b : KBits) : (setK s n b).peers = s.peers := by unfold setK; split <;> rfl
@[simp] theorem setK_mem (n : KReg) (b : KBits) : (setK s n b).mem = s.mem := by unfold setK; split <;> rfl
@[simp] theorem setK_hbm (n : KReg) (b : KBits) : (setK s n b).hbm = s.hbm := by unfold setK; split <;> rfl
@[simp] theorem setK_errs (n : KReg) (b : KBits) : (setK s n b).errs = s.errs := by unfold setK; split <;> rfl
@[simp] theorem setK_map (n : KReg) (b : KBits) : (setK s n b).map = s.map := by unfold setK; split <;> rfl
@[simp] theorem setK_basket (n : KReg) (b : KBits) : (setK s n b).basket = s.basket := by unfold setK; split <;> rfl
@[simp] theorem setK_ctxTable (n : KReg) (b : KBits) : (setK s n b).ctxTable = s.ctxTable := by unfold setK; split <;> rfl
@[simp] theorem setK_bonded (n : KReg) (b : KBits) : (setK s n b).bonded = s.bonded := by unfold setK; split <;> rfl
@[simp] theorem setK_arena (n : KReg) (b : KBits) : (setK s n b).arena = s.arena := by unfold setK; split <;> rfl
@[simp] theorem setK_tlbva (n : KReg) (b : KBits) : (setK s n b).tlbva = s.tlbva := by unfold setK; split <;> rfl
@[simp] theorem setK_tlbctl (n : KReg) (b : KBits) : (setK s n b).tlbctl = s.tlbctl := by unfold setK; split <;> rfl
@[simp] theorem setK_tlbGo (n : KReg) (b : KBits) : (setK s n b).tlbGo = s.tlbGo := by unfold setK; split <;> rfl
@[simp] theorem setK_slices (n : KReg) (b : KBits) : (setK s n b).slices = s.slices := by unfold setK; split <;> rfl
@[simp] theorem setK_lines (n : KReg) (b : KBits) : (setK s n b).lines = s.lines := by unfold setK; split <;> rfl
@[simp] theorem setK_replicas (n : KReg) (b : KBits) : (setK s n b).replicas = s.replicas := by unfold setK; split <;> rfl
@[simp] theorem setK_updates (n : KReg) (b : KBits) : (setK s n b).updates = s.updates := by unfold setK; split <;> rfl
@[simp] theorem setK_clocks (n : KReg) (b : KBits) : (setK s n b).clocks = s.clocks := by unfold setK; split <;> rfl
@[simp] theorem setK_openEpochs (n : KReg) (b : KBits) : (setK s n b).openEpochs = s.openEpochs := by unfold setK; split <;> rfl
@[simp] theorem setK_l1 (n : KReg) (b : KBits) : (setK s n b).l1 = s.l1 := by unfold setK; split <;> rfl
@[simp] theorem setK_invals (n : KReg) (b : KBits) : (setK s n b).invals = s.invals := by unfold setK; split <;> rfl
@[simp] theorem setK_waits (n : KReg) (b : KBits) : (setK s n b).waits = s.waits := by unfold setK; split <;> rfl
@[simp] theorem setK_icache (n : KReg) (b : KBits) : (setK s n b).icache = s.icache := by unfold setK; split <;> rfl
@[simp] theorem setK_robuf (n : KReg) (b : KBits) : (setK s n b).robuf = s.robuf := by unfold setK; split <;> rfl
@[simp] theorem setK_tlbs (n : KReg) (b : KBits) : (setK s n b).tlbs = s.tlbs := by unfold setK; split <;> rfl
@[simp] theorem setK_scTicket (n : KReg) (b : KBits) : (setK s n b).scTicket = s.scTicket := by unfold setK; split <;> rfl
@[simp] theorem setK_scOut (n : KReg) (b : KBits) : (setK s n b).scOut = s.scOut := by unfold setK; split <;> rfl
@[simp] theorem setK_wire (n : KReg) (b : KBits) : (setK s n b).wire = s.wire := by unfold setK; split <;> rfl
@[simp] theorem setK_records (n : KReg) (b : KBits) : (setK s n b).records = s.records := by unfold setK; split <;> rfl
@[simp] theorem setK_copies (n : KReg) (b : KBits) : (setK s n b).copies = s.copies := by unfold setK; split <;> rfl
@[simp] theorem setK_blocks (n : KReg) (b : KBits) : (setK s n b).blocks = s.blocks := by unfold setK; split <;> rfl
@[simp] theorem setK_frames (n : KReg) (b : KBits) : (setK s n b).frames = s.frames := by unfold setK; split <;> rfl
@[simp] theorem setK_scalarFrames (n : KReg) (b : KBits) : (setK s n b).scalarFrames = s.scalarFrames := by unfold setK; split <;> rfl
@[simp] theorem setK_images (n : KReg) (b : KBits) : (setK s n b).images = s.images := by unfold setK; split <;> rfl
@[simp] theorem setK_suspended (n : KReg) (b : KBits) : (setK s n b).suspended = s.suspended := by unfold setK; split <;> rfl
@[simp] theorem setK_launches (n : KReg) (b : KBits) : (setK s n b).launches = s.launches := by unfold setK; split <;> rfl
@[simp] theorem setK_nodeGen (n : KReg) (b : KBits) : (setK s n b).nodeGen = s.nodeGen := by unfold setK; split <;> rfl
@[simp] theorem setK_nextKey (n : KReg) (b : KBits) : (setK s n b).nextKey = s.nextKey := by unfold setK; split <;> rfl
@[simp] theorem setK_nextOrder (n : KReg) (b : KBits) : (setK s n b).nextOrder = s.nextOrder := by unfold setK; split <;> rfl
@[simp] theorem setK_results (n : KReg) (b : KBits) : (setK s n b).results = s.results := by unfold setK; split <;> rfl
@[simp] theorem setK_ctxUsed (n : KReg) (b : KBits) : (setK s n b).ctxUsed = s.ctxUsed := by unfold setK; split <;> rfl
@[simp] theorem setK_queues (n : KReg) (b : KBits) : (setK s n b).queues = s.queues := by unfold setK; split <;> rfl
@[simp] theorem setK_msix (n : KReg) (b : KBits) : (setK s n b).msix = s.msix := by unfold setK; split <;> rfl
@[simp] theorem setK_hostReplies (n : KReg) (b : KBits) : (setK s n b).hostReplies = s.hostReplies := by unfold setK; split <;> rfl
@[simp] theorem setK_posted (n : KReg) (b : KBits) : (setK s n b).posted = s.posted := by unfold setK; split <;> rfl
@[simp] theorem setK_postNext (n : KReg) (b : KBits) : (setK s n b).postNext = s.postNext := by unfold setK; split <;> rfl
@[simp] theorem setK_timedOut (n : KReg) (b : KBits) : (setK s n b).timedOut = s.timedOut := by unfold setK; split <;> rfl
@[simp] theorem setK_incoming (n : KReg) (b : KBits) : (setK s n b).incoming = s.incoming := by unfold setK; split <;> rfl
@[simp] theorem setK_aer (n : KReg) (b : KBits) : (setK s n b).aer = s.aer := by unfold setK; split <;> rfl
@[simp] theorem setK_handle (n : KReg) (b : KBits) : (setK s n b).handle = s.handle := by unfold setK; split <;> rfl
@[simp] theorem setK_ports (n : KReg) (b : KBits) : (setK s n b).ports = s.ports := by unfold setK; split <;> rfl
@[simp] theorem setK_routers (n : KReg) (b : KBits) : (setK s n b).routers = s.routers := by unfold setK; split <;> rfl
@[simp] theorem setK_transit (n : KReg) (b : KBits) : (setK s n b).transit = s.transit := by unfold setK; split <;> rfl
@[simp] theorem setK_planes (n : KReg) (b : KBits) : (setK s n b).planes = s.planes := by unfold setK; split <;> rfl
@[simp] theorem setK_rims (n : KReg) (b : KBits) : (setK s n b).rims = s.rims := by unfold setK; split <;> rfl
@[simp] theorem setK_gated (n : KReg) (b : KBits) : (setK s n b).gated = s.gated := by unfold setK; split <;> rfl
@[simp] theorem setK_issues (n : KReg) (b : KBits) : (setK s n b).issues = s.issues := by unfold setK; split <;> rfl
@[simp] theorem setK_decided (n : KReg) (b : KBits) : (setK s n b).decided = s.decided := by unfold setK; split <;> rfl
@[simp] theorem setK_issuedNow (n : KReg) (b : KBits) : (setK s n b).issuedNow = s.issuedNow := by unfold setK; split <;> rfl
@[simp] theorem setK_d3hot (n : KReg) (b : KBits) : (setK s n b).d3hot = s.d3hot := by unfold setK; split <;> rfl
@[simp] theorem setK_time (n : KReg) (b : KBits) : (setK s n b).time = s.time := by unfold setK; split <;> rfl
@[simp] theorem setK_clock (n : KReg) (b : KBits) : (setK s n b).clock = s.clock := by unfold setK; split <;> rfl
@[simp] theorem setK_weave (n : KReg) (b : KBits) : (setK s n b).weave = s.weave := by unfold setK; split <;> rfl
@[simp] theorem setK_timePace (n : KReg) (b : KBits) : (setK s n b).timePace = s.timePace := by unfold setK; split <;> rfl
@[simp] theorem setK_free (n : KReg) (b : KBits) : (setK s n b).free = s.free := by unfold setK; split <;> rfl
@[simp] theorem setK_stalled (n : KReg) (b : KBits) : (setK s n b).stalled = s.stalled := by unfold setK; split <;> rfl
@[simp] theorem setK_inp (n : KReg) (b : KBits) : (setK s n b).inp = s.inp := by unfold setK; split <;> rfl
@[simp] theorem setK_agenda (n : KReg) (b : KBits) : (setK s n b).agenda = s.agenda := by unfold setK; split <;> rfl

/-! `orFlags` -/

@[simp] theorem orFlags_gid (f : Flags) : (orFlags s f).gid = s.gid := rfl
@[simp] theorem orFlags_peers (f : Flags) : (orFlags s f).peers = s.peers := rfl
@[simp] theorem orFlags_mem (f : Flags) : (orFlags s f).mem = s.mem := rfl
@[simp] theorem orFlags_hbm (f : Flags) : (orFlags s f).hbm = s.hbm := rfl
@[simp] theorem orFlags_errs (f : Flags) : (orFlags s f).errs = s.errs := rfl
@[simp] theorem orFlags_map (f : Flags) : (orFlags s f).map = s.map := rfl
@[simp] theorem orFlags_basket (f : Flags) : (orFlags s f).basket = s.basket := rfl
@[simp] theorem orFlags_ctxTable (f : Flags) : (orFlags s f).ctxTable = s.ctxTable := rfl
@[simp] theorem orFlags_bonded (f : Flags) : (orFlags s f).bonded = s.bonded := rfl
@[simp] theorem orFlags_arena (f : Flags) : (orFlags s f).arena = s.arena := rfl
@[simp] theorem orFlags_tlbva (f : Flags) : (orFlags s f).tlbva = s.tlbva := rfl
@[simp] theorem orFlags_tlbctl (f : Flags) : (orFlags s f).tlbctl = s.tlbctl := rfl
@[simp] theorem orFlags_tlbGo (f : Flags) : (orFlags s f).tlbGo = s.tlbGo := rfl
@[simp] theorem orFlags_slices (f : Flags) : (orFlags s f).slices = s.slices := rfl
@[simp] theorem orFlags_lines (f : Flags) : (orFlags s f).lines = s.lines := rfl
@[simp] theorem orFlags_replicas (f : Flags) : (orFlags s f).replicas = s.replicas := rfl
@[simp] theorem orFlags_updates (f : Flags) : (orFlags s f).updates = s.updates := rfl
@[simp] theorem orFlags_clocks (f : Flags) : (orFlags s f).clocks = s.clocks := rfl
@[simp] theorem orFlags_openEpochs (f : Flags) : (orFlags s f).openEpochs = s.openEpochs := rfl
@[simp] theorem orFlags_l1 (f : Flags) : (orFlags s f).l1 = s.l1 := rfl
@[simp] theorem orFlags_invals (f : Flags) : (orFlags s f).invals = s.invals := rfl
@[simp] theorem orFlags_waits (f : Flags) : (orFlags s f).waits = s.waits := rfl
@[simp] theorem orFlags_icache (f : Flags) : (orFlags s f).icache = s.icache := rfl
@[simp] theorem orFlags_robuf (f : Flags) : (orFlags s f).robuf = s.robuf := rfl
@[simp] theorem orFlags_tlbs (f : Flags) : (orFlags s f).tlbs = s.tlbs := rfl
@[simp] theorem orFlags_scTicket (f : Flags) : (orFlags s f).scTicket = s.scTicket := rfl
@[simp] theorem orFlags_scOut (f : Flags) : (orFlags s f).scOut = s.scOut := rfl
@[simp] theorem orFlags_wire (f : Flags) : (orFlags s f).wire = s.wire := rfl
@[simp] theorem orFlags_records (f : Flags) : (orFlags s f).records = s.records := rfl
@[simp] theorem orFlags_copies (f : Flags) : (orFlags s f).copies = s.copies := rfl
@[simp] theorem orFlags_blocks (f : Flags) : (orFlags s f).blocks = s.blocks := rfl
@[simp] theorem orFlags_frames (f : Flags) : (orFlags s f).frames = s.frames := rfl
@[simp] theorem orFlags_scalarFrames (f : Flags) : (orFlags s f).scalarFrames = s.scalarFrames := rfl
@[simp] theorem orFlags_images (f : Flags) : (orFlags s f).images = s.images := rfl
@[simp] theorem orFlags_suspended (f : Flags) : (orFlags s f).suspended = s.suspended := rfl
@[simp] theorem orFlags_launches (f : Flags) : (orFlags s f).launches = s.launches := rfl
@[simp] theorem orFlags_nodeGen (f : Flags) : (orFlags s f).nodeGen = s.nodeGen := rfl
@[simp] theorem orFlags_nextKey (f : Flags) : (orFlags s f).nextKey = s.nextKey := rfl
@[simp] theorem orFlags_nextOrder (f : Flags) : (orFlags s f).nextOrder = s.nextOrder := rfl
@[simp] theorem orFlags_results (f : Flags) : (orFlags s f).results = s.results := rfl
@[simp] theorem orFlags_ctxUsed (f : Flags) : (orFlags s f).ctxUsed = s.ctxUsed := rfl
@[simp] theorem orFlags_queues (f : Flags) : (orFlags s f).queues = s.queues := rfl
@[simp] theorem orFlags_msix (f : Flags) : (orFlags s f).msix = s.msix := rfl
@[simp] theorem orFlags_hostReplies (f : Flags) : (orFlags s f).hostReplies = s.hostReplies := rfl
@[simp] theorem orFlags_posted (f : Flags) : (orFlags s f).posted = s.posted := rfl
@[simp] theorem orFlags_postNext (f : Flags) : (orFlags s f).postNext = s.postNext := rfl
@[simp] theorem orFlags_timedOut (f : Flags) : (orFlags s f).timedOut = s.timedOut := rfl
@[simp] theorem orFlags_incoming (f : Flags) : (orFlags s f).incoming = s.incoming := rfl
@[simp] theorem orFlags_aer (f : Flags) : (orFlags s f).aer = s.aer := rfl
@[simp] theorem orFlags_handle (f : Flags) : (orFlags s f).handle = s.handle := rfl
@[simp] theorem orFlags_ports (f : Flags) : (orFlags s f).ports = s.ports := rfl
@[simp] theorem orFlags_routers (f : Flags) : (orFlags s f).routers = s.routers := rfl
@[simp] theorem orFlags_transit (f : Flags) : (orFlags s f).transit = s.transit := rfl
@[simp] theorem orFlags_planes (f : Flags) : (orFlags s f).planes = s.planes := rfl
@[simp] theorem orFlags_rims (f : Flags) : (orFlags s f).rims = s.rims := rfl
@[simp] theorem orFlags_gated (f : Flags) : (orFlags s f).gated = s.gated := rfl
@[simp] theorem orFlags_issues (f : Flags) : (orFlags s f).issues = s.issues := rfl
@[simp] theorem orFlags_decided (f : Flags) : (orFlags s f).decided = s.decided := rfl
@[simp] theorem orFlags_issuedNow (f : Flags) : (orFlags s f).issuedNow = s.issuedNow := rfl
@[simp] theorem orFlags_d3hot (f : Flags) : (orFlags s f).d3hot = s.d3hot := rfl
@[simp] theorem orFlags_time (f : Flags) : (orFlags s f).time = s.time := rfl
@[simp] theorem orFlags_clock (f : Flags) : (orFlags s f).clock = s.clock := rfl
@[simp] theorem orFlags_weave (f : Flags) : (orFlags s f).weave = s.weave := rfl
@[simp] theorem orFlags_timePace (f : Flags) : (orFlags s f).timePace = s.timePace := rfl
@[simp] theorem orFlags_free (f : Flags) : (orFlags s f).free = s.free := rfl
@[simp] theorem orFlags_stalled (f : Flags) : (orFlags s f).stalled = s.stalled := rfl
@[simp] theorem orFlags_inp (f : Flags) : (orFlags s f).inp = s.inp := rfl
@[simp] theorem orFlags_agenda (f : Flags) : (orFlags s f).agenda = s.agenda := rfl

/-! `retireTo` -/

@[simp] theorem retireTo_gid (pc : Word) : (retireTo s pc).gid = s.gid := rfl
@[simp] theorem retireTo_peers (pc : Word) : (retireTo s pc).peers = s.peers := rfl
@[simp] theorem retireTo_mem (pc : Word) : (retireTo s pc).mem = s.mem := rfl
@[simp] theorem retireTo_hbm (pc : Word) : (retireTo s pc).hbm = s.hbm := rfl
@[simp] theorem retireTo_errs (pc : Word) : (retireTo s pc).errs = s.errs := rfl
@[simp] theorem retireTo_map (pc : Word) : (retireTo s pc).map = s.map := rfl
@[simp] theorem retireTo_basket (pc : Word) : (retireTo s pc).basket = s.basket := rfl
@[simp] theorem retireTo_ctxTable (pc : Word) : (retireTo s pc).ctxTable = s.ctxTable := rfl
@[simp] theorem retireTo_bonded (pc : Word) : (retireTo s pc).bonded = s.bonded := rfl
@[simp] theorem retireTo_arena (pc : Word) : (retireTo s pc).arena = s.arena := rfl
@[simp] theorem retireTo_tlbva (pc : Word) : (retireTo s pc).tlbva = s.tlbva := rfl
@[simp] theorem retireTo_tlbctl (pc : Word) : (retireTo s pc).tlbctl = s.tlbctl := rfl
@[simp] theorem retireTo_tlbGo (pc : Word) : (retireTo s pc).tlbGo = s.tlbGo := rfl
@[simp] theorem retireTo_slices (pc : Word) : (retireTo s pc).slices = s.slices := rfl
@[simp] theorem retireTo_lines (pc : Word) : (retireTo s pc).lines = s.lines := rfl
@[simp] theorem retireTo_replicas (pc : Word) : (retireTo s pc).replicas = s.replicas := rfl
@[simp] theorem retireTo_updates (pc : Word) : (retireTo s pc).updates = s.updates := rfl
@[simp] theorem retireTo_clocks (pc : Word) : (retireTo s pc).clocks = s.clocks := rfl
@[simp] theorem retireTo_openEpochs (pc : Word) : (retireTo s pc).openEpochs = s.openEpochs := rfl
@[simp] theorem retireTo_l1 (pc : Word) : (retireTo s pc).l1 = s.l1 := rfl
@[simp] theorem retireTo_invals (pc : Word) : (retireTo s pc).invals = s.invals := rfl
@[simp] theorem retireTo_waits (pc : Word) : (retireTo s pc).waits = s.waits := rfl
@[simp] theorem retireTo_icache (pc : Word) : (retireTo s pc).icache = s.icache := rfl
@[simp] theorem retireTo_robuf (pc : Word) : (retireTo s pc).robuf = s.robuf := rfl
@[simp] theorem retireTo_tlbs (pc : Word) : (retireTo s pc).tlbs = s.tlbs := rfl
@[simp] theorem retireTo_scTicket (pc : Word) : (retireTo s pc).scTicket = s.scTicket := rfl
@[simp] theorem retireTo_scOut (pc : Word) : (retireTo s pc).scOut = s.scOut := rfl
@[simp] theorem retireTo_wire (pc : Word) : (retireTo s pc).wire = s.wire := rfl
@[simp] theorem retireTo_records (pc : Word) : (retireTo s pc).records = s.records := rfl
@[simp] theorem retireTo_copies (pc : Word) : (retireTo s pc).copies = s.copies := rfl
@[simp] theorem retireTo_blocks (pc : Word) : (retireTo s pc).blocks = s.blocks := rfl
@[simp] theorem retireTo_frames (pc : Word) : (retireTo s pc).frames = s.frames := rfl
@[simp] theorem retireTo_scalarFrames (pc : Word) : (retireTo s pc).scalarFrames = s.scalarFrames := rfl
@[simp] theorem retireTo_images (pc : Word) : (retireTo s pc).images = s.images := rfl
@[simp] theorem retireTo_suspended (pc : Word) : (retireTo s pc).suspended = s.suspended := rfl
@[simp] theorem retireTo_launches (pc : Word) : (retireTo s pc).launches = s.launches := rfl
@[simp] theorem retireTo_nodeGen (pc : Word) : (retireTo s pc).nodeGen = s.nodeGen := rfl
@[simp] theorem retireTo_nextKey (pc : Word) : (retireTo s pc).nextKey = s.nextKey := rfl
@[simp] theorem retireTo_nextOrder (pc : Word) : (retireTo s pc).nextOrder = s.nextOrder := rfl
@[simp] theorem retireTo_results (pc : Word) : (retireTo s pc).results = s.results := rfl
@[simp] theorem retireTo_ctxUsed (pc : Word) : (retireTo s pc).ctxUsed = s.ctxUsed := rfl
@[simp] theorem retireTo_queues (pc : Word) : (retireTo s pc).queues = s.queues := rfl
@[simp] theorem retireTo_msix (pc : Word) : (retireTo s pc).msix = s.msix := rfl
@[simp] theorem retireTo_hostReplies (pc : Word) : (retireTo s pc).hostReplies = s.hostReplies := rfl
@[simp] theorem retireTo_posted (pc : Word) : (retireTo s pc).posted = s.posted := rfl
@[simp] theorem retireTo_postNext (pc : Word) : (retireTo s pc).postNext = s.postNext := rfl
@[simp] theorem retireTo_timedOut (pc : Word) : (retireTo s pc).timedOut = s.timedOut := rfl
@[simp] theorem retireTo_incoming (pc : Word) : (retireTo s pc).incoming = s.incoming := rfl
@[simp] theorem retireTo_aer (pc : Word) : (retireTo s pc).aer = s.aer := rfl
@[simp] theorem retireTo_handle (pc : Word) : (retireTo s pc).handle = s.handle := rfl
@[simp] theorem retireTo_ports (pc : Word) : (retireTo s pc).ports = s.ports := rfl
@[simp] theorem retireTo_routers (pc : Word) : (retireTo s pc).routers = s.routers := rfl
@[simp] theorem retireTo_transit (pc : Word) : (retireTo s pc).transit = s.transit := rfl
@[simp] theorem retireTo_planes (pc : Word) : (retireTo s pc).planes = s.planes := rfl
@[simp] theorem retireTo_rims (pc : Word) : (retireTo s pc).rims = s.rims := rfl
@[simp] theorem retireTo_gated (pc : Word) : (retireTo s pc).gated = s.gated := rfl
@[simp] theorem retireTo_issues (pc : Word) : (retireTo s pc).issues = s.issues := rfl
@[simp] theorem retireTo_decided (pc : Word) : (retireTo s pc).decided = s.decided := rfl
@[simp] theorem retireTo_issuedNow (pc : Word) : (retireTo s pc).issuedNow = s.issuedNow := rfl
@[simp] theorem retireTo_d3hot (pc : Word) : (retireTo s pc).d3hot = s.d3hot := rfl
@[simp] theorem retireTo_time (pc : Word) : (retireTo s pc).time = s.time := rfl
@[simp] theorem retireTo_clock (pc : Word) : (retireTo s pc).clock = s.clock := rfl
@[simp] theorem retireTo_weave (pc : Word) : (retireTo s pc).weave = s.weave := rfl
@[simp] theorem retireTo_timePace (pc : Word) : (retireTo s pc).timePace = s.timePace := rfl
@[simp] theorem retireTo_free (pc : Word) : (retireTo s pc).free = s.free := rfl
@[simp] theorem retireTo_stalled (pc : Word) : (retireTo s pc).stalled = s.stalled := rfl
@[simp] theorem retireTo_inp (pc : Word) : (retireTo s pc).inp = s.inp := rfl
@[simp] theorem retireTo_agenda (pc : Word) : (retireTo s pc).agenda = s.agenda := rfl

/-! `retire` -/

@[simp] theorem retire_gid : (retire s).gid = s.gid := rfl
@[simp] theorem retire_peers : (retire s).peers = s.peers := rfl
@[simp] theorem retire_mem : (retire s).mem = s.mem := rfl
@[simp] theorem retire_hbm : (retire s).hbm = s.hbm := rfl
@[simp] theorem retire_errs : (retire s).errs = s.errs := rfl
@[simp] theorem retire_map : (retire s).map = s.map := rfl
@[simp] theorem retire_basket : (retire s).basket = s.basket := rfl
@[simp] theorem retire_ctxTable : (retire s).ctxTable = s.ctxTable := rfl
@[simp] theorem retire_bonded : (retire s).bonded = s.bonded := rfl
@[simp] theorem retire_arena : (retire s).arena = s.arena := rfl
@[simp] theorem retire_tlbva : (retire s).tlbva = s.tlbva := rfl
@[simp] theorem retire_tlbctl : (retire s).tlbctl = s.tlbctl := rfl
@[simp] theorem retire_tlbGo : (retire s).tlbGo = s.tlbGo := rfl
@[simp] theorem retire_slices : (retire s).slices = s.slices := rfl
@[simp] theorem retire_lines : (retire s).lines = s.lines := rfl
@[simp] theorem retire_replicas : (retire s).replicas = s.replicas := rfl
@[simp] theorem retire_updates : (retire s).updates = s.updates := rfl
@[simp] theorem retire_clocks : (retire s).clocks = s.clocks := rfl
@[simp] theorem retire_openEpochs : (retire s).openEpochs = s.openEpochs := rfl
@[simp] theorem retire_l1 : (retire s).l1 = s.l1 := rfl
@[simp] theorem retire_invals : (retire s).invals = s.invals := rfl
@[simp] theorem retire_waits : (retire s).waits = s.waits := rfl
@[simp] theorem retire_icache : (retire s).icache = s.icache := rfl
@[simp] theorem retire_robuf : (retire s).robuf = s.robuf := rfl
@[simp] theorem retire_tlbs : (retire s).tlbs = s.tlbs := rfl
@[simp] theorem retire_scTicket : (retire s).scTicket = s.scTicket := rfl
@[simp] theorem retire_scOut : (retire s).scOut = s.scOut := rfl
@[simp] theorem retire_wire : (retire s).wire = s.wire := rfl
@[simp] theorem retire_records : (retire s).records = s.records := rfl
@[simp] theorem retire_copies : (retire s).copies = s.copies := rfl
@[simp] theorem retire_blocks : (retire s).blocks = s.blocks := rfl
@[simp] theorem retire_frames : (retire s).frames = s.frames := rfl
@[simp] theorem retire_scalarFrames : (retire s).scalarFrames = s.scalarFrames := rfl
@[simp] theorem retire_images : (retire s).images = s.images := rfl
@[simp] theorem retire_suspended : (retire s).suspended = s.suspended := rfl
@[simp] theorem retire_launches : (retire s).launches = s.launches := rfl
@[simp] theorem retire_nodeGen : (retire s).nodeGen = s.nodeGen := rfl
@[simp] theorem retire_nextKey : (retire s).nextKey = s.nextKey := rfl
@[simp] theorem retire_nextOrder : (retire s).nextOrder = s.nextOrder := rfl
@[simp] theorem retire_results : (retire s).results = s.results := rfl
@[simp] theorem retire_ctxUsed : (retire s).ctxUsed = s.ctxUsed := rfl
@[simp] theorem retire_queues : (retire s).queues = s.queues := rfl
@[simp] theorem retire_msix : (retire s).msix = s.msix := rfl
@[simp] theorem retire_hostReplies : (retire s).hostReplies = s.hostReplies := rfl
@[simp] theorem retire_posted : (retire s).posted = s.posted := rfl
@[simp] theorem retire_postNext : (retire s).postNext = s.postNext := rfl
@[simp] theorem retire_timedOut : (retire s).timedOut = s.timedOut := rfl
@[simp] theorem retire_incoming : (retire s).incoming = s.incoming := rfl
@[simp] theorem retire_aer : (retire s).aer = s.aer := rfl
@[simp] theorem retire_handle : (retire s).handle = s.handle := rfl
@[simp] theorem retire_ports : (retire s).ports = s.ports := rfl
@[simp] theorem retire_routers : (retire s).routers = s.routers := rfl
@[simp] theorem retire_transit : (retire s).transit = s.transit := rfl
@[simp] theorem retire_planes : (retire s).planes = s.planes := rfl
@[simp] theorem retire_rims : (retire s).rims = s.rims := rfl
@[simp] theorem retire_gated : (retire s).gated = s.gated := rfl
@[simp] theorem retire_issues : (retire s).issues = s.issues := rfl
@[simp] theorem retire_decided : (retire s).decided = s.decided := rfl
@[simp] theorem retire_issuedNow : (retire s).issuedNow = s.issuedNow := rfl
@[simp] theorem retire_d3hot : (retire s).d3hot = s.d3hot := rfl
@[simp] theorem retire_time : (retire s).time = s.time := rfl
@[simp] theorem retire_clock : (retire s).clock = s.clock := rfl
@[simp] theorem retire_weave : (retire s).weave = s.weave := rfl
@[simp] theorem retire_timePace : (retire s).timePace = s.timePace := rfl
@[simp] theorem retire_free : (retire s).free = s.free := rfl
@[simp] theorem retire_stalled : (retire s).stalled = s.stalled := rfl
@[simp] theorem retire_inp : (retire s).inp = s.inp := rfl
@[simp] theorem retire_agenda : (retire s).agenda = s.agenda := rfl

/-! `stall` -/

@[simp] theorem stall_t : (stall s).t = s.t := rfl
@[simp] theorem stall_gid : (stall s).gid = s.gid := rfl
@[simp] theorem stall_peers : (stall s).peers = s.peers := rfl
@[simp] theorem stall_mem : (stall s).mem = s.mem := rfl
@[simp] theorem stall_hbm : (stall s).hbm = s.hbm := rfl
@[simp] theorem stall_errs : (stall s).errs = s.errs := rfl
@[simp] theorem stall_map : (stall s).map = s.map := rfl
@[simp] theorem stall_basket : (stall s).basket = s.basket := rfl
@[simp] theorem stall_ctxTable : (stall s).ctxTable = s.ctxTable := rfl
@[simp] theorem stall_bonded : (stall s).bonded = s.bonded := rfl
@[simp] theorem stall_arena : (stall s).arena = s.arena := rfl
@[simp] theorem stall_tlbva : (stall s).tlbva = s.tlbva := rfl
@[simp] theorem stall_tlbctl : (stall s).tlbctl = s.tlbctl := rfl
@[simp] theorem stall_tlbGo : (stall s).tlbGo = s.tlbGo := rfl
@[simp] theorem stall_slices : (stall s).slices = s.slices := rfl
@[simp] theorem stall_lines : (stall s).lines = s.lines := rfl
@[simp] theorem stall_replicas : (stall s).replicas = s.replicas := rfl
@[simp] theorem stall_updates : (stall s).updates = s.updates := rfl
@[simp] theorem stall_clocks : (stall s).clocks = s.clocks := rfl
@[simp] theorem stall_openEpochs : (stall s).openEpochs = s.openEpochs := rfl
@[simp] theorem stall_l1 : (stall s).l1 = s.l1 := rfl
@[simp] theorem stall_invals : (stall s).invals = s.invals := rfl
@[simp] theorem stall_waits : (stall s).waits = s.waits := rfl
@[simp] theorem stall_icache : (stall s).icache = s.icache := rfl
@[simp] theorem stall_robuf : (stall s).robuf = s.robuf := rfl
@[simp] theorem stall_tlbs : (stall s).tlbs = s.tlbs := rfl
@[simp] theorem stall_scTicket : (stall s).scTicket = s.scTicket := rfl
@[simp] theorem stall_scOut : (stall s).scOut = s.scOut := rfl
@[simp] theorem stall_wire : (stall s).wire = s.wire := rfl
@[simp] theorem stall_records : (stall s).records = s.records := rfl
@[simp] theorem stall_copies : (stall s).copies = s.copies := rfl
@[simp] theorem stall_blocks : (stall s).blocks = s.blocks := rfl
@[simp] theorem stall_frames : (stall s).frames = s.frames := rfl
@[simp] theorem stall_scalarFrames : (stall s).scalarFrames = s.scalarFrames := rfl
@[simp] theorem stall_images : (stall s).images = s.images := rfl
@[simp] theorem stall_suspended : (stall s).suspended = s.suspended := rfl
@[simp] theorem stall_launches : (stall s).launches = s.launches := rfl
@[simp] theorem stall_nodeGen : (stall s).nodeGen = s.nodeGen := rfl
@[simp] theorem stall_nextKey : (stall s).nextKey = s.nextKey := rfl
@[simp] theorem stall_nextOrder : (stall s).nextOrder = s.nextOrder := rfl
@[simp] theorem stall_results : (stall s).results = s.results := rfl
@[simp] theorem stall_ctxUsed : (stall s).ctxUsed = s.ctxUsed := rfl
@[simp] theorem stall_queues : (stall s).queues = s.queues := rfl
@[simp] theorem stall_msix : (stall s).msix = s.msix := rfl
@[simp] theorem stall_hostReplies : (stall s).hostReplies = s.hostReplies := rfl
@[simp] theorem stall_posted : (stall s).posted = s.posted := rfl
@[simp] theorem stall_postNext : (stall s).postNext = s.postNext := rfl
@[simp] theorem stall_timedOut : (stall s).timedOut = s.timedOut := rfl
@[simp] theorem stall_incoming : (stall s).incoming = s.incoming := rfl
@[simp] theorem stall_aer : (stall s).aer = s.aer := rfl
@[simp] theorem stall_handle : (stall s).handle = s.handle := rfl
@[simp] theorem stall_ports : (stall s).ports = s.ports := rfl
@[simp] theorem stall_routers : (stall s).routers = s.routers := rfl
@[simp] theorem stall_transit : (stall s).transit = s.transit := rfl
@[simp] theorem stall_planes : (stall s).planes = s.planes := rfl
@[simp] theorem stall_rims : (stall s).rims = s.rims := rfl
@[simp] theorem stall_gated : (stall s).gated = s.gated := rfl
@[simp] theorem stall_issues : (stall s).issues = s.issues := rfl
@[simp] theorem stall_decided : (stall s).decided = s.decided := rfl
@[simp] theorem stall_issuedNow : (stall s).issuedNow = s.issuedNow := rfl
@[simp] theorem stall_d3hot : (stall s).d3hot = s.d3hot := rfl
@[simp] theorem stall_time : (stall s).time = s.time := rfl
@[simp] theorem stall_clock : (stall s).clock = s.clock := rfl
@[simp] theorem stall_weave : (stall s).weave = s.weave := rfl
@[simp] theorem stall_timePace : (stall s).timePace = s.timePace := rfl
@[simp] theorem stall_free : (stall s).free = s.free := rfl
@[simp] theorem stall_inp : (stall s).inp = s.inp := rfl
@[simp] theorem stall_agenda : (stall s).agenda = s.agenda := rfl

/-! `pokeByte` -/

@[simp] theorem pokeByte_t (loc : Nat) (b : Byte) : (pokeByte s loc b).t = s.t := rfl
@[simp] theorem pokeByte_gid (loc : Nat) (b : Byte) : (pokeByte s loc b).gid = s.gid := rfl
@[simp] theorem pokeByte_peers (loc : Nat) (b : Byte) : (pokeByte s loc b).peers = s.peers := rfl
@[simp] theorem pokeByte_hbm (loc : Nat) (b : Byte) : (pokeByte s loc b).hbm = s.hbm := rfl
@[simp] theorem pokeByte_errs (loc : Nat) (b : Byte) : (pokeByte s loc b).errs = s.errs := rfl
@[simp] theorem pokeByte_map (loc : Nat) (b : Byte) : (pokeByte s loc b).map = s.map := rfl
@[simp] theorem pokeByte_basket (loc : Nat) (b : Byte) : (pokeByte s loc b).basket = s.basket := rfl
@[simp] theorem pokeByte_ctxTable (loc : Nat) (b : Byte) : (pokeByte s loc b).ctxTable = s.ctxTable := rfl
@[simp] theorem pokeByte_bonded (loc : Nat) (b : Byte) : (pokeByte s loc b).bonded = s.bonded := rfl
@[simp] theorem pokeByte_arena (loc : Nat) (b : Byte) : (pokeByte s loc b).arena = s.arena := rfl
@[simp] theorem pokeByte_tlbva (loc : Nat) (b : Byte) : (pokeByte s loc b).tlbva = s.tlbva := rfl
@[simp] theorem pokeByte_tlbctl (loc : Nat) (b : Byte) : (pokeByte s loc b).tlbctl = s.tlbctl := rfl
@[simp] theorem pokeByte_tlbGo (loc : Nat) (b : Byte) : (pokeByte s loc b).tlbGo = s.tlbGo := rfl
@[simp] theorem pokeByte_slices (loc : Nat) (b : Byte) : (pokeByte s loc b).slices = s.slices := rfl
@[simp] theorem pokeByte_lines (loc : Nat) (b : Byte) : (pokeByte s loc b).lines = s.lines := rfl
@[simp] theorem pokeByte_replicas (loc : Nat) (b : Byte) : (pokeByte s loc b).replicas = s.replicas := rfl
@[simp] theorem pokeByte_updates (loc : Nat) (b : Byte) : (pokeByte s loc b).updates = s.updates := rfl
@[simp] theorem pokeByte_clocks (loc : Nat) (b : Byte) : (pokeByte s loc b).clocks = s.clocks := rfl
@[simp] theorem pokeByte_openEpochs (loc : Nat) (b : Byte) : (pokeByte s loc b).openEpochs = s.openEpochs := rfl
@[simp] theorem pokeByte_l1 (loc : Nat) (b : Byte) : (pokeByte s loc b).l1 = s.l1 := rfl
@[simp] theorem pokeByte_invals (loc : Nat) (b : Byte) : (pokeByte s loc b).invals = s.invals := rfl
@[simp] theorem pokeByte_waits (loc : Nat) (b : Byte) : (pokeByte s loc b).waits = s.waits := rfl
@[simp] theorem pokeByte_icache (loc : Nat) (b : Byte) : (pokeByte s loc b).icache = s.icache := rfl
@[simp] theorem pokeByte_robuf (loc : Nat) (b : Byte) : (pokeByte s loc b).robuf = s.robuf := rfl
@[simp] theorem pokeByte_tlbs (loc : Nat) (b : Byte) : (pokeByte s loc b).tlbs = s.tlbs := rfl
@[simp] theorem pokeByte_scTicket (loc : Nat) (b : Byte) : (pokeByte s loc b).scTicket = s.scTicket := rfl
@[simp] theorem pokeByte_scOut (loc : Nat) (b : Byte) : (pokeByte s loc b).scOut = s.scOut := rfl
@[simp] theorem pokeByte_wire (loc : Nat) (b : Byte) : (pokeByte s loc b).wire = s.wire := rfl
@[simp] theorem pokeByte_records (loc : Nat) (b : Byte) : (pokeByte s loc b).records = s.records := rfl
@[simp] theorem pokeByte_copies (loc : Nat) (b : Byte) : (pokeByte s loc b).copies = s.copies := rfl
@[simp] theorem pokeByte_blocks (loc : Nat) (b : Byte) : (pokeByte s loc b).blocks = s.blocks := rfl
@[simp] theorem pokeByte_frames (loc : Nat) (b : Byte) : (pokeByte s loc b).frames = s.frames := rfl
@[simp] theorem pokeByte_scalarFrames (loc : Nat) (b : Byte) : (pokeByte s loc b).scalarFrames = s.scalarFrames := rfl
@[simp] theorem pokeByte_suspended (loc : Nat) (b : Byte) : (pokeByte s loc b).suspended = s.suspended := rfl
@[simp] theorem pokeByte_launches (loc : Nat) (b : Byte) : (pokeByte s loc b).launches = s.launches := rfl
@[simp] theorem pokeByte_nodeGen (loc : Nat) (b : Byte) : (pokeByte s loc b).nodeGen = s.nodeGen := rfl
@[simp] theorem pokeByte_nextKey (loc : Nat) (b : Byte) : (pokeByte s loc b).nextKey = s.nextKey := rfl
@[simp] theorem pokeByte_nextOrder (loc : Nat) (b : Byte) : (pokeByte s loc b).nextOrder = s.nextOrder := rfl
@[simp] theorem pokeByte_results (loc : Nat) (b : Byte) : (pokeByte s loc b).results = s.results := rfl
@[simp] theorem pokeByte_ctxUsed (loc : Nat) (b : Byte) : (pokeByte s loc b).ctxUsed = s.ctxUsed := rfl
@[simp] theorem pokeByte_queues (loc : Nat) (b : Byte) : (pokeByte s loc b).queues = s.queues := rfl
@[simp] theorem pokeByte_msix (loc : Nat) (b : Byte) : (pokeByte s loc b).msix = s.msix := rfl
@[simp] theorem pokeByte_hostReplies (loc : Nat) (b : Byte) : (pokeByte s loc b).hostReplies = s.hostReplies := rfl
@[simp] theorem pokeByte_posted (loc : Nat) (b : Byte) : (pokeByte s loc b).posted = s.posted := rfl
@[simp] theorem pokeByte_postNext (loc : Nat) (b : Byte) : (pokeByte s loc b).postNext = s.postNext := rfl
@[simp] theorem pokeByte_timedOut (loc : Nat) (b : Byte) : (pokeByte s loc b).timedOut = s.timedOut := rfl
@[simp] theorem pokeByte_incoming (loc : Nat) (b : Byte) : (pokeByte s loc b).incoming = s.incoming := rfl
@[simp] theorem pokeByte_aer (loc : Nat) (b : Byte) : (pokeByte s loc b).aer = s.aer := rfl
@[simp] theorem pokeByte_handle (loc : Nat) (b : Byte) : (pokeByte s loc b).handle = s.handle := rfl
@[simp] theorem pokeByte_ports (loc : Nat) (b : Byte) : (pokeByte s loc b).ports = s.ports := rfl
@[simp] theorem pokeByte_routers (loc : Nat) (b : Byte) : (pokeByte s loc b).routers = s.routers := rfl
@[simp] theorem pokeByte_transit (loc : Nat) (b : Byte) : (pokeByte s loc b).transit = s.transit := rfl
@[simp] theorem pokeByte_planes (loc : Nat) (b : Byte) : (pokeByte s loc b).planes = s.planes := rfl
@[simp] theorem pokeByte_rims (loc : Nat) (b : Byte) : (pokeByte s loc b).rims = s.rims := rfl
@[simp] theorem pokeByte_gated (loc : Nat) (b : Byte) : (pokeByte s loc b).gated = s.gated := rfl
@[simp] theorem pokeByte_issues (loc : Nat) (b : Byte) : (pokeByte s loc b).issues = s.issues := rfl
@[simp] theorem pokeByte_decided (loc : Nat) (b : Byte) : (pokeByte s loc b).decided = s.decided := rfl
@[simp] theorem pokeByte_issuedNow (loc : Nat) (b : Byte) : (pokeByte s loc b).issuedNow = s.issuedNow := rfl
@[simp] theorem pokeByte_d3hot (loc : Nat) (b : Byte) : (pokeByte s loc b).d3hot = s.d3hot := rfl
@[simp] theorem pokeByte_time (loc : Nat) (b : Byte) : (pokeByte s loc b).time = s.time := rfl
@[simp] theorem pokeByte_clock (loc : Nat) (b : Byte) : (pokeByte s loc b).clock = s.clock := rfl
@[simp] theorem pokeByte_weave (loc : Nat) (b : Byte) : (pokeByte s loc b).weave = s.weave := rfl
@[simp] theorem pokeByte_timePace (loc : Nat) (b : Byte) : (pokeByte s loc b).timePace = s.timePace := rfl
@[simp] theorem pokeByte_free (loc : Nat) (b : Byte) : (pokeByte s loc b).free = s.free := rfl
@[simp] theorem pokeByte_stalled (loc : Nat) (b : Byte) : (pokeByte s loc b).stalled = s.stalled := rfl
@[simp] theorem pokeByte_inp (loc : Nat) (b : Byte) : (pokeByte s loc b).inp = s.inp := rfl
@[simp] theorem pokeByte_agenda (loc : Nat) (b : Byte) : (pokeByte s loc b).agenda = s.agenda := rfl

/-! The strand after `setX` -/

@[simp] theorem setX_t_pc (r : Reg) (w : Word) : (setX s r w).t.pc = s.t.pc := by unfold setX; split <;> rfl
@[simp] theorem setX_t_v (r : Reg) (w : Word) : (setX s r w).t.v = s.t.v := by unfold setX; split <;> rfl
@[simp] theorem setX_t_k (r : Reg) (w : Word) : (setX s r w).t.k = s.t.k := by unfold setX; split <;> rfl
@[simp] theorem setX_t_pending (r : Reg) (w : Word) : (setX s r w).t.pending = s.t.pending := by unfold setX; split <;> rfl
@[simp] theorem setX_t_granted (r : Reg) (w : Word) : (setX s r w).t.granted = s.t.granted := by unfold setX; split <;> rfl
@[simp] theorem setX_t_vl (r : Reg) (w : Word) : (setX s r w).t.vl = s.t.vl := by unfold setX; split <;> rfl
@[simp] theorem setX_t_vcfg (r : Reg) (w : Word) : (setX s r w).t.vcfg = s.t.vcfg := by unfold setX; split <;> rfl
@[simp] theorem setX_t_vkey (r : Reg) (w : Word) : (setX s r w).t.vkey = s.t.vkey := by unfold setX; split <;> rfl
@[simp] theorem setX_t_vstat (r : Reg) (w : Word) : (setX s r w).t.vstat = s.t.vstat := by unfold setX; split <;> rfl
@[simp] theorem setX_t_vmcnt (r : Reg) (w : Word) : (setX s r w).t.vmcnt = s.t.vmcnt := by unfold setX; split <;> rfl
@[simp] theorem setX_t_vtrows (r : Reg) (w : Word) : (setX s r w).t.vtrows = s.t.vtrows := by unfold setX; split <;> rfl
@[simp] theorem setX_t_vrthr (r : Reg) (w : Word) : (setX s r w).t.vrthr = s.t.vrthr := by unfold setX; split <;> rfl
@[simp] theorem setX_t_ctags (r : Reg) (w : Word) : (setX s r w).t.ctags = s.t.ctags := by unfold setX; split <;> rfl
@[simp] theorem setX_t_cfault (r : Reg) (w : Word) : (setX s r w).t.cfault = s.t.cfault := by unfold setX; split <;> rfl
@[simp] theorem setX_t_vcpPc (r : Reg) (w : Word) : (setX s r w).t.vcpPc = s.t.vcpPc := by unfold setX; split <;> rfl
@[simp] theorem setX_t_share (r : Reg) (w : Word) : (setX s r w).t.share = s.t.share := by unfold setX; split <;> rfl
@[simp] theorem setX_t_nextShare (r : Reg) (w : Word) : (setX s r w).t.nextShare = s.t.nextShare := by unfold setX; split <;> rfl
@[simp] theorem setX_t_weight (r : Reg) (w : Word) : (setX s r w).t.weight = s.t.weight := by unfold setX; split <;> rfl
@[simp] theorem setX_t_fmtb (r : Reg) (w : Word) : (setX s r w).t.fmtb = s.t.fmtb := by unfold setX; split <;> rfl
@[simp] theorem setX_t_datp (r : Reg) (w : Word) : (setX s r w).t.datp = s.t.datp := by unfold setX; split <;> rfl
@[simp] theorem setX_t_sbase (r : Reg) (w : Word) : (setX s r w).t.sbase = s.t.sbase := by unfold setX; split <;> rfl
@[simp] theorem setX_t_sdesc (r : Reg) (w : Word) : (setX s r w).t.sdesc = s.t.sdesc := by unfold setX; split <;> rfl
@[simp] theorem setX_t_mode (r : Reg) (w : Word) : (setX s r w).t.mode = s.t.mode := by unfold setX; split <;> rfl
@[simp] theorem setX_t_mstatus (r : Reg) (w : Word) : (setX s r w).t.mstatus = s.t.mstatus := by unfold setX; split <;> rfl
@[simp] theorem setX_t_medeleg (r : Reg) (w : Word) : (setX s r w).t.medeleg = s.t.medeleg := by unfold setX; split <;> rfl
@[simp] theorem setX_t_mideleg (r : Reg) (w : Word) : (setX s r w).t.mideleg = s.t.mideleg := by unfold setX; split <;> rfl
@[simp] theorem setX_t_mie (r : Reg) (w : Word) : (setX s r w).t.mie = s.t.mie := by unfold setX; split <;> rfl
@[simp] theorem setX_t_ssip (r : Reg) (w : Word) : (setX s r w).t.ssip = s.t.ssip := by unfold setX; split <;> rfl
@[simp] theorem setX_t_mtvec (r : Reg) (w : Word) : (setX s r w).t.mtvec = s.t.mtvec := by unfold setX; split <;> rfl
@[simp] theorem setX_t_mscratch (r : Reg) (w : Word) : (setX s r w).t.mscratch = s.t.mscratch := by unfold setX; split <;> rfl
@[simp] theorem setX_t_mepc (r : Reg) (w : Word) : (setX s r w).t.mepc = s.t.mepc := by unfold setX; split <;> rfl
@[simp] theorem setX_t_mcause (r : Reg) (w : Word) : (setX s r w).t.mcause = s.t.mcause := by unfold setX; split <;> rfl
@[simp] theorem setX_t_mtval (r : Reg) (w : Word) : (setX s r w).t.mtval = s.t.mtval := by unfold setX; split <;> rfl
@[simp] theorem setX_t_mcounteren (r : Reg) (w : Word) : (setX s r w).t.mcounteren = s.t.mcounteren := by unfold setX; split <;> rfl
@[simp] theorem setX_t_mcountinhibit (r : Reg) (w : Word) : (setX s r w).t.mcountinhibit = s.t.mcountinhibit := by unfold setX; split <;> rfl
@[simp] theorem setX_t_menvcfg (r : Reg) (w : Word) : (setX s r w).t.menvcfg = s.t.menvcfg := by unfold setX; split <;> rfl
@[simp] theorem setX_t_mcycle (r : Reg) (w : Word) : (setX s r w).t.mcycle = s.t.mcycle := by unfold setX; split <;> rfl
@[simp] theorem setX_t_minstret (r : Reg) (w : Word) : (setX s r w).t.minstret = s.t.minstret := by unfold setX; split <;> rfl
@[simp] theorem setX_t_stvec (r : Reg) (w : Word) : (setX s r w).t.stvec = s.t.stvec := by unfold setX; split <;> rfl
@[simp] theorem setX_t_sscratch (r : Reg) (w : Word) : (setX s r w).t.sscratch = s.t.sscratch := by unfold setX; split <;> rfl
@[simp] theorem setX_t_sepc (r : Reg) (w : Word) : (setX s r w).t.sepc = s.t.sepc := by unfold setX; split <;> rfl
@[simp] theorem setX_t_scause (r : Reg) (w : Word) : (setX s r w).t.scause = s.t.scause := by unfold setX; split <;> rfl
@[simp] theorem setX_t_stval (r : Reg) (w : Word) : (setX s r w).t.stval = s.t.stval := by unfold setX; split <;> rfl
@[simp] theorem setX_t_scounteren (r : Reg) (w : Word) : (setX s r w).t.scounteren = s.t.scounteren := by unfold setX; split <;> rfl
@[simp] theorem setX_t_senvcfg (r : Reg) (w : Word) : (setX s r w).t.senvcfg = s.t.senvcfg := by unfold setX; split <;> rfl
@[simp] theorem setX_t_stimecmp (r : Reg) (w : Word) : (setX s r w).t.stimecmp = s.t.stimecmp := by unfold setX; split <;> rfl
@[simp] theorem setX_t_reservation (r : Reg) (w : Word) : (setX s r w).t.reservation = s.t.reservation := by unfold setX; split <;> rfl
@[simp] theorem setX_t_gen (r : Reg) (w : Word) : (setX s r w).t.gen = s.t.gen := by unfold setX; split <;> rfl
@[simp] theorem setX_t_queue (r : Reg) (w : Word) : (setX s r w).t.queue = s.t.queue := by unfold setX; split <;> rfl
@[simp] theorem setX_t_replay (r : Reg) (w : Word) : (setX s r w).t.replay = s.t.replay := by unfold setX; split <;> rfl
@[simp] theorem setX_t_claims (r : Reg) (w : Word) : (setX s r w).t.claims = s.t.claims := by unfold setX; split <;> rfl
@[simp] theorem setX_t_unfold (r : Reg) (w : Word) : (setX s r w).t.unfold = s.t.unfold := by unfold setX; split <;> rfl
@[simp] theorem setX_t_qclock (r : Reg) (w : Word) : (setX s r w).t.qclock = s.t.qclock := by unfold setX; split <;> rfl
@[simp] theorem setX_t_sclock (r : Reg) (w : Word) : (setX s r w).t.sclock = s.t.sclock := by unfold setX; split <;> rfl
@[simp] theorem setX_t_seen (r : Reg) (w : Word) : (setX s r w).t.seen = s.t.seen := by unfold setX; split <;> rfl
@[simp] theorem setX_t_seenV (r : Reg) (w : Word) : (setX s r w).t.seenV = s.t.seenV := by unfold setX; split <;> rfl
@[simp] theorem setX_t_unfenced (r : Reg) (w : Word) : (setX s r w).t.unfenced = s.t.unfenced := by unfold setX; split <;> rfl
@[simp] theorem setX_t_preempt (r : Reg) (w : Word) : (setX s r w).t.preempt = s.t.preempt := by unfold setX; split <;> rfl
@[simp] theorem setX_t_watchdog (r : Reg) (w : Word) : (setX s r w).t.watchdog = s.t.watchdog := by unfold setX; split <;> rfl
@[simp] theorem setX_t_storeTraps (r : Reg) (w : Word) : (setX s r w).t.storeTraps = s.t.storeTraps := by unfold setX; split <;> rfl
@[simp] theorem setX_t_firmware (r : Reg) (w : Word) : (setX s r w).t.firmware = s.t.firmware := by unfold setX; split <;> rfl
@[simp] theorem setX_t_waiting (r : Reg) (w : Word) : (setX s r w).t.waiting = s.t.waiting := by unfold setX; split <;> rfl
@[simp] theorem setX_t_failing (r : Reg) (w : Word) : (setX s r w).t.failing = s.t.failing := by unfold setX; split <;> rfl
@[simp] theorem setX_t_vectorTurn (r : Reg) (w : Word) : (setX s r w).t.vectorTurn = s.t.vectorTurn := by unfold setX; split <;> rfl
@[simp] theorem setX_t_place (r : Reg) (w : Word) : (setX s r w).t.place = s.t.place := by unfold setX; split <;> rfl
@[simp] theorem setX_t_peek (r : Reg) (w : Word) : (setX s r w).t.peek = s.t.peek := by unfold setX; split <;> rfl
@[simp] theorem setX_t_upto (r : Reg) (w : Word) : (setX s r w).t.upto = s.t.upto := by unfold setX; split <;> rfl
@[simp] theorem setX_t_heldUntil (r : Reg) (w : Word) : (setX s r w).t.heldUntil = s.t.heldUntil := by unfold setX; split <;> rfl
@[simp] theorem setX_t_framing (r : Reg) (w : Word) : (setX s r w).t.framing = s.t.framing := by unfold setX; split <;> rfl
@[simp] theorem setX_t_sbaseNow (r : Reg) (w : Word) : (setX s r w).t.sbaseNow = s.t.sbaseNow := by unfold setX; split <;> rfl
@[simp] theorem setX_t_sdescNow (r : Reg) (w : Word) : (setX s r w).t.sdescNow = s.t.sdescNow := by unfold setX; split <;> rfl
@[simp] theorem setX_t_xbad (r : Reg) (w : Word) : (setX s r w).t.xbad = s.t.xbad := by unfold setX; split <;> rfl
@[simp] theorem setX_t_vbad (r : Reg) (w : Word) : (setX s r w).t.vbad = s.t.vbad := by unfold setX; split <;> rfl
@[simp] theorem setX_t_kbad (r : Reg) (w : Word) : (setX s r w).t.kbad = s.t.kbad := by unfold setX; split <;> rfl
@[simp] theorem setX_t_wake (r : Reg) (w : Word) : (setX s r w).t.wake = s.t.wake := by unfold setX; split <;> rfl
@[simp] theorem setX_t_bound (r : Reg) (w : Word) : (setX s r w).t.bound = s.t.bound := by unfold setX; split <;> rfl
@[simp] theorem setX_t_locks (r : Reg) (w : Word) : (setX s r w).t.locks = s.t.locks := by unfold setX; split <;> rfl
@[simp] theorem setX_t_ctxState (r : Reg) (w : Word) : (setX s r w).t.ctxState = s.t.ctxState := by unfold setX; split <;> rfl
@[simp] theorem setX_t_pend (r : Reg) (w : Word) : (setX s r w).t.pend = s.t.pend := by unfold setX; split <;> rfl
@[simp] theorem setX_t_task (r : Reg) (w : Word) : (setX s r w).t.task = s.t.task := by unfold setX; split <;> rfl

/-! The strand after `setV` -/

@[simp] theorem setV_t_x (n : Nat) (r : VReg) : (setV s n r).t.x = s.t.x := rfl
@[simp] theorem setV_t_pc (n : Nat) (r : VReg) : (setV s n r).t.pc = s.t.pc := rfl
@[simp] theorem setV_t_k (n : Nat) (r : VReg) : (setV s n r).t.k = s.t.k := rfl
@[simp] theorem setV_t_pending (n : Nat) (r : VReg) : (setV s n r).t.pending = s.t.pending := rfl
@[simp] theorem setV_t_granted (n : Nat) (r : VReg) : (setV s n r).t.granted = s.t.granted := rfl
@[simp] theorem setV_t_vl (n : Nat) (r : VReg) : (setV s n r).t.vl = s.t.vl := rfl
@[simp] theorem setV_t_vcfg (n : Nat) (r : VReg) : (setV s n r).t.vcfg = s.t.vcfg := rfl
@[simp] theorem setV_t_vkey (n : Nat) (r : VReg) : (setV s n r).t.vkey = s.t.vkey := rfl
@[simp] theorem setV_t_vstat (n : Nat) (r : VReg) : (setV s n r).t.vstat = s.t.vstat := rfl
@[simp] theorem setV_t_vmcnt (n : Nat) (r : VReg) : (setV s n r).t.vmcnt = s.t.vmcnt := rfl
@[simp] theorem setV_t_vtrows (n : Nat) (r : VReg) : (setV s n r).t.vtrows = s.t.vtrows := rfl
@[simp] theorem setV_t_vrthr (n : Nat) (r : VReg) : (setV s n r).t.vrthr = s.t.vrthr := rfl
@[simp] theorem setV_t_ctags (n : Nat) (r : VReg) : (setV s n r).t.ctags = s.t.ctags := rfl
@[simp] theorem setV_t_cfault (n : Nat) (r : VReg) : (setV s n r).t.cfault = s.t.cfault := rfl
@[simp] theorem setV_t_vcpPc (n : Nat) (r : VReg) : (setV s n r).t.vcpPc = s.t.vcpPc := rfl
@[simp] theorem setV_t_share (n : Nat) (r : VReg) : (setV s n r).t.share = s.t.share := rfl
@[simp] theorem setV_t_nextShare (n : Nat) (r : VReg) : (setV s n r).t.nextShare = s.t.nextShare := rfl
@[simp] theorem setV_t_weight (n : Nat) (r : VReg) : (setV s n r).t.weight = s.t.weight := rfl
@[simp] theorem setV_t_fmtb (n : Nat) (r : VReg) : (setV s n r).t.fmtb = s.t.fmtb := rfl
@[simp] theorem setV_t_datp (n : Nat) (r : VReg) : (setV s n r).t.datp = s.t.datp := rfl
@[simp] theorem setV_t_sbase (n : Nat) (r : VReg) : (setV s n r).t.sbase = s.t.sbase := rfl
@[simp] theorem setV_t_sdesc (n : Nat) (r : VReg) : (setV s n r).t.sdesc = s.t.sdesc := rfl
@[simp] theorem setV_t_mode (n : Nat) (r : VReg) : (setV s n r).t.mode = s.t.mode := rfl
@[simp] theorem setV_t_mstatus (n : Nat) (r : VReg) : (setV s n r).t.mstatus = s.t.mstatus := rfl
@[simp] theorem setV_t_medeleg (n : Nat) (r : VReg) : (setV s n r).t.medeleg = s.t.medeleg := rfl
@[simp] theorem setV_t_mideleg (n : Nat) (r : VReg) : (setV s n r).t.mideleg = s.t.mideleg := rfl
@[simp] theorem setV_t_mie (n : Nat) (r : VReg) : (setV s n r).t.mie = s.t.mie := rfl
@[simp] theorem setV_t_ssip (n : Nat) (r : VReg) : (setV s n r).t.ssip = s.t.ssip := rfl
@[simp] theorem setV_t_mtvec (n : Nat) (r : VReg) : (setV s n r).t.mtvec = s.t.mtvec := rfl
@[simp] theorem setV_t_mscratch (n : Nat) (r : VReg) : (setV s n r).t.mscratch = s.t.mscratch := rfl
@[simp] theorem setV_t_mepc (n : Nat) (r : VReg) : (setV s n r).t.mepc = s.t.mepc := rfl
@[simp] theorem setV_t_mcause (n : Nat) (r : VReg) : (setV s n r).t.mcause = s.t.mcause := rfl
@[simp] theorem setV_t_mtval (n : Nat) (r : VReg) : (setV s n r).t.mtval = s.t.mtval := rfl
@[simp] theorem setV_t_mcounteren (n : Nat) (r : VReg) : (setV s n r).t.mcounteren = s.t.mcounteren := rfl
@[simp] theorem setV_t_mcountinhibit (n : Nat) (r : VReg) : (setV s n r).t.mcountinhibit = s.t.mcountinhibit := rfl
@[simp] theorem setV_t_menvcfg (n : Nat) (r : VReg) : (setV s n r).t.menvcfg = s.t.menvcfg := rfl
@[simp] theorem setV_t_mcycle (n : Nat) (r : VReg) : (setV s n r).t.mcycle = s.t.mcycle := rfl
@[simp] theorem setV_t_minstret (n : Nat) (r : VReg) : (setV s n r).t.minstret = s.t.minstret := rfl
@[simp] theorem setV_t_stvec (n : Nat) (r : VReg) : (setV s n r).t.stvec = s.t.stvec := rfl
@[simp] theorem setV_t_sscratch (n : Nat) (r : VReg) : (setV s n r).t.sscratch = s.t.sscratch := rfl
@[simp] theorem setV_t_sepc (n : Nat) (r : VReg) : (setV s n r).t.sepc = s.t.sepc := rfl
@[simp] theorem setV_t_scause (n : Nat) (r : VReg) : (setV s n r).t.scause = s.t.scause := rfl
@[simp] theorem setV_t_stval (n : Nat) (r : VReg) : (setV s n r).t.stval = s.t.stval := rfl
@[simp] theorem setV_t_scounteren (n : Nat) (r : VReg) : (setV s n r).t.scounteren = s.t.scounteren := rfl
@[simp] theorem setV_t_senvcfg (n : Nat) (r : VReg) : (setV s n r).t.senvcfg = s.t.senvcfg := rfl
@[simp] theorem setV_t_stimecmp (n : Nat) (r : VReg) : (setV s n r).t.stimecmp = s.t.stimecmp := rfl
@[simp] theorem setV_t_reservation (n : Nat) (r : VReg) : (setV s n r).t.reservation = s.t.reservation := rfl
@[simp] theorem setV_t_gen (n : Nat) (r : VReg) : (setV s n r).t.gen = s.t.gen := rfl
@[simp] theorem setV_t_queue (n : Nat) (r : VReg) : (setV s n r).t.queue = s.t.queue := rfl
@[simp] theorem setV_t_replay (n : Nat) (r : VReg) : (setV s n r).t.replay = s.t.replay := rfl
@[simp] theorem setV_t_claims (n : Nat) (r : VReg) : (setV s n r).t.claims = s.t.claims := rfl
@[simp] theorem setV_t_unfold (n : Nat) (r : VReg) : (setV s n r).t.unfold = s.t.unfold := rfl
@[simp] theorem setV_t_qclock (n : Nat) (r : VReg) : (setV s n r).t.qclock = s.t.qclock := rfl
@[simp] theorem setV_t_sclock (n : Nat) (r : VReg) : (setV s n r).t.sclock = s.t.sclock := rfl
@[simp] theorem setV_t_seen (n : Nat) (r : VReg) : (setV s n r).t.seen = s.t.seen := rfl
@[simp] theorem setV_t_seenV (n : Nat) (r : VReg) : (setV s n r).t.seenV = s.t.seenV := rfl
@[simp] theorem setV_t_unfenced (n : Nat) (r : VReg) : (setV s n r).t.unfenced = s.t.unfenced := rfl
@[simp] theorem setV_t_preempt (n : Nat) (r : VReg) : (setV s n r).t.preempt = s.t.preempt := rfl
@[simp] theorem setV_t_watchdog (n : Nat) (r : VReg) : (setV s n r).t.watchdog = s.t.watchdog := rfl
@[simp] theorem setV_t_storeTraps (n : Nat) (r : VReg) : (setV s n r).t.storeTraps = s.t.storeTraps := rfl
@[simp] theorem setV_t_firmware (n : Nat) (r : VReg) : (setV s n r).t.firmware = s.t.firmware := rfl
@[simp] theorem setV_t_waiting (n : Nat) (r : VReg) : (setV s n r).t.waiting = s.t.waiting := rfl
@[simp] theorem setV_t_failing (n : Nat) (r : VReg) : (setV s n r).t.failing = s.t.failing := rfl
@[simp] theorem setV_t_vectorTurn (n : Nat) (r : VReg) : (setV s n r).t.vectorTurn = s.t.vectorTurn := rfl
@[simp] theorem setV_t_place (n : Nat) (r : VReg) : (setV s n r).t.place = s.t.place := rfl
@[simp] theorem setV_t_peek (n : Nat) (r : VReg) : (setV s n r).t.peek = s.t.peek := rfl
@[simp] theorem setV_t_upto (n : Nat) (r : VReg) : (setV s n r).t.upto = s.t.upto := rfl
@[simp] theorem setV_t_heldUntil (n : Nat) (r : VReg) : (setV s n r).t.heldUntil = s.t.heldUntil := rfl
@[simp] theorem setV_t_framing (n : Nat) (r : VReg) : (setV s n r).t.framing = s.t.framing := rfl
@[simp] theorem setV_t_sbaseNow (n : Nat) (r : VReg) : (setV s n r).t.sbaseNow = s.t.sbaseNow := rfl
@[simp] theorem setV_t_sdescNow (n : Nat) (r : VReg) : (setV s n r).t.sdescNow = s.t.sdescNow := rfl
@[simp] theorem setV_t_xbad (n : Nat) (r : VReg) : (setV s n r).t.xbad = s.t.xbad := rfl
@[simp] theorem setV_t_vbad (n : Nat) (r : VReg) : (setV s n r).t.vbad = s.t.vbad := rfl
@[simp] theorem setV_t_kbad (n : Nat) (r : VReg) : (setV s n r).t.kbad = s.t.kbad := rfl
@[simp] theorem setV_t_wake (n : Nat) (r : VReg) : (setV s n r).t.wake = s.t.wake := rfl
@[simp] theorem setV_t_bound (n : Nat) (r : VReg) : (setV s n r).t.bound = s.t.bound := rfl
@[simp] theorem setV_t_locks (n : Nat) (r : VReg) : (setV s n r).t.locks = s.t.locks := rfl
@[simp] theorem setV_t_ctxState (n : Nat) (r : VReg) : (setV s n r).t.ctxState = s.t.ctxState := rfl
@[simp] theorem setV_t_pend (n : Nat) (r : VReg) : (setV s n r).t.pend = s.t.pend := rfl
@[simp] theorem setV_t_task (n : Nat) (r : VReg) : (setV s n r).t.task = s.t.task := rfl

/-! The strand after `setK` -/

@[simp] theorem setK_t_x (n : KReg) (b : KBits) : (setK s n b).t.x = s.t.x := by unfold setK; split <;> rfl
@[simp] theorem setK_t_pc (n : KReg) (b : KBits) : (setK s n b).t.pc = s.t.pc := by unfold setK; split <;> rfl
@[simp] theorem setK_t_v (n : KReg) (b : KBits) : (setK s n b).t.v = s.t.v := by unfold setK; split <;> rfl
@[simp] theorem setK_t_pending (n : KReg) (b : KBits) : (setK s n b).t.pending = s.t.pending := by unfold setK; split <;> rfl
@[simp] theorem setK_t_granted (n : KReg) (b : KBits) : (setK s n b).t.granted = s.t.granted := by unfold setK; split <;> rfl
@[simp] theorem setK_t_vl (n : KReg) (b : KBits) : (setK s n b).t.vl = s.t.vl := by unfold setK; split <;> rfl
@[simp] theorem setK_t_vcfg (n : KReg) (b : KBits) : (setK s n b).t.vcfg = s.t.vcfg := by unfold setK; split <;> rfl
@[simp] theorem setK_t_vkey (n : KReg) (b : KBits) : (setK s n b).t.vkey = s.t.vkey := by unfold setK; split <;> rfl
@[simp] theorem setK_t_vstat (n : KReg) (b : KBits) : (setK s n b).t.vstat = s.t.vstat := by unfold setK; split <;> rfl
@[simp] theorem setK_t_vmcnt (n : KReg) (b : KBits) : (setK s n b).t.vmcnt = s.t.vmcnt := by unfold setK; split <;> rfl
@[simp] theorem setK_t_vtrows (n : KReg) (b : KBits) : (setK s n b).t.vtrows = s.t.vtrows := by unfold setK; split <;> rfl
@[simp] theorem setK_t_vrthr (n : KReg) (b : KBits) : (setK s n b).t.vrthr = s.t.vrthr := by unfold setK; split <;> rfl
@[simp] theorem setK_t_ctags (n : KReg) (b : KBits) : (setK s n b).t.ctags = s.t.ctags := by unfold setK; split <;> rfl
@[simp] theorem setK_t_cfault (n : KReg) (b : KBits) : (setK s n b).t.cfault = s.t.cfault := by unfold setK; split <;> rfl
@[simp] theorem setK_t_vcpPc (n : KReg) (b : KBits) : (setK s n b).t.vcpPc = s.t.vcpPc := by unfold setK; split <;> rfl
@[simp] theorem setK_t_share (n : KReg) (b : KBits) : (setK s n b).t.share = s.t.share := by unfold setK; split <;> rfl
@[simp] theorem setK_t_nextShare (n : KReg) (b : KBits) : (setK s n b).t.nextShare = s.t.nextShare := by unfold setK; split <;> rfl
@[simp] theorem setK_t_weight (n : KReg) (b : KBits) : (setK s n b).t.weight = s.t.weight := by unfold setK; split <;> rfl
@[simp] theorem setK_t_fmtb (n : KReg) (b : KBits) : (setK s n b).t.fmtb = s.t.fmtb := by unfold setK; split <;> rfl
@[simp] theorem setK_t_datp (n : KReg) (b : KBits) : (setK s n b).t.datp = s.t.datp := by unfold setK; split <;> rfl
@[simp] theorem setK_t_sbase (n : KReg) (b : KBits) : (setK s n b).t.sbase = s.t.sbase := by unfold setK; split <;> rfl
@[simp] theorem setK_t_sdesc (n : KReg) (b : KBits) : (setK s n b).t.sdesc = s.t.sdesc := by unfold setK; split <;> rfl
@[simp] theorem setK_t_mode (n : KReg) (b : KBits) : (setK s n b).t.mode = s.t.mode := by unfold setK; split <;> rfl
@[simp] theorem setK_t_mstatus (n : KReg) (b : KBits) : (setK s n b).t.mstatus = s.t.mstatus := by unfold setK; split <;> rfl
@[simp] theorem setK_t_medeleg (n : KReg) (b : KBits) : (setK s n b).t.medeleg = s.t.medeleg := by unfold setK; split <;> rfl
@[simp] theorem setK_t_mideleg (n : KReg) (b : KBits) : (setK s n b).t.mideleg = s.t.mideleg := by unfold setK; split <;> rfl
@[simp] theorem setK_t_mie (n : KReg) (b : KBits) : (setK s n b).t.mie = s.t.mie := by unfold setK; split <;> rfl
@[simp] theorem setK_t_ssip (n : KReg) (b : KBits) : (setK s n b).t.ssip = s.t.ssip := by unfold setK; split <;> rfl
@[simp] theorem setK_t_mtvec (n : KReg) (b : KBits) : (setK s n b).t.mtvec = s.t.mtvec := by unfold setK; split <;> rfl
@[simp] theorem setK_t_mscratch (n : KReg) (b : KBits) : (setK s n b).t.mscratch = s.t.mscratch := by unfold setK; split <;> rfl
@[simp] theorem setK_t_mepc (n : KReg) (b : KBits) : (setK s n b).t.mepc = s.t.mepc := by unfold setK; split <;> rfl
@[simp] theorem setK_t_mcause (n : KReg) (b : KBits) : (setK s n b).t.mcause = s.t.mcause := by unfold setK; split <;> rfl
@[simp] theorem setK_t_mtval (n : KReg) (b : KBits) : (setK s n b).t.mtval = s.t.mtval := by unfold setK; split <;> rfl
@[simp] theorem setK_t_mcounteren (n : KReg) (b : KBits) : (setK s n b).t.mcounteren = s.t.mcounteren := by unfold setK; split <;> rfl
@[simp] theorem setK_t_mcountinhibit (n : KReg) (b : KBits) : (setK s n b).t.mcountinhibit = s.t.mcountinhibit := by unfold setK; split <;> rfl
@[simp] theorem setK_t_menvcfg (n : KReg) (b : KBits) : (setK s n b).t.menvcfg = s.t.menvcfg := by unfold setK; split <;> rfl
@[simp] theorem setK_t_mcycle (n : KReg) (b : KBits) : (setK s n b).t.mcycle = s.t.mcycle := by unfold setK; split <;> rfl
@[simp] theorem setK_t_minstret (n : KReg) (b : KBits) : (setK s n b).t.minstret = s.t.minstret := by unfold setK; split <;> rfl
@[simp] theorem setK_t_stvec (n : KReg) (b : KBits) : (setK s n b).t.stvec = s.t.stvec := by unfold setK; split <;> rfl
@[simp] theorem setK_t_sscratch (n : KReg) (b : KBits) : (setK s n b).t.sscratch = s.t.sscratch := by unfold setK; split <;> rfl
@[simp] theorem setK_t_sepc (n : KReg) (b : KBits) : (setK s n b).t.sepc = s.t.sepc := by unfold setK; split <;> rfl
@[simp] theorem setK_t_scause (n : KReg) (b : KBits) : (setK s n b).t.scause = s.t.scause := by unfold setK; split <;> rfl
@[simp] theorem setK_t_stval (n : KReg) (b : KBits) : (setK s n b).t.stval = s.t.stval := by unfold setK; split <;> rfl
@[simp] theorem setK_t_scounteren (n : KReg) (b : KBits) : (setK s n b).t.scounteren = s.t.scounteren := by unfold setK; split <;> rfl
@[simp] theorem setK_t_senvcfg (n : KReg) (b : KBits) : (setK s n b).t.senvcfg = s.t.senvcfg := by unfold setK; split <;> rfl
@[simp] theorem setK_t_stimecmp (n : KReg) (b : KBits) : (setK s n b).t.stimecmp = s.t.stimecmp := by unfold setK; split <;> rfl
@[simp] theorem setK_t_reservation (n : KReg) (b : KBits) : (setK s n b).t.reservation = s.t.reservation := by unfold setK; split <;> rfl
@[simp] theorem setK_t_gen (n : KReg) (b : KBits) : (setK s n b).t.gen = s.t.gen := by unfold setK; split <;> rfl
@[simp] theorem setK_t_queue (n : KReg) (b : KBits) : (setK s n b).t.queue = s.t.queue := by unfold setK; split <;> rfl
@[simp] theorem setK_t_replay (n : KReg) (b : KBits) : (setK s n b).t.replay = s.t.replay := by unfold setK; split <;> rfl
@[simp] theorem setK_t_claims (n : KReg) (b : KBits) : (setK s n b).t.claims = s.t.claims := by unfold setK; split <;> rfl
@[simp] theorem setK_t_unfold (n : KReg) (b : KBits) : (setK s n b).t.unfold = s.t.unfold := by unfold setK; split <;> rfl
@[simp] theorem setK_t_qclock (n : KReg) (b : KBits) : (setK s n b).t.qclock = s.t.qclock := by unfold setK; split <;> rfl
@[simp] theorem setK_t_sclock (n : KReg) (b : KBits) : (setK s n b).t.sclock = s.t.sclock := by unfold setK; split <;> rfl
@[simp] theorem setK_t_seen (n : KReg) (b : KBits) : (setK s n b).t.seen = s.t.seen := by unfold setK; split <;> rfl
@[simp] theorem setK_t_seenV (n : KReg) (b : KBits) : (setK s n b).t.seenV = s.t.seenV := by unfold setK; split <;> rfl
@[simp] theorem setK_t_unfenced (n : KReg) (b : KBits) : (setK s n b).t.unfenced = s.t.unfenced := by unfold setK; split <;> rfl
@[simp] theorem setK_t_preempt (n : KReg) (b : KBits) : (setK s n b).t.preempt = s.t.preempt := by unfold setK; split <;> rfl
@[simp] theorem setK_t_watchdog (n : KReg) (b : KBits) : (setK s n b).t.watchdog = s.t.watchdog := by unfold setK; split <;> rfl
@[simp] theorem setK_t_storeTraps (n : KReg) (b : KBits) : (setK s n b).t.storeTraps = s.t.storeTraps := by unfold setK; split <;> rfl
@[simp] theorem setK_t_firmware (n : KReg) (b : KBits) : (setK s n b).t.firmware = s.t.firmware := by unfold setK; split <;> rfl
@[simp] theorem setK_t_waiting (n : KReg) (b : KBits) : (setK s n b).t.waiting = s.t.waiting := by unfold setK; split <;> rfl
@[simp] theorem setK_t_failing (n : KReg) (b : KBits) : (setK s n b).t.failing = s.t.failing := by unfold setK; split <;> rfl
@[simp] theorem setK_t_vectorTurn (n : KReg) (b : KBits) : (setK s n b).t.vectorTurn = s.t.vectorTurn := by unfold setK; split <;> rfl
@[simp] theorem setK_t_place (n : KReg) (b : KBits) : (setK s n b).t.place = s.t.place := by unfold setK; split <;> rfl
@[simp] theorem setK_t_peek (n : KReg) (b : KBits) : (setK s n b).t.peek = s.t.peek := by unfold setK; split <;> rfl
@[simp] theorem setK_t_upto (n : KReg) (b : KBits) : (setK s n b).t.upto = s.t.upto := by unfold setK; split <;> rfl
@[simp] theorem setK_t_heldUntil (n : KReg) (b : KBits) : (setK s n b).t.heldUntil = s.t.heldUntil := by unfold setK; split <;> rfl
@[simp] theorem setK_t_framing (n : KReg) (b : KBits) : (setK s n b).t.framing = s.t.framing := by unfold setK; split <;> rfl
@[simp] theorem setK_t_sbaseNow (n : KReg) (b : KBits) : (setK s n b).t.sbaseNow = s.t.sbaseNow := by unfold setK; split <;> rfl
@[simp] theorem setK_t_sdescNow (n : KReg) (b : KBits) : (setK s n b).t.sdescNow = s.t.sdescNow := by unfold setK; split <;> rfl
@[simp] theorem setK_t_xbad (n : KReg) (b : KBits) : (setK s n b).t.xbad = s.t.xbad := by unfold setK; split <;> rfl
@[simp] theorem setK_t_vbad (n : KReg) (b : KBits) : (setK s n b).t.vbad = s.t.vbad := by unfold setK; split <;> rfl
@[simp] theorem setK_t_kbad (n : KReg) (b : KBits) : (setK s n b).t.kbad = s.t.kbad := by unfold setK; split <;> rfl
@[simp] theorem setK_t_wake (n : KReg) (b : KBits) : (setK s n b).t.wake = s.t.wake := by unfold setK; split <;> rfl
@[simp] theorem setK_t_bound (n : KReg) (b : KBits) : (setK s n b).t.bound = s.t.bound := by unfold setK; split <;> rfl
@[simp] theorem setK_t_locks (n : KReg) (b : KBits) : (setK s n b).t.locks = s.t.locks := by unfold setK; split <;> rfl
@[simp] theorem setK_t_ctxState (n : KReg) (b : KBits) : (setK s n b).t.ctxState = s.t.ctxState := by unfold setK; split <;> rfl
@[simp] theorem setK_t_pend (n : KReg) (b : KBits) : (setK s n b).t.pend = s.t.pend := by unfold setK; split <;> rfl
@[simp] theorem setK_t_task (n : KReg) (b : KBits) : (setK s n b).t.task = s.t.task := by unfold setK; split <;> rfl

/-! The strand after `orFlags` -/

@[simp] theorem orFlags_t_x (f : Flags) : (orFlags s f).t.x = s.t.x := rfl
@[simp] theorem orFlags_t_pc (f : Flags) : (orFlags s f).t.pc = s.t.pc := rfl
@[simp] theorem orFlags_t_v (f : Flags) : (orFlags s f).t.v = s.t.v := rfl
@[simp] theorem orFlags_t_k (f : Flags) : (orFlags s f).t.k = s.t.k := rfl
@[simp] theorem orFlags_t_pending (f : Flags) : (orFlags s f).t.pending = s.t.pending := rfl
@[simp] theorem orFlags_t_granted (f : Flags) : (orFlags s f).t.granted = s.t.granted := rfl
@[simp] theorem orFlags_t_vl (f : Flags) : (orFlags s f).t.vl = s.t.vl := rfl
@[simp] theorem orFlags_t_vcfg (f : Flags) : (orFlags s f).t.vcfg = s.t.vcfg := rfl
@[simp] theorem orFlags_t_vkey (f : Flags) : (orFlags s f).t.vkey = s.t.vkey := rfl
@[simp] theorem orFlags_t_vmcnt (f : Flags) : (orFlags s f).t.vmcnt = s.t.vmcnt := rfl
@[simp] theorem orFlags_t_vtrows (f : Flags) : (orFlags s f).t.vtrows = s.t.vtrows := rfl
@[simp] theorem orFlags_t_vrthr (f : Flags) : (orFlags s f).t.vrthr = s.t.vrthr := rfl
@[simp] theorem orFlags_t_ctags (f : Flags) : (orFlags s f).t.ctags = s.t.ctags := rfl
@[simp] theorem orFlags_t_cfault (f : Flags) : (orFlags s f).t.cfault = s.t.cfault := rfl
@[simp] theorem orFlags_t_vcpPc (f : Flags) : (orFlags s f).t.vcpPc = s.t.vcpPc := rfl
@[simp] theorem orFlags_t_share (f : Flags) : (orFlags s f).t.share = s.t.share := rfl
@[simp] theorem orFlags_t_nextShare (f : Flags) : (orFlags s f).t.nextShare = s.t.nextShare := rfl
@[simp] theorem orFlags_t_weight (f : Flags) : (orFlags s f).t.weight = s.t.weight := rfl
@[simp] theorem orFlags_t_fmtb (f : Flags) : (orFlags s f).t.fmtb = s.t.fmtb := rfl
@[simp] theorem orFlags_t_datp (f : Flags) : (orFlags s f).t.datp = s.t.datp := rfl
@[simp] theorem orFlags_t_sbase (f : Flags) : (orFlags s f).t.sbase = s.t.sbase := rfl
@[simp] theorem orFlags_t_sdesc (f : Flags) : (orFlags s f).t.sdesc = s.t.sdesc := rfl
@[simp] theorem orFlags_t_mode (f : Flags) : (orFlags s f).t.mode = s.t.mode := rfl
@[simp] theorem orFlags_t_mstatus (f : Flags) : (orFlags s f).t.mstatus = s.t.mstatus := rfl
@[simp] theorem orFlags_t_medeleg (f : Flags) : (orFlags s f).t.medeleg = s.t.medeleg := rfl
@[simp] theorem orFlags_t_mideleg (f : Flags) : (orFlags s f).t.mideleg = s.t.mideleg := rfl
@[simp] theorem orFlags_t_mie (f : Flags) : (orFlags s f).t.mie = s.t.mie := rfl
@[simp] theorem orFlags_t_ssip (f : Flags) : (orFlags s f).t.ssip = s.t.ssip := rfl
@[simp] theorem orFlags_t_mtvec (f : Flags) : (orFlags s f).t.mtvec = s.t.mtvec := rfl
@[simp] theorem orFlags_t_mscratch (f : Flags) : (orFlags s f).t.mscratch = s.t.mscratch := rfl
@[simp] theorem orFlags_t_mepc (f : Flags) : (orFlags s f).t.mepc = s.t.mepc := rfl
@[simp] theorem orFlags_t_mcause (f : Flags) : (orFlags s f).t.mcause = s.t.mcause := rfl
@[simp] theorem orFlags_t_mtval (f : Flags) : (orFlags s f).t.mtval = s.t.mtval := rfl
@[simp] theorem orFlags_t_mcounteren (f : Flags) : (orFlags s f).t.mcounteren = s.t.mcounteren := rfl
@[simp] theorem orFlags_t_mcountinhibit (f : Flags) : (orFlags s f).t.mcountinhibit = s.t.mcountinhibit := rfl
@[simp] theorem orFlags_t_menvcfg (f : Flags) : (orFlags s f).t.menvcfg = s.t.menvcfg := rfl
@[simp] theorem orFlags_t_mcycle (f : Flags) : (orFlags s f).t.mcycle = s.t.mcycle := rfl
@[simp] theorem orFlags_t_minstret (f : Flags) : (orFlags s f).t.minstret = s.t.minstret := rfl
@[simp] theorem orFlags_t_stvec (f : Flags) : (orFlags s f).t.stvec = s.t.stvec := rfl
@[simp] theorem orFlags_t_sscratch (f : Flags) : (orFlags s f).t.sscratch = s.t.sscratch := rfl
@[simp] theorem orFlags_t_sepc (f : Flags) : (orFlags s f).t.sepc = s.t.sepc := rfl
@[simp] theorem orFlags_t_scause (f : Flags) : (orFlags s f).t.scause = s.t.scause := rfl
@[simp] theorem orFlags_t_stval (f : Flags) : (orFlags s f).t.stval = s.t.stval := rfl
@[simp] theorem orFlags_t_scounteren (f : Flags) : (orFlags s f).t.scounteren = s.t.scounteren := rfl
@[simp] theorem orFlags_t_senvcfg (f : Flags) : (orFlags s f).t.senvcfg = s.t.senvcfg := rfl
@[simp] theorem orFlags_t_stimecmp (f : Flags) : (orFlags s f).t.stimecmp = s.t.stimecmp := rfl
@[simp] theorem orFlags_t_reservation (f : Flags) : (orFlags s f).t.reservation = s.t.reservation := rfl
@[simp] theorem orFlags_t_gen (f : Flags) : (orFlags s f).t.gen = s.t.gen := rfl
@[simp] theorem orFlags_t_queue (f : Flags) : (orFlags s f).t.queue = s.t.queue := rfl
@[simp] theorem orFlags_t_replay (f : Flags) : (orFlags s f).t.replay = s.t.replay := rfl
@[simp] theorem orFlags_t_claims (f : Flags) : (orFlags s f).t.claims = s.t.claims := rfl
@[simp] theorem orFlags_t_unfold (f : Flags) : (orFlags s f).t.unfold = s.t.unfold := rfl
@[simp] theorem orFlags_t_qclock (f : Flags) : (orFlags s f).t.qclock = s.t.qclock := rfl
@[simp] theorem orFlags_t_sclock (f : Flags) : (orFlags s f).t.sclock = s.t.sclock := rfl
@[simp] theorem orFlags_t_seen (f : Flags) : (orFlags s f).t.seen = s.t.seen := rfl
@[simp] theorem orFlags_t_seenV (f : Flags) : (orFlags s f).t.seenV = s.t.seenV := rfl
@[simp] theorem orFlags_t_unfenced (f : Flags) : (orFlags s f).t.unfenced = s.t.unfenced := rfl
@[simp] theorem orFlags_t_preempt (f : Flags) : (orFlags s f).t.preempt = s.t.preempt := rfl
@[simp] theorem orFlags_t_watchdog (f : Flags) : (orFlags s f).t.watchdog = s.t.watchdog := rfl
@[simp] theorem orFlags_t_storeTraps (f : Flags) : (orFlags s f).t.storeTraps = s.t.storeTraps := rfl
@[simp] theorem orFlags_t_firmware (f : Flags) : (orFlags s f).t.firmware = s.t.firmware := rfl
@[simp] theorem orFlags_t_waiting (f : Flags) : (orFlags s f).t.waiting = s.t.waiting := rfl
@[simp] theorem orFlags_t_failing (f : Flags) : (orFlags s f).t.failing = s.t.failing := rfl
@[simp] theorem orFlags_t_vectorTurn (f : Flags) : (orFlags s f).t.vectorTurn = s.t.vectorTurn := rfl
@[simp] theorem orFlags_t_place (f : Flags) : (orFlags s f).t.place = s.t.place := rfl
@[simp] theorem orFlags_t_peek (f : Flags) : (orFlags s f).t.peek = s.t.peek := rfl
@[simp] theorem orFlags_t_upto (f : Flags) : (orFlags s f).t.upto = s.t.upto := rfl
@[simp] theorem orFlags_t_heldUntil (f : Flags) : (orFlags s f).t.heldUntil = s.t.heldUntil := rfl
@[simp] theorem orFlags_t_framing (f : Flags) : (orFlags s f).t.framing = s.t.framing := rfl
@[simp] theorem orFlags_t_sbaseNow (f : Flags) : (orFlags s f).t.sbaseNow = s.t.sbaseNow := rfl
@[simp] theorem orFlags_t_sdescNow (f : Flags) : (orFlags s f).t.sdescNow = s.t.sdescNow := rfl
@[simp] theorem orFlags_t_xbad (f : Flags) : (orFlags s f).t.xbad = s.t.xbad := rfl
@[simp] theorem orFlags_t_vbad (f : Flags) : (orFlags s f).t.vbad = s.t.vbad := rfl
@[simp] theorem orFlags_t_kbad (f : Flags) : (orFlags s f).t.kbad = s.t.kbad := rfl
@[simp] theorem orFlags_t_wake (f : Flags) : (orFlags s f).t.wake = s.t.wake := rfl
@[simp] theorem orFlags_t_bound (f : Flags) : (orFlags s f).t.bound = s.t.bound := rfl
@[simp] theorem orFlags_t_locks (f : Flags) : (orFlags s f).t.locks = s.t.locks := rfl
@[simp] theorem orFlags_t_ctxState (f : Flags) : (orFlags s f).t.ctxState = s.t.ctxState := rfl
@[simp] theorem orFlags_t_pend (f : Flags) : (orFlags s f).t.pend = s.t.pend := rfl
@[simp] theorem orFlags_t_task (f : Flags) : (orFlags s f).t.task = s.t.task := rfl

/-! The strand after `retireTo` -/

@[simp] theorem retireTo_t_x (pc : Word) : (retireTo s pc).t.x = s.t.x := rfl
@[simp] theorem retireTo_t_v (pc : Word) : (retireTo s pc).t.v = s.t.v := rfl
@[simp] theorem retireTo_t_k (pc : Word) : (retireTo s pc).t.k = s.t.k := rfl
@[simp] theorem retireTo_t_pending (pc : Word) : (retireTo s pc).t.pending = s.t.pending := rfl
@[simp] theorem retireTo_t_granted (pc : Word) : (retireTo s pc).t.granted = s.t.granted := rfl
@[simp] theorem retireTo_t_vl (pc : Word) : (retireTo s pc).t.vl = s.t.vl := rfl
@[simp] theorem retireTo_t_vcfg (pc : Word) : (retireTo s pc).t.vcfg = s.t.vcfg := rfl
@[simp] theorem retireTo_t_vkey (pc : Word) : (retireTo s pc).t.vkey = s.t.vkey := rfl
@[simp] theorem retireTo_t_vstat (pc : Word) : (retireTo s pc).t.vstat = s.t.vstat := rfl
@[simp] theorem retireTo_t_vmcnt (pc : Word) : (retireTo s pc).t.vmcnt = s.t.vmcnt := rfl
@[simp] theorem retireTo_t_vtrows (pc : Word) : (retireTo s pc).t.vtrows = s.t.vtrows := rfl
@[simp] theorem retireTo_t_vrthr (pc : Word) : (retireTo s pc).t.vrthr = s.t.vrthr := rfl
@[simp] theorem retireTo_t_ctags (pc : Word) : (retireTo s pc).t.ctags = s.t.ctags := rfl
@[simp] theorem retireTo_t_cfault (pc : Word) : (retireTo s pc).t.cfault = s.t.cfault := rfl
@[simp] theorem retireTo_t_vcpPc (pc : Word) : (retireTo s pc).t.vcpPc = s.t.vcpPc := rfl
@[simp] theorem retireTo_t_share (pc : Word) : (retireTo s pc).t.share = s.t.share := rfl
@[simp] theorem retireTo_t_nextShare (pc : Word) : (retireTo s pc).t.nextShare = s.t.nextShare := rfl
@[simp] theorem retireTo_t_weight (pc : Word) : (retireTo s pc).t.weight = s.t.weight := rfl
@[simp] theorem retireTo_t_fmtb (pc : Word) : (retireTo s pc).t.fmtb = s.t.fmtb := rfl
@[simp] theorem retireTo_t_datp (pc : Word) : (retireTo s pc).t.datp = s.t.datp := rfl
@[simp] theorem retireTo_t_sbase (pc : Word) : (retireTo s pc).t.sbase = s.t.sbase := rfl
@[simp] theorem retireTo_t_sdesc (pc : Word) : (retireTo s pc).t.sdesc = s.t.sdesc := rfl
@[simp] theorem retireTo_t_mode (pc : Word) : (retireTo s pc).t.mode = s.t.mode := rfl
@[simp] theorem retireTo_t_mstatus (pc : Word) : (retireTo s pc).t.mstatus = s.t.mstatus := rfl
@[simp] theorem retireTo_t_medeleg (pc : Word) : (retireTo s pc).t.medeleg = s.t.medeleg := rfl
@[simp] theorem retireTo_t_mideleg (pc : Word) : (retireTo s pc).t.mideleg = s.t.mideleg := rfl
@[simp] theorem retireTo_t_mie (pc : Word) : (retireTo s pc).t.mie = s.t.mie := rfl
@[simp] theorem retireTo_t_ssip (pc : Word) : (retireTo s pc).t.ssip = s.t.ssip := rfl
@[simp] theorem retireTo_t_mtvec (pc : Word) : (retireTo s pc).t.mtvec = s.t.mtvec := rfl
@[simp] theorem retireTo_t_mscratch (pc : Word) : (retireTo s pc).t.mscratch = s.t.mscratch := rfl
@[simp] theorem retireTo_t_mepc (pc : Word) : (retireTo s pc).t.mepc = s.t.mepc := rfl
@[simp] theorem retireTo_t_mcause (pc : Word) : (retireTo s pc).t.mcause = s.t.mcause := rfl
@[simp] theorem retireTo_t_mtval (pc : Word) : (retireTo s pc).t.mtval = s.t.mtval := rfl
@[simp] theorem retireTo_t_mcounteren (pc : Word) : (retireTo s pc).t.mcounteren = s.t.mcounteren := rfl
@[simp] theorem retireTo_t_mcountinhibit (pc : Word) : (retireTo s pc).t.mcountinhibit = s.t.mcountinhibit := rfl
@[simp] theorem retireTo_t_menvcfg (pc : Word) : (retireTo s pc).t.menvcfg = s.t.menvcfg := rfl
@[simp] theorem retireTo_t_mcycle (pc : Word) : (retireTo s pc).t.mcycle = s.t.mcycle := rfl
@[simp] theorem retireTo_t_stvec (pc : Word) : (retireTo s pc).t.stvec = s.t.stvec := rfl
@[simp] theorem retireTo_t_sscratch (pc : Word) : (retireTo s pc).t.sscratch = s.t.sscratch := rfl
@[simp] theorem retireTo_t_sepc (pc : Word) : (retireTo s pc).t.sepc = s.t.sepc := rfl
@[simp] theorem retireTo_t_scause (pc : Word) : (retireTo s pc).t.scause = s.t.scause := rfl
@[simp] theorem retireTo_t_stval (pc : Word) : (retireTo s pc).t.stval = s.t.stval := rfl
@[simp] theorem retireTo_t_scounteren (pc : Word) : (retireTo s pc).t.scounteren = s.t.scounteren := rfl
@[simp] theorem retireTo_t_senvcfg (pc : Word) : (retireTo s pc).t.senvcfg = s.t.senvcfg := rfl
@[simp] theorem retireTo_t_stimecmp (pc : Word) : (retireTo s pc).t.stimecmp = s.t.stimecmp := rfl
@[simp] theorem retireTo_t_reservation (pc : Word) : (retireTo s pc).t.reservation = s.t.reservation := rfl
@[simp] theorem retireTo_t_gen (pc : Word) : (retireTo s pc).t.gen = s.t.gen := rfl
@[simp] theorem retireTo_t_queue (pc : Word) : (retireTo s pc).t.queue = s.t.queue := rfl
@[simp] theorem retireTo_t_replay (pc : Word) : (retireTo s pc).t.replay = s.t.replay := rfl
@[simp] theorem retireTo_t_claims (pc : Word) : (retireTo s pc).t.claims = s.t.claims := rfl
@[simp] theorem retireTo_t_unfold (pc : Word) : (retireTo s pc).t.unfold = s.t.unfold := rfl
@[simp] theorem retireTo_t_qclock (pc : Word) : (retireTo s pc).t.qclock = s.t.qclock := rfl
@[simp] theorem retireTo_t_sclock (pc : Word) : (retireTo s pc).t.sclock = s.t.sclock := rfl
@[simp] theorem retireTo_t_seen (pc : Word) : (retireTo s pc).t.seen = s.t.seen := rfl
@[simp] theorem retireTo_t_seenV (pc : Word) : (retireTo s pc).t.seenV = s.t.seenV := rfl
@[simp] theorem retireTo_t_unfenced (pc : Word) : (retireTo s pc).t.unfenced = s.t.unfenced := rfl
@[simp] theorem retireTo_t_preempt (pc : Word) : (retireTo s pc).t.preempt = s.t.preempt := rfl
@[simp] theorem retireTo_t_watchdog (pc : Word) : (retireTo s pc).t.watchdog = s.t.watchdog := rfl
@[simp] theorem retireTo_t_storeTraps (pc : Word) : (retireTo s pc).t.storeTraps = s.t.storeTraps := rfl
@[simp] theorem retireTo_t_firmware (pc : Word) : (retireTo s pc).t.firmware = s.t.firmware := rfl
@[simp] theorem retireTo_t_waiting (pc : Word) : (retireTo s pc).t.waiting = s.t.waiting := rfl
@[simp] theorem retireTo_t_failing (pc : Word) : (retireTo s pc).t.failing = s.t.failing := rfl
@[simp] theorem retireTo_t_vectorTurn (pc : Word) : (retireTo s pc).t.vectorTurn = s.t.vectorTurn := rfl
@[simp] theorem retireTo_t_place (pc : Word) : (retireTo s pc).t.place = s.t.place := rfl
@[simp] theorem retireTo_t_peek (pc : Word) : (retireTo s pc).t.peek = s.t.peek := rfl
@[simp] theorem retireTo_t_upto (pc : Word) : (retireTo s pc).t.upto = s.t.upto := rfl
@[simp] theorem retireTo_t_heldUntil (pc : Word) : (retireTo s pc).t.heldUntil = s.t.heldUntil := rfl
@[simp] theorem retireTo_t_framing (pc : Word) : (retireTo s pc).t.framing = s.t.framing := rfl
@[simp] theorem retireTo_t_sbaseNow (pc : Word) : (retireTo s pc).t.sbaseNow = s.t.sbaseNow := rfl
@[simp] theorem retireTo_t_sdescNow (pc : Word) : (retireTo s pc).t.sdescNow = s.t.sdescNow := rfl
@[simp] theorem retireTo_t_xbad (pc : Word) : (retireTo s pc).t.xbad = s.t.xbad := rfl
@[simp] theorem retireTo_t_vbad (pc : Word) : (retireTo s pc).t.vbad = s.t.vbad := rfl
@[simp] theorem retireTo_t_kbad (pc : Word) : (retireTo s pc).t.kbad = s.t.kbad := rfl
@[simp] theorem retireTo_t_wake (pc : Word) : (retireTo s pc).t.wake = s.t.wake := rfl
@[simp] theorem retireTo_t_bound (pc : Word) : (retireTo s pc).t.bound = s.t.bound := rfl
@[simp] theorem retireTo_t_locks (pc : Word) : (retireTo s pc).t.locks = s.t.locks := rfl
@[simp] theorem retireTo_t_ctxState (pc : Word) : (retireTo s pc).t.ctxState = s.t.ctxState := rfl
@[simp] theorem retireTo_t_pend (pc : Word) : (retireTo s pc).t.pend = s.t.pend := rfl
@[simp] theorem retireTo_t_task (pc : Word) : (retireTo s pc).t.task = s.t.task := rfl

/-! What the updates write -/

@[simp] theorem retireTo_t_pc (pc : Word) : (retireTo s pc).t.pc = pc := rfl
@[simp] theorem retire_t_pc : (retire s).t.pc = s.t.pc + 4 := rfl
@[simp] theorem stall_stalled : (stall s).stalled = true := rfl
@[simp] theorem orFlags_t_vstat (f : Flags) : (orFlags s f).t.vstat = s.t.vstat ||| f := rfl
@[simp] theorem pokeByte_mem (loc : Nat) (b : Byte) : (pokeByte s loc b).mem = sput 0 s.mem loc b := rfl

/-- x0 discards what is written to it and reads zero (R41). -/
@[simp] theorem setX_zero (w : Word) : setX s 0 w = s := rfl
@[simp] theorem getX_zero : getX s 0 = 0 := rfl

/-- A scalar register reads as it was written, unless it is x0 (R41). -/
theorem getX_setX_same (r : Reg) (w : Word) (h : r ≠ 0) : getX (setX s r w) r = w := by
  unfold getX setX
  rw [if_neg h, if_neg h]
  exact Vector.getElem_set_self _

/-- A write to one scalar register leaves the others. -/
theorem getX_setX_other (r q : Reg) (w : Word) (h : q ≠ r) : getX (setX s r w) q = getX s q := by
  have hn : r.toNat ≠ q.toNat := fun e => h (BitVec.eq_of_toNat_eq e.symm)
  unfold getX setX
  by_cases hr : r = 0
  · rw [if_pos hr]
  · rw [if_neg hr]
    split
    · rfl
    · exact Vector.getElem_set_ne (xs := s.t.x) r.isLt q.isLt hn

/-- A vector register reads as it was written. -/
theorem getV_setV_same (n : Nat) (r : VReg) : getV (setV s n r) n = r := by
  simp [getV, setV]

/-- A write to one vector register leaves the others. -/
theorem getV_setV_other (n m : Nat) (r : VReg) (h : m % 32 ≠ n % 32) : getV (setV s n r) m = getV s m := by
  exact Vector.getElem_set_ne (xs := s.t.v) (Nat.mod_lt n (by decide)) (Nat.mod_lt m (by decide)) (Ne.symm h)

/-- A mask register reads as it was written, unless it is k0 (R41). -/
theorem getK_setK_same (n : KReg) (b : KBits) (h : n ≠ 0) : getK (setK s n b) n = b := by
  unfold getK setK
  rw [if_neg h, if_neg h]
  exact Vector.getElem_set_self _

@[simp] theorem getK_zero : getK s 0 = BitVec.allOnes 4096 := rfl
@[simp] theorem setK_zero (b : KBits) : setK s 0 b = s := rfl

end Sys2Proof.Machine
end

