-- ==== Sys2Proof/Laws/Ops.lean ====
section
/-! SUPPORT. What the shared operations can do, each said once: performing, pushing and trapping a vector instruction, scalar
traps, taking and leaving an exception, and writing a destination. -/

namespace Sys2Proof.Machine

variable (i : Instr) (xw : Bool) (body : Ctx → State → Eff) (s u : State)

/-- With nothing older in the queue and the lanes free an instruction is performed at once (R17). -/
theorem runVec_direct (hr : s.t.replay = none) (hq : s.t.queue = []) (hh : held s = false) :
    runVec i xw body s = .next (performed s { pushEntry s i with xw := xw } (body (ctxOfEntry s (pushEntry s i)) (quiet s))) := by
  simp only [runVec, hr, hq, hh, List.isEmpty_nil, Bool.not_false, Bool.and_self, if_true]

/-- One that completes retires, its flags ORed into `vstat` (R18, R146). -/
theorem runVec_ok (hr : s.t.replay = none) (hq : s.t.queue = []) (hh : held s = false)
    (h : body (ctxOfEntry s (pushEntry s i)) (quiet s) = .ok u) :
    runVec i xw body s = .next (retire { raise s u (0 ||| u.t.vstat) with t := { (raise s u (0 ||| u.t.vstat)).t with vcpPc := s.t.pc } }) := by
  rw [runVec_direct i xw body s hr hq hh, h]
  rfl

/-- One that waits is pushed; where it writes an x register the scalar stream stays at it (R17, R19). -/
theorem runVec_wait (p : Nat) (hr : s.t.replay = none) (hq : s.t.queue = []) (hh : held s = false)
    (h : body (ctxOfEntry s (pushEntry s i)) (quiet s) = .wait u p) :
    runVec i xw body s = .next (pushOrStall (raise s u 0) (waitingEntry s u { pushEntry s i with xw := xw } p)) := by
  rw [runVec_direct i xw body s hr hq hh, h]
  rfl

/-- One that traps: past it, or at it where it writes an x register (R28, R343). -/
theorem runVec_trap (c p : Nat) (tv : Word) (hr : s.t.replay = none) (hq : s.t.queue = []) (hh : held s = false)
    (h : body (ctxOfEntry s (pushEntry s i)) (quiet s) = .trap u c tv p) :
    runVec i xw body s = .next (
      let r := trapFlags s u { pushEntry s i with xw := xw }
      if xw then vectorTrap s (retireTo r.1 r.1.t.pc) r.2 [] c tv s.t.pc
      else vectorTrap s (retire r.1) { r.2 with progress := p } [] c tv (s.t.pc + 4)) := by
  rw [runVec_direct i xw body s hr hq hh, h]
  rfl

/-- Behind an older entry, or while the lanes issue nothing of the strand, an instruction is pushed (R17, R34). -/
theorem runVec_behind (hr : s.t.replay = none) (hq : s.t.queue ≠ [] ∨ held s = true) :
    runVec i xw body s = .next (pushOrStall s { pushEntry s i with xw := xw }) := by
  have : (s.t.queue.isEmpty && !held s) = false := by
    rcases hq with hq | hq
    · have : s.t.queue.isEmpty = false := by simpa using hq
      simp [this]
    · simp [hq]
  simp [runVec, hr, this]

/-- From the head of the queue an entry is performed with what it captured (R17). -/
theorem runVec_head (e : QEntry) (hr : s.t.replay = some e) (hp : s.t.place = 0) :
    runVec i xw body s = .next (performedHead s e (body (ctxOfEntry s e) (quiet s))) := by
  simp only [runVec, hr, hp, if_true]

/-- A younger entry is tried in its place (R27). -/
theorem runVec_ahead (e : QEntry) (hr : s.t.replay = some e) (hp : s.t.place ≠ 0) :
    runVec i xw body s = .next (performedAhead s s.t.place e (body (ctxOfEntry s e) (quiet s))) := by
  simp only [runVec, hr, hp, if_false]

/-- A vector instruction always has a next state. -/
theorem runVec_next : ∃ t, runVec i xw body s = .next t := by
  unfold runVec
  split <;> exact ⟨_, rfl⟩

/-- An instruction that waits for the queue to drain always has a next state. -/
theorem whenDrained_next (f : State → State) : ∃ t, whenDrained f s = .next t := ⟨_, rfl⟩

@[simp] theorem whenDrained_nil (f : State → State) (h : s.t.queue = []) : whenDrained f s = .next (f s) := by
  simp [whenDrained, h]

theorem whenDrained_cons (f : State → State) (h : s.t.queue ≠ []) : whenDrained f s = .next (stall s) := by
  have : s.t.queue.isEmpty = false := by simpa using h
  simp [whenDrained, this]

/-- A scalar trap is taken at the instruction once the queue is empty, and the instruction waits before (R343.3). -/
theorem scalarTrap_nil (c : Nat) (tv : Word) (h : s.t.queue = []) : scalarTrap s c tv = takeTrap s false c tv s.t.pc := by
  simp [scalarTrap, h]

theorem scalarTrap_cons (c : Nat) (tv : Word) (h : s.t.queue ≠ []) : scalarTrap s c tv = stall s := by
  have : s.t.queue.isEmpty = false := by simpa using h
  simp [scalarTrap, this]

/-- A vector trap of any cause but 25 takes back the younger entries, gives back the locks, and is taken (R28.4, R255, R343.2). -/
theorem vectorTrap_other (old : State) (e : QEntry) (younger : List QEntry) (c : Nat) (tv epc : Word) (h : c ≠ 25) :
    vectorTrap old s e younger c tv epc =
      let u := dropLocks { s with t := { s.t with vcpPc := e.pc, replay := none, place := 0, peek := false, upto := none } } s.gid
      takeTrap (unwind { u with t := { u.t with queue := [], bound := none } } younger) false c tv epc := by
  simp [vectorTrap, h]

/-- Before a trap only the Handle's log and the silent windows may change (R360, R396). -/
theorem noteTrap_only (intr : Bool) (c : Nat) : ∃ h w, noteTrap s intr c = { s with handle := h, timedOut := w } := by
  unfold noteTrap
  dsimp only
  split <;> split <;> exact ⟨_, _, rfl⟩

/-- What taking an exception changes of the package beyond its strand: the Handle's log, for a DATA-ERROR, and the windows that count as
silent for the strand. -/
theorem takeTrap_frame (intr : Bool) (c : Nat) (tv epc : Word) :
    takeTrap s intr c tv epc = { s with
      t := (takeTrap s intr c tv epc).t, handle := (takeTrap s intr c tv epc).handle, timedOut := (takeTrap s intr c tv epc).timedOut } := by
  obtain ⟨h, w, e⟩ := noteTrap_only s intr c
  unfold takeTrap
  simp only [e]
  split <;> rfl

/-- Taking an exception leaves every general register, and the CSRs that no trap writes. -/
theorem takeTrap_keeps (intr : Bool) (c : Nat) (tv epc : Word) :
    let t := (takeTrap s intr c tv epc).t
    t.x = s.t.x ∧ t.v = s.t.v ∧ t.k = s.t.k ∧ t.vl = s.t.vl ∧ t.vcfg = s.t.vcfg ∧ t.vkey = s.t.vkey ∧ t.vstat = s.t.vstat ∧
      t.datp = s.t.datp ∧ t.fmtb = s.t.fmtb ∧ t.stvec = s.t.stvec ∧ t.mtvec = s.t.mtvec ∧ t.medeleg = s.t.medeleg ∧
      t.mideleg = s.t.mideleg ∧ t.queue = s.t.queue ∧ t.task = s.t.task := by
  obtain ⟨h, w, e⟩ := noteTrap_only s intr c
  unfold takeTrap
  simp only [e]
  split <;> exact ⟨rfl, rfl, rfl, rfl, rfl, rfl, rfl, rfl, rfl, rfl, rfl, rfl, rfl, rfl, rfl⟩

/-- A trap to supervisor mode (R343.4, R344): what it writes. -/
theorem takeTrap_supervisor (intr : Bool) (c : Nat) (tv epc : Word) (hd : delegated s.t intr c = true) :
    let t := (takeTrap s intr c tv epc).t
    t.mode = .supervisor ∧ t.scause = causeWord intr c ∧ t.stval = tv ∧ t.sepc = epc ∧ t.pc = trapVector s.t.stvec intr c ∧
      t.gen = s.t.gen + 1 ∧ t.mcause = s.t.mcause ∧ t.mtval = s.t.mtval ∧ t.mepc = s.t.mepc ∧
      t.mstatus = putBit (putBit (putBit s.t.mstatus 5 (s.t.mstatus.getLsbD 1)) 1 false) 8 (decide (s.t.mode = .supervisor)) := by
  obtain ⟨h, w, e⟩ := noteTrap_only s intr c
  unfold takeTrap
  simp only [e, hd, if_true]
  and_intros <;> trivial

/-- A trap to machine mode (R343.4): what it writes. -/
theorem takeTrap_machine (intr : Bool) (c : Nat) (tv epc : Word) (hd : delegated s.t intr c = false) :
    let t := (takeTrap s intr c tv epc).t
    t.mode = .machine ∧ t.mcause = causeWord intr c ∧ t.mtval = tv ∧ t.mepc = epc ∧ t.pc = trapVector s.t.mtvec intr c ∧
      t.gen = s.t.gen + 1 ∧ t.scause = s.t.scause ∧ t.stval = s.t.stval ∧ t.sepc = s.t.sepc ∧ t.firmware = s.t.task.isSome ∧
      t.mstatus = putMpp (putBit (putBit s.t.mstatus 7 (s.t.mstatus.getLsbD 3)) 3 false) s.t.mode := by
  obtain ⟨h, w, e⟩ := noteTrap_only s intr c
  unfold takeTrap
  simp only [e, hd]
  and_intros <;> trivial

/-- An element-wise result at an index below VL: computed where active, kept where not; zero above (R97, R23). -/
theorem elem_mergeElems (w vl : Nat) (act : Nat → Bool) (old : VBits) (f : Nat → Nat) (j : Nat) (h : w * vl ≤ 32768) :
    elem w (mergeElems w vl act old f) j = if j < vl then (if act j then f j % 2 ^ w else elem w old j) else 0 := by
  rw [mergeElems, elem_packV _ _ _ _ h]
  by_cases hj : j < vl
  · by_cases ha : act j
    · simp [hj, ha]
    · simp [hj, ha, elem, bits]
  · simp [hj]

/-- A copy reads a location's present byte, or the one that an unfenced scalar store of its strand replaced (R248). -/
theorem sourceByte_cases (s : State) (j : CopyJob) (loc : Nat) :
    sourceByte s j loc = readByte s (dieOf j.gid) loc ∨ missedByte s j loc = some (sourceByte s j loc) := by
  cases h : missedByte s j loc with
  | none => exact .inl (by simp [sourceByte, h])
  | some b =>
    by_cases hc : (drawFam s).1 (loc / 8) % 2 = 1
    · exact .inr (by simp [sourceByte, h, hc])
    · exact .inl (by simp [sourceByte, h, hc])

/-- A copy that no unfenced store precedes misses none. -/
theorem missedByte_fenced (s : State) (j : CopyJob) (loc : Nat) (h : j.missed = []) : missedByte s j loc = none := by
  simp [missedByte, h]

end Sys2Proof.Machine
end

