-- ==== Sys2Proof/Laws/Step.lean ====
section
/-! SUPPORT. What one step does, each way of it said once. -/

namespace Sys2Proof.Machine

variable (s : State)

@[simp] theorem tick_t : (tick s).t = s.t := rfl
@[simp] theorem tick_agenda : (tick s).agenda = s.agenda := rfl
@[simp] theorem tick_stalled : (tick s).stalled = s.stalled := rfl
@[simp] theorem tick_mem : (tick s).mem = s.mem := rfl
@[simp] theorem tick_tlbGo : (tick s).tlbGo = if goReads s then s.tlbGo else none := rfl
@[simp] theorem tick_clock : (tick s).clock = s.clock + s.timePace * s.handle.clockMhz / 100 := rfl
@[simp] theorem tick_weave : (tick s).weave = s.weave + 24 * s.timePace := rfl
@[simp] theorem tick_time : (tick s).time = s.time + word s.timePace := rfl

/-- A step with an agenda takes its next turn. -/
theorem step_agenda (u : Turn) (r : List Turn) (h : s.agenda = u :: r) :
    step s = agendaTurn { tick s with agenda := r } u := by
  unfold step
  simp only [tick_agenda, h]

/-- Without an agenda, a step of a focus strand that waits is another agent's. -/
theorem step_stalled (h : s.agenda = []) (hs : s.stalled = true) : step s = .next (yieldTurn (tick s)) := by
  unfold step
  simp only [tick_agenda, h, tick_stalled, hs, if_true]

/-- Without an agenda, what the focus strand attends to comes before its instruction. -/
theorem step_attend (t : State) (h : s.agenda = []) (hs : s.stalled = false) (ha : attend (tick s) = some t) : step s = .next t := by
  unfold step
  simp only [tick_agenda, h, tick_stalled, hs, ha]
  rfl

/-- Without an agenda and with nothing to attend to, a step is the focus strand's turn. -/
theorem step_turn (h : s.agenda = []) (hs : s.stalled = false) (ha : attend (tick s) = none) : step s = strandTurn (tick s) := by
  unfold step
  simp only [tick_agenda, h, tick_stalled, hs, ha]
  rfl

/-- An outcome changed by a function that changes nothing. -/
theorem mapNext_id (o : Host.Outcome State Fault Refusal) (f : State → State) (h : ∀ t, o = .next t → f t = t) : mapNext o f = o := by
  cases o with
  | next t => exact congrArg _ (h t rfl)
  | fault e => rfl
  | refused e => rfl

/-- Where every register keeps good parity after a write as before it, what performs an instruction is `exec` (R360). -/
theorem runInstr_exec (i : Instr) (hx : xParity s i = false) (hv : (badElement s (pushEntry s i)).isSome = false)
    (hw : ∀ u, exec i s = .next u → u.t.queue.length = s.t.queue.length → wrote s u i = u) :
    runInstr s i = exec i s := by
  simp only [runInstr, hx, hv, Bool.false_eq_true, if_false]
  refine mapNext_id _ _ fun t ht => ?_
  split
  · exact hw t ht ‹_›
  · rfl

/-- A scalar turn performs the decoded instruction at the pc (R17). -/
theorem scalarTurn_ok (w : InstrWord) (i : Instr) (hl : fetchWaits s = false) (hf : fetchWord s = .ok w) (hd : decode w = .ok i) : scalarTurn s = runInstr s i := by
  simp only [scalarTurn, hl, Bool.false_eq_true, if_false, hf, runWord, hd]

/-- A scalar turn on a word that does not decode performs RESERVED_WORD (R57). -/
theorem scalarTurn_reserved (w : InstrWord) (e : Reject) (hl : fetchWaits s = false) (hf : fetchWord s = .ok w) (hd : decode w = .error e) :
    scalarTurn s = exec (.reservedWord w) s := by
  simp only [scalarTurn, hl, Bool.false_eq_true, if_false, hf, runWord, hd]

/-- A scalar turn whose fetch fails traps (R36, R364). -/
theorem scalarTurn_fault (c : Nat) (hl : fetchWaits s = false) (hf : fetchWord s = .error c) : scalarTurn s = .next (scalarTrap s c s.t.pc) := by
  simp only [scalarTurn, hl, Bool.false_eq_true, if_false, hf]

/-- The strand's turn with an empty queue is the scalar stream's. -/
theorem strandTurn_scalar (hq : s.t.queue = []) (hw : s.t.waiting = false) : strandTurn s = scalarTurn s := by
  unfold strandTurn
  simp [hq, hw]

/-- The strand's turn with a completed oldest entry commits it (R18). -/
theorem strandTurn_commit (e : QEntry) (r : List QEntry) (hq : s.t.queue = e :: r) (hd : e.done = true) :
    strandTurn s = .next (commitHead s) := by
  unfold strandTurn
  simp [hq, hd]

/-- The strand's turn performs the oldest entry when it is the vector stream's turn and no younger one is to be tried. -/
theorem strandTurn_vector (e : QEntry) (r : List QEntry) (hq : s.t.queue = e :: r) (hd : e.done = false)
    (ht : vectorNext s = true) (hp : tryPlace s = some 0) : strandTurn s = headTurn s e := by
  unfold strandTurn
  simp [hq, hd, ht, hp]

/-- The oldest entry, every source of good parity, is performed with what it captured (R17, R360). -/
theorem headTurn_ok (e : QEntry) (r : List QEntry) (hq : s.t.queue = e :: r) (hb : badElement s e = none) :
    headTurn s e = mapNext (exec e.instr (vectorSide s 0 (!mayComplete s 0) none e)) fun u =>
      if (u.t.queue[0]?).any fun d => d.done then afterWrite s u e.instr e.xw e else u := by
  simp [headTurn, hb, tryEntry, hq]

/-- Fetching does not depend on which stream has the turn. -/
theorem fetchWord_scalarSide : fetchWord (scalarSide s) = fetchWord s := rfl

/-- The strand's turn is the scalar stream's when it is not the vector stream's. -/
theorem strandTurn_scalarSide (e : QEntry) (r : List QEntry) (hq : s.t.queue = e :: r) (hd : e.done = false)
    (ht : vectorNext s = false) : strandTurn s = scalarTurn (scalarSide s) := by
  unfold strandTurn
  simp [hq, hd, ht]

end Sys2Proof.Machine
end

