-- ==== Sys2Proof/Tests/Slice0.lean ====
section
/-! SUPPORT. Tests: words of the specification decoded, an ill-formed term for each check of WellFormed, single steps with results
worked out from the specification's text, and states that meet the premises of each obligation. -/

namespace Sys2Proof.Tests

set_option Elab.async false

open Sys2Proof.Machine

/-- Whether a word decodes to an instruction. -/
def decodesTo (w : InstrWord) (i : Instr) : Bool :=
  match decode w with
  | .ok j => decide (j = i)
  | .error _ => false

/-- Whether every word of a list decodes to its instruction. -/
def decodesAll (ps : List (InstrWord × Instr)) : Bool := ps.all fun p => decodesTo p.1 p.2

/-- Whether a word is rejected. -/
def rejects (w : InstrWord) : Bool :=
  match decode w with
  | .ok _ => false
  | .error _ => true

/-! The device's rows: the row's match value with d = 3, a = 5, b = 9, km = 2 in its operand fields (another value where the field
is narrower or restricted). -/

theorem test_decode_device_1 : decodesAll
  [(0x0492818B, .vaAddIvv 3 5 9 2), (0x1492818B, .vaSubIvv 3 5 9 2), (0x2492818B, .vaMulIvv 3 5 9 2),
   (0x3492818B, .vaMulhIvv 3 5 9 2), (0x4492818B, .vaMinIvv 3 5 9 2), (0x5492818B, .vaMaxIvv 3 5 9 2),
   (0x6492818B, .vaMinuIvv 3 5 9 2), (0x7492818B, .vaMaxuIvv 3 5 9 2), (0x8492818B, .vaAndIvv 3 5 9 2),
   (0x9492818B, .vaOrIvv 3 5 9 2), (0xA492818B, .vaXorIvv 3 5 9 2), (0xB492818B, .vaSllIvv 3 5 9 2),
   (0xC492818B, .vaSrlIvv 3 5 9 2), (0xD492818B, .vaSraIvv 3 5 9 2), (0xE492818B, .vaMergeIvv 3 5 9 2),
   (0xF492818B, .vaMulhuIvv 3 5 9 2), (0x0492918B, .vaAddIvx 3 5 9 2), (0x1492918B, .vaSubIvx 3 5 9 2),
   (0x2492918B, .vaMulIvx 3 5 9 2), (0x3492918B, .vaMulhIvx 3 5 9 2), (0x4492918B, .vaMinIvx 3 5 9 2),
   (0x5492918B, .vaMaxIvx 3 5 9 2), (0x6492918B, .vaMinuIvx 3 5 9 2), (0x7492918B, .vaMaxuIvx 3 5 9 2),
   (0x8492918B, .vaAndIvx 3 5 9 2)] = true := by decide

theorem test_decode_device_2 : decodesAll
  [(0x9492918B, .vaOrIvx 3 5 9 2), (0xA492918B, .vaXorIvx 3 5 9 2), (0xB492918B, .vaSllIvx 3 5 9 2),
   (0xC492918B, .vaSrlIvx 3 5 9 2), (0xD492918B, .vaSraIvx 3 5 9 2), (0xE492918B, .vaMergeIvx 3 5 9 2),
   (0xF492918B, .vaMulhuIvx 3 5 9 2), (0x0492A18B, .vaAddIvi 3 5 9 2), (0x1492A18B, .vaSubIvi 3 5 9 2),
   (0x4492A18B, .vaMinIvi 3 5 9 2), (0x5492A18B, .vaMaxIvi 3 5 9 2), (0x6492A18B, .vaMinuIvi 3 5 9 2),
   (0x7492A18B, .vaMaxuIvi 3 5 9 2), (0x8492A18B, .vaAndIvi 3 5 9 2), (0x9492A18B, .vaOrIvi 3 5 9 2),
   (0xA492A18B, .vaXorIvi 3 5 9 2), (0xB492A18B, .vaSllIvi 3 5 9 2), (0xC492A18B, .vaSrlIvi 3 5 9 2),
   (0xD492A18B, .vaSraIvi 3 5 9 2), (0xE492A18B, .vaMergeIvi 3 5 9 2), (0x0492B18B, .vaFaddFvv 3 5 9 2),
   (0x1492B18B, .vaFsubFvv 3 5 9 2), (0x2492B18B, .vaFmulFvv 3 5 9 2), (0x3492B18B, .vaFdivFvv 3 5 9 2),
   (0x4492B18B, .vaFminFvv 3 5 9 2)] = true := by decide

theorem test_decode_device_3 : decodesAll
  [(0x5492B18B, .vaFmaxFvv 3 5 9 2), (0x6492B18B, .vaFmaccFvv 3 5 9 2), (0x7492B18B, .vaFnmaccFvv 3 5 9 2),
   (0x8492B18B, .vaFmsacFvv 3 5 9 2), (0x9492B18B, .vaFnmsacFvv 3 5 9 2), (0xA492B18B, .vaFsgnjFvv 3 5 9 2),
   (0xB492B18B, .vaFsgnjnFvv 3 5 9 2), (0xC492B18B, .vaFsgnjxFvv 3 5 9 2), (0x0492C18B, .vaFaddFvx 3 5 9 2),
   (0x1492C18B, .vaFsubFvx 3 5 9 2), (0x2492C18B, .vaFmulFvx 3 5 9 2), (0x3492C18B, .vaFdivFvx 3 5 9 2),
   (0x4492C18B, .vaFminFvx 3 5 9 2), (0x5492C18B, .vaFmaxFvx 3 5 9 2), (0x6492C18B, .vaFmaccFvx 3 5 9 2),
   (0x7492C18B, .vaFnmaccFvx 3 5 9 2), (0x8492C18B, .vaFmsacFvx 3 5 9 2), (0x9492C18B, .vaFnmsacFvx 3 5 9 2),
   (0xA492C18B, .vaFsgnjFvx 3 5 9 2), (0xB492C18B, .vaFsgnjnFvx 3 5 9 2), (0xC492C18B, .vaFsgnjxFvx 3 5 9 2),
   (0x0492D18B, .vaSeq 3 5 9 2), (0x1492D18B, .vaSne 3 5 9 2), (0x2492D18B, .vaSlt 3 5 9 2), (0x3492D18B, .vaSltu 3 5 9 2)] = true := by decide

theorem test_decode_device_4 : decodesAll
  [(0x4492D18B, .vaSle 3 5 9 2), (0x5492D18B, .vaSleu 3 5 9 2), (0x6492D18B, .vaFeq 3 5 9 2), (0x7492D18B, .vaFlt 3 5 9 2),
   (0x8492D18B, .vaFle 3 5 9 2), (0x9492D18B, .vaFne 3 5 9 2), (0xA012D18B, .vaKand 3 5 1), (0xB012D18B, .vaKor 3 5 1),
   (0xC012D18B, .vaKxor 3 5 1), (0xD012D18B, .vaKandn 3 5 1), (0xE010518B, .vaKnot 3 1), (0x0490618B, .vaFsqrt 3 9 2),
   (0x0490E18B, .vaFrsqrte 3 9 2), (0x0491618B, .vaFrece 3 9 2), (0x0491E18B, .vaFlog2 3 9 2), (0x0492618B, .vaFexp2 3 9 2),
   (0x0492E18B, .vaFclass 3 9 2), (0x1494E18B, .vaFcvt 3 9 9 2), (0x2490618B, .vaMv 3 9 2), (0x2490E18B, .vaSplat 3 9 2),
   (0x2401618B, .vaIota 3 2), (0x2491E18B, .vaRng 3 9 2), (0x3490618B, .vaRedsum 3 9 2), (0x3490E18B, .vaFredsum 3 9 2),
   (0x3491618B, .vaRedmax 3 9 2)] = true := by decide

theorem test_decode_device_5 : decodesAll
  [(0x3491E18B, .vaRedmin 3 9 2), (0x3492618B, .vaFredmax 3 9 2), (0x3492E18B, .vaFredmin 3 9 2), (0x3493618B, .vaRedmaxi 3 9 2),
   (0x3493E18B, .vaFredmaxi 3 9 2), (0x3494618B, .vaRedand 3 9 2), (0x3494E18B, .vaRedor 3 9 2), (0x3495618B, .vaRedxor 3 9 2),
   (0x5410618B, .vaKpop 3 1 2), (0x5410E18B, .vaKfirst 3 1 2), (0x0092F18B, .vaSetvl 3 5 9), (0x1092F18B, .vaSetvlP 3 5 9),
   (0x2002F18B, .vaSetcfg 3 5), (0x3002F18B, .vaSetkey 3 5), (0x040281AB, .vmLd 3 5 2), (0x149281AB, .vmLds 3 5 9 2),
   (0x249281AB, .vmLdx 3 5 9 2), (0x340281AB, .vmLdff 3 5 2), (0x440281AB, .vmLdnc 3 5 2), (0x540281AB, .vmLdsc 3 5 2),
   (0x649281AB, .vmLdmc 3 5 9 2), (0x740281AB, .vmLdraw 3 5 2), (0x849281AB, .vmLdgl 3 5 9 2), (0x949281AB, .vmLdffx 3 5 9 2),
   (0x040291AB, .vmSt 3 5 2)] = true := by decide

theorem test_decode_device_6 : decodesAll
  [(0x149291AB, .vmSts 3 5 9 2), (0x249291AB, .vmStx 3 5 9 2), (0x340291AB, .vmStsc 3 5 2), (0x440291AB, .vmStraw 3 5 2),
   (0x549291AB, .vmStcx 3 5 9 2), (0x0492A1AB, .vmAmoadd 3 5 9 2), (0x1492A1AB, .vmAmofadd 3 5 9 2),
   (0x2492A1AB, .vmAmomin 3 5 9 2), (0x3492A1AB, .vmAmomax 3 5 9 2), (0x4492A1AB, .vmAmominu 3 5 9 2),
   (0x5492A1AB, .vmAmomaxu 3 5 9 2), (0x6492A1AB, .vmAmoand 3 5 9 2), (0x7492A1AB, .vmAmoor 3 5 9 2),
   (0x8492A1AB, .vmAmoxor 3 5 9 2), (0x9492A1AB, .vmAmoswap 3 5 9 2), (0xA492A32B, .vmAmocas 3 5 9 2),
   (0x0492B1AB, .vmAmoaddR 3 5 9 2), (0x1492B1AB, .vmAmofaddR 3 5 9 2), (0x2492B1AB, .vmAmominR 3 5 9 2),
   (0x3492B1AB, .vmAmomaxR 3 5 9 2), (0x4492B1AB, .vmAmominuR 3 5 9 2), (0x5492B1AB, .vmAmomaxuR 3 5 9 2),
   (0x6492B1AB, .vmAmoandR 3 5 9 2), (0x7492B1AB, .vmAmoorR 3 5 9 2), (0x8492B1AB, .vmAmoxorR 3 5 9 2)] = true := by decide

theorem test_decode_device_7 : decodesAll
  [(0x9492B1AB, .vmAmoswapR 3 5 9 2), (0xA492B32B, .vmAmocasR 3 5 9 2), (0x0402C1AB, .vmUpdadd 3 5 2),
   (0x1402C1AB, .vmUpdfadd 3 5 2), (0x2402C1AB, .vmUpdmin 3 5 2), (0x3402C1AB, .vmUpdmax 3 5 2), (0x4402C1AB, .vmUpdfmax 3 5 2),
   (0x5402C1AB, .vmUpdfmin 3 5 2), (0x0401D02B, .vmFence 3 2), (0x1442D02B, .vmFenceb 5 4 2), (0x2492D02B, .vmBwait 5 9 2),
   (0x3412D32B, .vmGcsleep 3 5 1 2), (0x4400502B, .vmRofence 2), (0x0492E02B, .vmCp 5 9 2), (0x1402E1AB, .vmCpwany 3 5 2),
   (0x2402E1AB, .vmCpwall 3 5 2), (0x3402E1AB, .vmCpffr 3 5 2), (0x4402E02B, .vmCpclr 5 2), (0x009001DB, .vpSort 3 9),
   (0x109001DB, .vpChk 3 9), (0x2092835B, .vpMerge 3 5 9), (0x309281DB, .vpMergec 3 5 9), (0x409281DB, .vpIsect 3 5 9),
   (0x509281DB, .vpDiff 3 5 9), (0x609001DB, .vpUniq 3 9)] = true := by decide

theorem test_decode_device_8 : decodesAll
  [(0x709281DB, .vpRank 3 5 9), (0x809281DB, .vpPart 3 5 9), (0x909001DB, .vpKeys 3 9), (0x009011DB, .vpSpk 3 9),
   (0x109011DB, .vpSpx 3 9), (0x209291DB, .vpSpadd 3 5 9), (0x309291DB, .vpSpmul 3 5 9), (0x409291DB, .vpSpdot 3 5 9),
   (0x509011DB, .vpSpbuild 3 9), (0x609011DB, .vpSpcoord 3 9), (0x709011DB, .vpSpval 3 9), (0x0092A1DB, .vpTopk 3 5 9),
   (0x1092A1DB, .vpHist 3 5 9), (0x209021DB, .vpScan 3 9), (0x309021DB, .vpScani 3 9), (0x4092A1DB, .vpGperm 3 5 9),
   (0x0092B1DB, .vpSlideup 3 5 9), (0x1092B1DB, .vpSlidedn 3 5 9), (0x2092B1DB, .vpPerm 3 5 9), (0x3092B1DB, .vpCompress 3 5 9),
   (0x4092B1DB, .vpExpand 3 5 9), (0x5092B1DB, .vpRotg 3 5 9), (0x6092B1DB, .vpBcast 3 5 9), (0x7092B1DB, .vpExt 3 5 9),
   (0x8092B1DB, .vpIns 3 5 9)] = true := by decide

theorem test_decode_device_9 : decodesAll
  [(0x009041DB, .vpGetd 3 9), (0x1002C1DB, .vpSetd 3 5), (0x009281FB, .vxMmac 3 5 9), (0x109281FB, .vxMmacs 3 5 1 1),
   (0x200281FB, .vxMgemm 3 5), (0x309281FB, .vxMtld 3 5 9), (0x40928C7B, .vxMcomp 3 5 9), (0x5002807B, .vxMunf 5),
   (0x600001FB, .vxMzero 3), (0x049291FB, .vxPush 3 5 9 2), (0x100011FB, .vxTake 3), (0x200011FB, .vxFe 3),
   (0x0092A1FB, .vxClaim 3 5 9), (0x0292A07B, .vxFulfil 5 9), (0x0402A07B, .vxAbandon 5), (0x0602A1FB, .vxFld 3 5),
   (0x0802A1FB, .vxFprobe 3 5), (0x0A02A07B, .vxRelease 5), (0x0002B1FB, .vxSpawn 3 5), (0x0200307B, .vxEnd),
   (0x0492B1FB, .vxDep 3 5 9), (0x0602B07B, .vxGlaunch 5), (0x0800307B, .vxYield), (0x0A02B1FB, .vxLvl 3 5),
   (0x0002C07B, .vxSave 5)] = true := by decide

theorem test_decode_device_10 : decodesAll
  [(0x0200407B, .vxRestore), (0x0400407B, .vxVdrain), (0x0602C07B, .vxIcinv 5), (0x0892C07B, .vxTlbinv 5 9),
   (0x0A00407B, .vxWdpet)] = true := by decide

/-! The scalar rows: words of the RISC-V encodings (R35). -/

theorem test_decode_scalar_ops : decodesAll
  [(0x12345537, .scalarInstruction (.lui 10 0x12345)), (0x00001097, .scalarInstruction (.auipc 1 1)),
   (0x001000EF, .scalarInstruction (.jal 1 1024)), (0x00008067, .scalarInstruction (.jalr 0 1 0)),
   (0x00628463, .scalarInstruction (.branch .beq 5 6 4)), (0xFE20FEE3, .scalarInstruction (.branch .bgeu 1 2 0xFFE)),
   (0xFFF30293, .scalarInstruction (.opImm .addi 5 6 0xFFF)), (0x03F31293, .scalarInstruction (.shift .slli 5 6 63)),
   (0x40135293, .scalarInstruction (.shift .srai 5 6 1)), (0x60735293, .scalarInstruction (.shift .rori 5 6 7)),
   (0x0833129B, .scalarInstruction (.shift .slliUw 5 6 3)), (0x01F3529B, .scalarInstruction (.shiftW .srliw 5 6 31)),
   (0x6073529B, .scalarInstruction (.shiftW .roriw 5 6 7)), (0x007302B3, .scalarInstruction (.op .add 5 6 7)),
   (0x407302B3, .scalarInstruction (.op .sub 5 6 7)), (0x027322B3, .scalarInstruction (.op .mulhsu 5 6 7)),
   (0x027372BB, .scalarInstruction (.op .remuw 5 6 7)), (0x087302BB, .scalarInstruction (.op .addUw 5 6 7)),
   (0x207342B3, .scalarInstruction (.op .sh2add 5 6 7)), (0x407372B3, .scalarInstruction (.op .andn 5 6 7)),
   (0x0A7362B3, .scalarInstruction (.op .max 5 6 7)), (0x0A7352B3, .scalarInstruction (.op .minu 5 6 7)),
   (0x607312B3, .scalarInstruction (.op .rol 5 6 7)), (0x607352BB, .scalarInstruction (.op .rorw 5 6 7)),
   (0x60031293, .scalarInstruction (.unary .clz 5 6)), (0x6023129B, .scalarInstruction (.unary .cpopw 5 6)),
   (0x60431293, .scalarInstruction (.unary .sextB 5 6)), (0x080342BB, .scalarInstruction (.unary .zextH 5 6)),
   (0x28735293, .scalarInstruction (.unary .orcB 5 6)), (0x6B835293, .scalarInstruction (.unary .rev8 5 6)),
   (0x00000073, .scalarInstruction .ecall), (0x00100073, .scalarInstruction .ebreak)] = true := by decide

theorem test_decode_scalar_memory : decodesAll
  [(0x0330000F, .scalarFence 0 3 3 0 0), (0x0000100F, .fenceI 0 0 0), (0x12628073, .sfenceVma 5 6), (0x10500073, .wfi),
   (0x10200073, .sret), (0x30200073, .mret), (0xFF833283, .scalarLoad .ld 5 6 0xFF8), (0x00034283, .scalarLoad .lbu 5 6 0),
   (0x00733823, .scalarStore .sd 6 7 16), (0xFE730FA3, .scalarStore .sb 6 7 0xFFF),
   (0x140332AF, .scalarAmo .lr true true false 5 6 0), (0x1A7322AF, .scalarAmo .sc false false true 5 6 7),
   (0xE07332AF, .scalarAmo .maxu true false false 5 6 7), (0xCC3022F3, .csrReadWait .vmcnt .rs 5),
   (0x800312F3, .csrWriteVstat .rw 5 6), (0x8013D2F3, .csrWriteVrthr .rwi 5 7), (0x5C1332F3, .csrWriteDatp .rc 5 6),
   (0x5C03E2F3, .csrWriteFmtb .rsi 5 7), (0x341322F3, .csrWrite 0x341 .rs 5 6), (0x341022F3, .csrWrite 0x341 .rs 5 0)] = true := by
  decide

/-! The words that the specification writes out (R38, R50 to R57 and the instruction chapters). -/

theorem test_decode_spec_words : decodesAll
  [(0x0020B18B, .vaFaddFvv 3 1 2 0), (0x000400AB, .vmLd 1 8 0), (0x0000025B, .vpSort 4 0), (0x0045947B, .vxPush 8 11 4 0),
   (0x0067A3FB, .vxClaim 7 15 6), (0x0A00407B, .vxWdpet), (0x1005728B, .vaSetvlP 5 10 0), (0x2003700B, .vaSetcfg 0 6),
   (0x3003F00B, .vaSetkey 0 7), (0x0002F28B, .vaSetvl 5 5 0), (0x0200307B, .vxEnd)] = true := by decide

/-- Reserved words: field a of `vp.sort`, a f4 without an entry, a word of zeros and one of ones. -/
theorem test_decode_reserved :
    ([0x0200025B, 0xA000025B, 0, 0xFFFFFFFF, 0x2020D00B, 0x0005D02B, 0x5008E0AB] : List InstrWord).all rejects = true := by decide

/-- Every check of WellFormed refuses a term: k0 as a compare's and mask logic's destination, a format code, a scope, a mask, an N
code, an `lr` with an rs2, and the Zicsr rows. -/
theorem test_wellFormed_refuses :
    ([.vaSeq 0 1 2 0, .vaSne 0 1 2 0, .vaSlt 0 1 2 0, .vaSltu 0 1 2 0, .vaSle 0 1 2 0, .vaSleu 0 1 2 0, .vaFeq 0 1 2 0,
      .vaFlt 0 1 2 0, .vaFle 0 1 2 0, .vaFne 0 1 2 0, .vaKand 0 1 2, .vaKor 0 1 2, .vaKxor 0 1 2, .vaKandn 0 1 2, .vaKnot 0 1,
      .vaFcvt 1 6 2 0, .vaFcvt 1 13 2 0, .vmStcx 1 2 3 0, .vmFence 6 0, .vmFenceb 1 6 0, .vxMmacs 1 2 0 3,
      .scalarAmo .lr true false false 1 2 3, .csrReadWait .vstat .rw 1, .csrWriteVstat .rs 1 0, .csrWriteVrthr .rc 1 0,
      .csrWriteDatp .rsi 1 0, .csrWriteFmtb .rci 1 0, .csrWrite 0x800 .rw 1 2, .csrWrite 0xCC4 .rs 1 0] : List Instr).all
      (fun i => !wellFormed i) = true := by decide

/-- The terms next to them are well formed. -/
theorem test_wellFormed_accepts :
    ([.vaSeq 7 1 2 0, .vaKnot 1 0, .vaFcvt 1 5 2 0, .vaFcvt 1 12 2 0, .vmStcx 1 2 3 1, .vmFence 5 0, .vmFenceb 1 5 0,
      .vxMmacs 1 2 3 2, .scalarAmo .lr true true true 1 2 0, .csrReadWait .vtrows .rci 1, .csrWriteVstat .rw 0 0,
      .csrWrite 0xCC4 .rw 1 0] : List Instr).all wellFormed = true := by decide

/-! States that meet the premises of the obligations, clause by clause. -/

open Sys2Proof.Claims

/-- Whether a strand's `vl` and `vcfg` are granted. -/
def grantedTest (t : Strand) : Bool := fmtLegal (cfgFmt t.vcfg) && decide (t.vl.toNat ≤ cfgVlmax t.vcfg)

theorem granted_of {t : Strand} (h : grantedTest t = true) : t.Granted := by
  simpa [grantedTest, Strand.Granted] using h

/-- The invariant as a test: its maps, and then its strands. -/
def invMaps (s : State) : List Bool :=
  [Memory.wf s.mem, swf Strand.reset s.peers, swf Slice.reset s.slices, s.slices.all fun p => swf SlathEntry.reset p.2.slath,
   swf LineInfo.reset s.lines, swf Clock4.zero s.clocks, swf HostQueue.reset s.queues, swf GBlock.reset s.blocks, swf WalePort.reset s.ports,
   swf Router.reset s.routers, swf 0 s.planes, swf Rim.reset s.rims, swf 0 s.nodeGen, swf 0 s.basket, swf 0 s.ctxTable, swf (0, 0) s.arena,
   swf 0 s.issuedNow, swf [] s.hbm, swf 0 s.decided]

def invStrands (s : State) : List Strand :=
  s.t :: (s.peers.map Prod.snd ++ s.suspended.map Suspended.saved ++ s.scalarFrames.map ScalarFrame.saved)

def invTest (s : State) : Bool := (invMaps s).all id && (invStrands s).all grantedTest

theorem inv_of (s : State) (h : invTest s = true) : s.Inv := by
  obtain ⟨m, g⟩ : (∀ b ∈ invMaps s, b = true) ∧ ∀ t ∈ invStrands s, grantedTest t = true := by simpa [invTest] using h
  have mem : ∀ {b}, b ∈ invMaps s → b = true := fun h => m _ h
  have all : ∀ t ∈ invStrands s, t.Granted := fun t ht => granted_of (g t ht)
  constructor
  case slath => exact List.all_eq_true.mp (mem (b := s.slices.all _) (by simp [invMaps]))
  case focus => exact all _ (by simp [invStrands])
  case others => exact fun p hp => all _ (by simp only [invStrands, List.mem_cons, List.mem_append, List.mem_map]; exact .inr (.inl (.inl ⟨p, hp, rfl⟩)))
  case suspended => exact fun p hp => all _ (by simp only [invStrands, List.mem_cons, List.mem_append, List.mem_map]; exact .inr (.inl (.inr ⟨p, hp, rfl⟩)))
  case saved => exact fun p hp => all _ (by simp only [invStrands, List.mem_cons, List.mem_append, List.mem_map]; exact .inr (.inr ⟨p, hp, rfl⟩))
  all_goals exact mem (by simp [invMaps])

/-- A strand in supervisor mode with a task, VL 2 under INT32, its save area at 0x200000 and its descriptor at 0x100000. -/
def wStrand : Strand :=
  { Strand.reset with
    task := some placedTask, vl := 2, mode := .supervisor, medeleg := 0x10000FF00B1FF, pc := 0x8000, sbase := 0x200000
    sdesc := 0x100000, sbaseNow := 0x200000, sdescNow := 0x100000, ctxState := .active }

/-- The strand in focus, with HBM at 0, the Baskets at 2^40 and 1 GiB of the host at 2^50; SIZE of the descriptor is 921,600. -/
def w0 : State :=
  { State.reset with
    t := wStrand
    map := { PhysMap.reset with hbmb := some 0, bskb := some (2 ^ 40), hostb := some (2 ^ 50), hostsz := 2 ^ 30 }
    basket := [(0, 128)]
    mem := [(0x100001, 0x10), (0x100002, 0x0E)] }

/-- `vl` and `vcfg` replaced. -/
def cfg (s : State) (vl : BitVec 13) (c : Cfg) : State := s.onT fun t => { t with vl := vl, vcfg := c }

/-- A vector instruction that waits in the queue. -/
def entry (s : State) (i : Instr) : State := s.onT fun t => { t with queue := [pushEntry s i] }

theorem direct_w0 : Direct w0 := ⟨rfl, rfl, rfl⟩
theorem granted_w0 : Granted w0 := ⟨rfl, by decide⟩
theorem inv_w0 : w0.Inv := inv_of _ (by decide +kernel)
theorem plain_w0 : Plain w0 0 := ⟨inv_w0, rfl, rfl, rfl, fun _ => ⟨rfl, rfl⟩, .inl rfl⟩
theorem sound_w0 : AreaSound w0 := ⟨by decide +kernel, rfl, rfl, rfl⟩

/-- VL at 0, at VLMAX of INT32, and at VLMAX of FP8. -/
theorem witness_granted :
    (Direct (cfg w0 0 4) ∧ Granted (cfg w0 0 4)) ∧ (Direct (cfg w0 1024 5) ∧ Granted (cfg w0 1024 5)) ∧
      Direct (cfg w0 4096 8) ∧ Granted (cfg w0 4096 8) :=
  ⟨⟨⟨rfl, rfl, rfl⟩, rfl, by decide⟩, ⟨⟨rfl, rfl, rfl⟩, rfl, by decide⟩, ⟨rfl, rfl, rfl⟩, rfl, by decide⟩

theorem witness_IntegerElementOperations :
    (∃ p, intOf (.vaSraIvi 1 31 2 3) = some p) ∧ (∃ p, cmpOf (.vaSleu 7 1 2 3) = some p ∧ WellFormed (.vaSleu 7 1 2 3)) ∧
      (∃ p, mergeOf (.vaMergeIvi 1 16 2 0) = some p) ∧ Direct w0 ∧ Granted w0 :=
  ⟨⟨_, rfl⟩, ⟨_, rfl, rfl⟩, ⟨_, rfl⟩, direct_w0, granted_w0⟩

theorem witness_FpElementOperations :
    let s := cfg w0 4 12
    (∃ p, fpOf (.vaFmaccFvx 1 2 3 1) = some p) ∧ (∃ p, fpUnOf (.vaFclass 1 2 0) = some p) ∧
      (∃ p, fcmpOf (.vaFne 1 2 3 0) = some p ∧ WellFormed (.vaFne 1 2 3 0)) ∧ Direct s ∧ Granted s ∧
      (fpFmt (cfgFmt s.t.vcfg)).isSome ∧ fpFmt (cfgFmt w0.t.vcfg) = none ∧ (encode (.vaFclass 1 2 0)).isSome :=
  ⟨⟨_, rfl⟩, ⟨_, rfl⟩, ⟨_, rfl, rfl⟩, ⟨rfl, rfl, rfl⟩, ⟨rfl, by decide⟩, rfl, rfl, rfl⟩

theorem witness_Conversion :
    fcvtCode 12 = true ∧ fcvtCode 0 = true ∧ Direct (cfg w0 4096 8) ∧ Granted (cfg w0 4096 8) ∧
      (fpFmt (cfgFmt (cfg w0 4096 8).t.vcfg)).isSome ∧ isIntFmt (cfgFmt w0.t.vcfg) = true ∧
      (28 : Reg).toNat % Nat.max 1 (fmtWidth 12 / wd (cfg w0 4096 8)) = 0 :=
  ⟨rfl, rfl, ⟨rfl, rfl, rfl⟩, ⟨rfl, by decide⟩, rfl, rfl, rfl⟩

theorem witness_MaskLogic : (∃ p, logicOf (.vaKnot 1 0) = some p) ∧ WellFormed (.vaKnot 1 0) ∧ Direct w0 ∧ Granted w0 :=
  ⟨⟨_, rfl⟩, rfl, direct_w0, granted_w0⟩

theorem witness_MovesGeneratorsToScalar :
    (∃ p, moveOf (.vaRng 1 2 3) = some p) ∧ (∃ p, toXOf (.vpExt 0 2 3) = some p) ∧ (∃ p, permOf (.vpRotg 1 2 3) = some p) ∧
      (∃ p, redOf (.vaRedmin 1 2 3) = some p) ∧ Direct w0 ∧ Granted w0 :=
  ⟨⟨_, rfl⟩, ⟨_, rfl⟩, ⟨_, rfl⟩, ⟨_, rfl⟩, direct_w0, granted_w0⟩

/-- Registers 4 and 5 are runs under `vkey`, 6 is SPARSE, 7 is a run under another key. -/
def wRuns : State :=
  setV (setV (setV (setV (cfg w0 1024 4) 4 { VReg.zero with kind := .run }) 5 { VReg.zero with kind := .run, len := 1024 }) 6
    { VReg.zero with kind := .sparse, key := 0x09 }) 7 { VReg.zero with kind := .run, key := 1 }

theorem witness_SortGroup :
    Direct wRuns ∧ Granted wRuns ∧ Wide wRuns ∧ RunUnder wRuns 4 ∧ RunUnder wRuns 5 ∧ ¬ RunUnder wRuns 7 ∧ ¬ RunUnder wRuns 1 ∧
      SparseSrc wRuns 6 ∧ ¬ SparseSrc wRuns 7 :=
  ⟨⟨rfl, rfl, rfl⟩, ⟨rfl, by decide⟩, rfl, ⟨by decide, rfl⟩, ⟨by decide, rfl⟩, fun h => absurd h.2 (by decide), fun h => h.1 rfl, rfl,
    by unfold SparseSrc; decide⟩

theorem witness_GateOperations :
    let s := setX w0 5 0x0808
    Direct s ∧ Granted s ∧ Wide s ∧ (xr s 5).toNat % 256 ≤ (xr s 5).toNat / 256 % 256 ∧ 0 < (xr s 5).toNat % 256 ∧
      (xr (setX w0 5 1024) 5).toNat ≤ 1024 :=
  ⟨⟨rfl, rfl, rfl⟩, ⟨rfl, by decide⟩, rfl, by decide, by decide, by decide⟩

/-- `vp.setd`: both ways of each test. -/
theorem witness_SetDescriptor :
    (xr (setX wRuns 5 (1 + 1024 * 16)) 5).toNat / 16 % 4096 ≤ (wRuns.t.v[5].len).toNat ∧ kindCode wRuns.t.v[5].kind = 1 ∧
      ¬ ((xr (setX wRuns 5 (1025 * 16)) 5).toNat / 16 % 4096 ≤ (wRuns.t.v[5].len).toNat) := by decide

/-- A copy of four bytes on the focused strand's tag. -/
def wJob (tag : Nat) : CopyJob :=
  { gid := 0, tag := tag, src := 0x1000, dst := 0x2000, rowlen := 4, rows := 1, sstride := 0, dstride := 0, fill := false, alloc := false
    bad := false, xl := xlateNow w0, started := false, pos := 0, got := [], missed := [], held := [], pages := [], outcome := none }

/-- A request of pre-emption on the strand. -/
def wAsked (s : State) : State := s.onT fun t => { t with preempt := some ⟨0, false⟩ }

theorem witness_LengthGrantAndPreemption :
    w0.t.preempt = none ∧
    (let s := wAsked w0
     s.t.preempt.isSome ∧ s.t.task.isSome ∧ s.t.queue = [] ∧ pushBusy s s.t = false ∧ copiesOpen s s.gid = false ∧
      s.t.medeleg.getLsbD 29 = true ∧ s.t.mode ≠ .machine ∧ areaOk s s.t.sbase s.t.sdesc = true ∧ s.errs = [] ∧
      (locOf s (s.t.sdesc.toNat + 8)).isSome) ∧
    (entry (wAsked w0) (.vaIota 1 0)).t.queue ≠ [] ∧
    (let s := (wAsked w0).onT fun t => { t with granted := [(3, 9)] }
     s.t.queue = [] ∧ pushBusy s s.t = true) ∧
    (let s := wAsked { w0 with copies := [wJob 0] }
     s.t.queue = [] ∧ s.t.task.isSome ∧ pushBusy s s.t = false ∧ copiesOpen s s.gid = true ∧ ∃ r, s.t.preempt = some r) :=
  ⟨rfl, ⟨rfl, rfl, rfl, by decide +kernel, rfl, rfl, by decide, by decide +kernel, rfl, rfl⟩, by decide, ⟨rfl, by decide +kernel⟩,
    rfl, rfl, by decide +kernel, by decide +kernel, _, rfl⟩

theorem witness_Configuration :
    cfgLegal (xr (setX w0 5 0xE32) 5) = true ∧ cfgLegal (xr (setX w0 5 0x1000) 5) = false ∧ cfgLegal (xr (setX w0 5 6) 5) = false ∧
      keyLegal (xr (setX w0 5 0) 5) = true ∧ keyLegal (xr (setX w0 5 64) 5) = false ∧ w0.t.queue = [] := by decide

/-! Memory. -/

/-- x5 holds an aligned address, x6 a misaligned one, x7 the last bytes of HBM, x8 a multiple of 64. -/
def wMem : State := setX (setX (setX (setX (cfg w0 2 4) 5 0x1000) 6 0x1001) 7 (BitVec.ofNat 64 (hbmSize - 8))) 8 0x1040

theorem plain_wMem : Plain wMem 0 := ⟨inv_of _ (by decide +kernel), rfl, rfl, rfl, fun _ => ⟨rfl, rfl⟩, .inl rfl⟩

theorem inHbm_wMem : (∀ j ∈ actIdx wMem 0, InHbm 0 (unitAddr wMem 7 j) (wd wMem / 8)) ∧
    (∀ j ∈ actIdx wMem 0, InHbm 0 (unitAddr wMem 5 j) (wd wMem / 8)) ∧
    (∀ j ∈ actIdx wMem 0, InHbm 0 (strideAt wMem 5 0 j) (wd wMem / 8)) ∧
    (∀ j ∈ actIdx wMem 0, InHbm 0 (indexAddr wMem 5 0 j) (wd wMem / 8) ∧ indexAddr wMem 5 0 j % (wd wMem / 8) = 0) ∧
    (∀ j ∈ actIdx wMem 0, unitAddr wMem 5 j % (wd wMem / 8) = 0) := by
  unfold InHbm
  decide +kernel

theorem witness_VectorLoads :
    (∃ p, loadOf (.vmLdffx 1 5 0 0) = some p) ∧ (∃ p, loadOf (.vmLdraw 1 7 0) = some p) ∧ Direct wMem ∧ Granted wMem ∧ Plain wMem 0 ∧
      IndexOk wMem 0 ∧ (xr wMem 5).toNat % 128 = 0 ∧ wMem.scOut = none :=
  ⟨⟨_, rfl⟩, ⟨_, rfl⟩, ⟨rfl, rfl, rfl⟩, ⟨rfl, by decide⟩, plain_wMem, rfl, by decide, rfl⟩

/-- A multicast record that holds the line of x5, whole. -/
def wCast : State :=
  { wMem with records := [⟨0, 0, 0, true, 32, 7, 1, List.replicate 128 9, none, true, false, false, Clock4.zero, 0, false⟩] }

theorem witness_MulticastLoad :
    wMem.wire = [] ∧ (xr wMem 0).getLsbD (coreOf wMem.gid % 16) = false ∧ wMem.records = [] ∧ portStopped wMem wMem.gid = false ∧
    (∀ n, (sliceAt wMem n).windows = []) ∧
    (Direct wCast ∧ Granted wCast ∧ Plain wCast 0 ∧ wCast.wire = []) ∧
    ∀ l ∈ (actIdx wCast 0).map fun j => lineOf (unitAddr wCast 5 j),
      (∃ r ∈ wCast.records, (r.multicast && r.gid == wCast.gid && r.line == l) = true) ∧
        ∀ r ∈ wCast.records, (r.multicast && r.gid == wCast.gid && r.line == l) = true → r.delivered = true ∧ r.failed = false :=
  ⟨rfl, by decide, rfl, by decide +kernel, fun _ => rfl, ⟨⟨rfl, rfl, rfl⟩, ⟨rfl, by decide⟩, ⟨inv_of _ (by decide +kernel), rfl, rfl, rfl, fun _ => ⟨rfl, rfl⟩, .inl rfl⟩, rfl⟩,
    by decide +kernel⟩

/-- A full mask in k1. -/
def wMasked : State := setK wMem 1 3

theorem witness_VectorStores :
    (∃ p, storeOf (.vmStsc 1 5 0) = some p) ∧ (∃ p, storeOf (.vmSts 1 5 0 0) = some p) ∧ Direct wMasked ∧ Granted wMasked ∧
      Plain wMasked 0 ∧ IndexOk wMasked 0 ∧ (1 : KReg) ≠ 0 ∧ wMasked.scOut = none ∧
      (∀ j, j < vl wMasked → act wMasked 1 j = true → unitAddr wMasked 5 j % (wd wMasked / 8) = 0) ∧
      ∀ j ∈ actIdx wMasked 1, InHbm 0 (indexAddr wMasked 5 0 j) (wd wMasked / 8) ∧ indexAddr wMasked 5 0 j % (wd wMasked / 8) = 0 :=
  ⟨⟨_, rfl⟩, ⟨_, rfl⟩, ⟨rfl, rfl, rfl⟩, ⟨rfl, by decide⟩, ⟨inv_of _ (by decide +kernel), rfl, rfl, rfl, fun _ => ⟨rfl, rfl⟩, .inl rfl⟩, rfl,
    by decide, rfl, by decide +kernel, by unfold InHbm; decide +kernel⟩

theorem locksFree_wMem : LocksFree wMem := by
  refine ⟨rfl, fun _ h => (List.not_mem_nil h).elim, fun n => ?_⟩
  have h : sget 0 wMem.basket (n / 512) ≤ 128 := sget_all (P := fun b : Nat => b ≤ 128) (m := wMem.basket) (n / 512) (by decide) (by decide)
  unfold cacheWays
  omega

theorem witness_AtomicsAndUpdates :
    (∃ p, amoOf (.vmAmocasR 1 5 0 0) = some p) ∧ (∃ p, updOf (.vmUpdmax 1 5 0) = some p) ∧ (∃ p, fpAmoOf (.vmAmofaddR 1 5 0 0) = some p) ∧
      (∃ p, fpAmoOf (.vmUpdfmin 1 5 0) = some p) ∧ LocksFree wMem ∧ [2, 3, 4, 5, 10, 11, 12].contains (cfgFmt wMem.t.vcfg) = true ∧
      (xr wMem 5).toNat % (wd wMem / 8) = 0 ∧
      (let s := cfg wMem 2 12
       Direct s ∧ Granted s ∧ Plain s 0 ∧ LocksFree s ∧ IndexOk s 0 ∧ [10, 11, 12].contains (cfgFmt s.t.vcfg) = true ∧
         (fpFmt (cfgFmt s.t.vcfg)).isSome ∧
         ∀ j ∈ actIdx s 0, InHbm 0 (indexAddr s 5 0 j) (wd s / 8) ∧ indexAddr s 5 0 j % (wd s / 8) = 0) :=
  ⟨⟨_, rfl⟩, ⟨_, rfl⟩, ⟨_, rfl⟩, ⟨_, rfl⟩, locksFree_wMem, rfl, by decide, ⟨rfl, rfl, rfl⟩, ⟨rfl, by decide⟩,
    ⟨inv_of _ (by decide +kernel), rfl, rfl, rfl, fun _ => ⟨rfl, rfl⟩, .inl rfl⟩, locksFree_wMem, rfl, rfl, rfl, by unfold InHbm; decide +kernel⟩

theorem witness_FencesAndArrivals :
    Direct wMem ∧ wMem.Inv ∧ act wMem 0 0 = true ∧ act wMem 1 0 = false ∧ (xr wMem 6).toNat % 16 ≠ 0 ∧ (xr wMem 5).toNat % 16 = 0 ∧
      Plain wMem 0 ∧ InHbm 0 (xr wMem 5).toNat 16 :=
  ⟨⟨rfl, rfl, rfl⟩, plain_wMem.1, rfl, by decide +kernel, by decide, by decide, plain_wMem, by unfold InHbm; decide⟩

/-- A deferral buffer with 32 requests at the home of the line of x5. -/
def wFull : State :=
  onSlice wMem (homeSlice 32) fun c => { c with deferred := List.replicate 32 (.bwait 7 0x2000 0) }

/-- The strand's own wait on the barrier at x5 is held there. -/
def wSent : State := onSlice wMem (homeSlice 32) fun c => { c with deferred := [.bwait 0 0x1000 0] }

theorem plain_wFull : Plain wFull 0 :=
  ⟨inv_of _ (by decide +kernel), rfl, rfl, rfl, fun n =>
    sget_all (P := fun c : Slice => c.locks = [] ∧ c.owned = []) (m := wFull.slices) n ⟨rfl, rfl⟩ (by decide +kernel), .inl rfl⟩

theorem witness_WaitsAndSleeps :
    wMem.wire = [] ∧ (xr wMem 5).toNat % 16 = 0 ∧ InHbm 0 (xr wMem 5).toNat 16 ∧
      (numAt (homeByte wMem) 0 ((xr wMem 5).toNat + 8) 4 ≠ (xr wMem 6).toNat % 2 ^ 32 ∧
        numAt (homeByte wMem) 0 ((xr wMem 5).toNat + 8) 4 = (xr wMem 0).toNat % 2 ^ 32) ∧
      ((sliceAt wMem (homeSlice 32)).deferred = [] ∧ .bwait 0 0x1000 0 ∈ (sliceAt wSent (homeSlice 32)).deferred) ∧
      ((∀ q ∈ (sliceAt wFull (homeSlice 32)).deferred, q = .bwait 7 0x2000 0) ∧ 32 ≤ (sliceAt wFull (homeSlice 32)).deferred.length) ∧
      1024 < vl (cfg w0 1025 2) ∧ vl wMem ≤ 1024 ∧
      (∀ j ∈ actIdx wMem 0, InHbm 0 (((xr wMem 5).toNat + elem 32 (getV wMem 2).bits j) % 2 ^ 64) 4 ∧
        ((xr wMem 5).toNat + elem 32 (getV wMem 2).bits j) % 2 ^ 64 % 4 = 0) ∧ wMem.t.wake = false ∧ wMem.t.preempt = none := by
  unfold InHbm
  decide +kernel

/-- A copy on tag 1, with a recorded fault of tag 2. -/
def wCopying : State :=
  { (wMem.onT fun t => { t with cfault := 4, ctags := 4 }) with
    copies := [wJob 1] }

theorem witness_CopyGroup :
    Direct wCopying ∧ act wCopying 0 0 = true ∧ 64 ≤ (xr wMem 5).toNat ∧
      (∃ j ∈ wCopying.copies, j.gid = wCopying.gid ∧ j.tag = 1) ∧ (∀ j ∈ wCopying.copies, j.gid = wCopying.gid → j.tag ≠ 63) ∧
      wCopying.t.cfault.getLsbD 2 = true ∧ wCopying.t.cfault.getLsbD 63 = false ∧ Lowest (wCopying.t.cfault &&& 4) 2 ∧
      Plain wMem 0 ∧ InHbm 0 (xr wMem 8).toNat 64 ∧ wMem.t.cfault &&& xr wMem 5 = 0 ∧
      (∃ j ∈ wCopying.copies, j.gid = wCopying.gid ∧ (2 : Word).getLsbD j.tag = true) ∧
      (∀ j ∈ wCopying.copies, j.gid = wCopying.gid → (4 : Word).getLsbD j.tag = false) :=
  ⟨⟨rfl, rfl, rfl⟩, rfl, by decide, by decide, by decide, rfl, rfl, ⟨by decide, by decide⟩, plain_wMem, by unfold InHbm; decide, by decide,
    by decide, by decide⟩

/-- A task on strand 4, the peer of a push; x5 holds 4, x6 the strand itself, x7 a strand without a task, x8 none. -/
def wPeers : State :=
  { setX (setX (setX (setX w0 5 4) 6 0) 7 2047) 8 2048 with peers := [(4, wStrand)] }

theorem witness_PushAndTake :
    Direct wPeers ∧ Granted wPeers ∧ wPeers.Inv ∧ (3 : Reg).toNat % cfgG wPeers.t.vcfg = 0 ∧ wPeers.t.bound = none ∧
      (2048 ≤ (xr wPeers 8).toNat ∧ (xr wPeers 6).toNat = wPeers.gid ∧ (strandAt wPeers (xr wPeers 7).toNat).task = none) ∧
      ((xr wPeers 5).toNat < 2048 ∧ (xr wPeers 5).toNat ≠ wPeers.gid ∧ (strandAt wPeers (xr wPeers 5).toNat).task.isSome ∧
        (strandAt wPeers (xr wPeers 5).toNat).granted = [] ∧
        (∀ q : Fin 32, (3 : Reg).toNat ≤ q.val → q.val < (3 : Reg).toNat + cfgG wPeers.t.vcfg →
          (strandAt wPeers (xr wPeers 5).toNat).pending[q] = none) ∧
        corePending wPeers (coreOf (xr wPeers 5).toNat) + cfgG wPeers.t.vcfg ≤ 16 ∧
        cfgG wPeers.t.vcfg ≤ poolFree wPeers (coreOf (xr wPeers 5).toNat)) ∧
      w0.t.pending[3] = none ∧ (w0.onT fun t => { t with pending := t.pending.set 31 (some VReg.zero) }).t.pending[31] = some VReg.zero :=
  ⟨⟨rfl, rfl, rfl⟩, ⟨rfl, by decide⟩, inv_of _ (by decide +kernel), by decide +kernel⟩

/-- R248: a scalar store is kept with the byte it replaced until a `vm.fence`; a copy without a fence between may read that byte. -/
theorem test_unfenced_store_may_be_missed :
    let t := scalarWrite w0 0x100001 [7]
    t.t.unfenced = [⟨8192, 1, [(0x100001, 0x10)]⟩] ∧ (performFence t 1).t.unfenced = [] ∧
      missedByte t { wJob 3 with missed := t.t.unfenced } 0x100001 = some 0x10 ∧
      missedByte (scalarWrite (performFence t 1) 0x100005 [1]) { wJob 3 with missed := t.t.unfenced } 0x100001 = none := by decide +kernel
/-! The matrix unit. -/

/-- FP16 with LAM = 1: A in v8 (K = 2), and x6 misaligned, x8 a descriptor at 0x1040. -/
def wTile : State := setV (cfg wMem 2 0x40A) 8 { VReg.zero with len := 1 }

theorem witness_TileProducts :
    (∃ p, tileOf (.vxMmac 16 8 0) = some p) ∧ (∃ p, tileOf (.vxMmacs 16 8 0 2) = some p ∧ WellFormed (.vxMmacs 16 8 0 2)) ∧
      Direct wTile ∧ Granted wTile ∧ (encode (.vxMmac 16 8 0)).isSome ∧ TileOk wTile 16 8 0 1 ∧ ¬ TileOk wTile 8 8 0 1 ∧
      ¬ TileOk (cfg wTile 1025 0x408) 16 8 0 1 ∧ (fpFmt (cfgFmt wTile.t.vcfg)).isSome :=
  ⟨⟨_, rfl⟩, ⟨_, rfl, rfl⟩, ⟨rfl, rfl, rfl⟩, ⟨rfl, by decide⟩, rfl, by unfold TileOk; decide +kernel, by unfold TileOk; decide +kernel,
    by unfold TileOk; decide +kernel, rfl⟩

theorem witness_TileZero :
    (Direct (cfg w0 1024 4) ∧ Granted (cfg w0 1024 4) ∧ (31 : Reg).toNat % cfgG 4 = 0 ∧ vl (cfg w0 1024 4) ≤ 1024) ∧
      (Direct (cfg w0 1025 0) ∧ Granted (cfg w0 1025 0) ∧ ¬ vl (cfg w0 1025 0) ≤ 1024) ∧ (31 : Reg).toNat % cfgG 0x24 ≠ 0 ∧
      (encode (.vxMzero 31)).isSome :=
  ⟨⟨⟨rfl, rfl, rfl⟩, ⟨rfl, by decide⟩, rfl, by decide⟩, ⟨⟨rfl, rfl, rfl⟩, ⟨rfl, by decide⟩, by decide⟩, by decide, rfl⟩

theorem witness_TileLoadAndCompression :
    let s := setX (setX wTile 5 0x1000) 6 0xFFFFFFFFFF00
    (Direct s ∧ Granted s ∧ Plain s 0 ∧ (3 : Reg).toNat % cfgG s.t.vcfg = 0 ∧ ∀ r, r < cfgG s.t.vcfg → ∀ j, j < vl s →
      InHbm 0 (wrap ((xr s 5).toNat + (r : Int) * sgn 48 (xr s 6).toNat + ((j * (wd s / 8) : Nat) : Int))) (wd s / 8)) ∧
      (let x := (xr (setX s 5 0x20008) 5).toNat
       1 ≤ x % 65536 ∧ x % 65536 ≤ 32768 ∧ x / 65536 % 4 ≤ 2 ∧ 8 ≤ cfgFmt s.t.vcfg ∧ cfgFmt s.t.vcfg ≤ 11 ∧ vl s ≤ 1024 ∧
        (x % 65536 * vl s * wd s + 32767) / 32768 = 1 ∧ ((x % 65536 + 7) / 8 * 2 ^ (x / 65536 % 4) * vl s + 1023) / 1024 ≤ 8) :=
  ⟨⟨⟨rfl, rfl, rfl⟩, ⟨rfl, by decide⟩, ⟨inv_of _ (by decide +kernel), rfl, rfl, rfl, fun _ => ⟨rfl, rfl⟩, .inl rfl⟩, by decide,
    by unfold InHbm; decide +kernel⟩, by decide +kernel⟩

/-- At 0x1040 an unfolding descriptor of one element, FP8, XBASE at the first byte of a Basket. -/
def wUnfold : State :=
  pokeBytes wTile 0x1040 (bytesOf 8 (2 ^ 40) ++ [1, 0, 1, 0, 1, 0, 1, 0, 1, 0, 1, 1, 1, 1, 1, 1, 0, 0, 10])

/-- At 0x1040 a descriptor of a long product with K = 1; MODE 1 where `m` says so. -/
def wLong (m : Byte) : State := pokeBytes wTile 0x1040 (List.replicate 24 0 ++ [1, 0, 0, 0, 0, 0, 0, 0, m])

theorem witness_UnfoldingAndLongProducts :
    (Direct wUnfold ∧ Granted wUnfold ∧ Plain wUnfold 0) ∧ (xr wTile 6).toNat % 64 ≠ 0 ∧ vl (cfg wTile 0 0x40A) = 0 ∧
    (let s := wUnfold
     let field := fun off n => numAt (readByte s (dieOf s.gid)) 0 ((xr s 8).toNat + off) n
     (xr s 8).toNat % 64 = 0 ∧ InHbm 0 (xr s 8).toNat 64 ∧
       List.zipWith field [8, 16, 18, 23, 26, 27, 30, 40, 0] [2, 2, 1, 1, 1, 1, 2, 24, 8] = [1, 1, 1, 1, 10, 0, 0, 0, 2 ^ 40] ∧
       locOf s (2 ^ 40) = some bskLoc ∧ 0 < vl s ∧ gemmFramed s = false) ∧
    (∀ m ∈ [(0 : Byte), 1],
     let s := (wLong m).onT fun t => { t with unfold := some ⟨0, 1, 1, 1, 1, 1, 1, 1, 1, 1, 1, 1, 0, 0, 10, 0, 0, 0⟩ }
     let D := fun off k => numAt (readByte s (dieOf s.gid)) 0 ((xr s 8).toNat + off) k
     D 24 4 = 1 ∧ D 32 4 = m.toNat ∧ D 36 28 = 0 ∧ (s.t.unfold.map fun u => (u.fmt, u.kh * u.kw * u.c)) = some (cfgFmt s.t.vcfg, 1) ∧
       Mapped s 0 2 ∧ Mapped s 2 2 ∧ Mapped s (2 ^ 40 + 0) 2 ∧ (3 : Reg).toNat % cfgG s.t.vcfg = 0) ∧
    numAt (readByte wTile 0) 0 (0x1040 + 24) 4 = 0 := by
  refine ⟨⟨⟨rfl, rfl, rfl⟩, ⟨rfl, by decide⟩, inv_of _ (by decide +kernel), rfl, rfl, rfl, fun _ => ⟨rfl, rfl⟩, .inl rfl⟩, by decide +kernel,
    by decide +kernel, by unfold InHbm; decide +kernel, by unfold Mapped; decide +kernel, by decide +kernel⟩

/-! Claims. The name is 0, 0; x5 holds a handle of entry 2 of slice 3. -/

/-- The eight ways of the name's set. -/
def wWays (f : Nat → SlathEntry) : State :=
  (List.range 8).foldl (fun s w => putSlath s (slathSlice 0 0) (slathSet 0 0 * 8 + w) (f w)) w0

/-- A DONE entry of another name that nothing pins. -/
def doneEntry : SlathEntry := { SlathEntry.reset with hi := 1, state := .done, age := 7 }

theorem free_w0 (n : Nat) : w0.t.claims.getD n .free = .free := by
  have : ∀ n, n < 32 → w0.t.claims.getD n .free = .free := by decide
  by_cases h : n < 32
  · exact this n h
  · rw [List.getD_eq_default]
    exact Nat.le_of_not_lt h

theorem witness_ClaimName :
    (Direct w0 ∧ w0.Inv ∧ (wWays fun _ => doneEntry).Inv) ∧
    (∀ j, j < 32 → (w0.onT fun t => { t with claims := List.replicate 32 (.maker 8) }).t.claims.getD j .free ≠ .free) ∧
    FirstSlot w0 (fun c => c = .free) 0 ∧
    (∀ w, w < 8 → (slathAt w0 (slathSlice 0 0) (slathSet 0 0 * 8 + w)).state = .free) ∧
    (let e := fun w => slathAt (wWays fun _ => doneEntry) (slathSlice 0 0) (slathSet 0 0 * 8 + w)
     ∀ w, w < 8 → (e w).state = .done ∧ (e w).wait = 0 ∧ (e w).refs = 0 ∧ (e w).hi ≠ 0) ∧
    (let e := fun w => slathAt (wWays fun _ => { doneEntry with refs := 1 }) (slathSlice 0 0) (slathSet 0 0 * 8 + w)
     ∀ w, w < 8 → (e w).state ≠ .free ∧ (e w).refs ≠ 0 ∧ (e w).hi ≠ 0) ∧
    (let e := fun w => slathAt (wWays fun w => { SlathEntry.reset with state := .making, hi := if w = 7 then 0 else 1, vac := true })
       (slathSlice 0 0) (slathSet 0 0 * 8 + w)
     (e 7).state = .making ∧ (e 7).vac = true ∧ (e 7).hi = 0 ∧ ∀ i, i < 7 → (e i).hi ≠ 0) ∧
    (let e := fun w => slathAt (wWays fun w => { SlathEntry.reset with state := .making, wait := if w = 0 then 4095 else 1 })
       (slathSlice 0 0) (slathSet 0 0 * 8 + w)
     (e 0).vac = false ∧ (e 0).hi = 0 ∧ (e 0).wait = 4095#12 ∧ (e 1).wait ≠ 4095#12) ∧
    (let e := fun w => slathAt (wWays fun w => { doneEntry with hi := 0, refs := if w = 0 then 0xFFFF else 0xFFFE })
       (slathSlice 0 0) (slathSet 0 0 * 8 + w)
     (e 0).state = .done ∧ (e 0).refs = 0xFFFF#16 ∧ (e 1).refs ≠ 0xFFFF#16) :=
  ⟨⟨direct_w0, inv_w0, inv_of _ (by decide +kernel)⟩, by decide +kernel, ⟨by decide, free_w0 0, fun i h => absurd h (Nat.not_lt_zero i)⟩,
    by decide +kernel, by decide +kernel, by decide +kernel, by decide +kernel, by decide +kernel, by decide +kernel⟩

/-- Entry 2 of slice 3, with the claim list's first slot and x5. -/
def wEntry (e : SlathEntry) (c : ClaimSlot) (h : Word) : State :=
  setX ((putSlath w0 3 2 e).onT fun t => { t with claims := t.claims.set 0 c }) 5 h

/-- A claim handle and a future handle of the entry, GEN 9. -/
def hClaim : Word := handleOf 3 2 9 0 0x5C
def hFuture : Word := handleOf 3 2 9 0 0x5D

/-- The entry MAKING, with one waiting. -/
def eMaking : SlathEntry := { SlathEntry.reset with state := .making, gen := 9, maker := 0, wait := 1 }

theorem first_slot {s : State} {ok : ClaimSlot → Prop} (h : ok (s.t.claims.getD 0 .free)) : FirstSlot s ok 0 :=
  ⟨by decide, h, fun i hi => absurd hi (Nat.not_lt_zero i)⟩

theorem witness_GivingBack :
    (let s := wEntry eMaking (.maker hClaim) hClaim
     Direct s ∧ s.Inv ∧ Current s (xr s 5) eMaking ∧ FirstSlot s (HoldsMaker (xr s 5)) 0 ∧ handleTag (xr s 5) = 0x5C ∧
       FirstSlot s (fun c => HoldsMaker (xr s 5) c ∨ HoldsFuture (xr s 5) c) 0 ∧ (xr s 0).toNat % 8 = 0 ∧ canonical (xr s 0).toNat = true ∧
       heldFlds s (handleSlice hClaim) (handleEntry hClaim) = [] ∧
       heldFlds (onSlice s 3 fun k => { k with deferred := [.fld 9 2 hFuture] }) (handleSlice hClaim) (handleEntry hClaim) = [(9, hFuture)]) ∧
    (let s := wEntry eMaking (.future hFuture) hFuture
     s.Inv ∧ Current s (xr s 5) eMaking ∧ FirstSlot s (fun c => HoldsMaker (xr s 5) c ∨ HoldsFuture (xr s 5) c) 0 ∧
       handleTag (xr s 5) = 0x5D) ∧
    let s := wEntry doneEntry (.ref 3 2 0 8) 8
    FirstSlot s (fun c => ∃ x y z, c = .ref x y z (xr s 5)) 0 ∧ s.t.claims.getD 0 .free = .ref 3 2 0 (xr s 5) :=
  ⟨⟨⟨rfl, rfl, rfl⟩, inv_of _ (by decide +kernel), ⟨by decide +kernel, by decide, by decide +kernel, fun _ => by decide +kernel⟩,
      first_slot ⟨hClaim, rfl, rfl⟩, by decide +kernel, first_slot (.inl ⟨hClaim, rfl, rfl⟩), by decide, by decide, by decide +kernel,
      by decide +kernel⟩,
    ⟨inv_of _ (by decide +kernel), ⟨by decide +kernel, by decide, by decide +kernel, fun _ => by decide +kernel⟩,
      first_slot (.inr ⟨hFuture, rfl, rfl⟩), by decide +kernel⟩, first_slot ⟨3, 2, 0, rfl⟩, by decide +kernel⟩

theorem witness_ClaimsAndFutures :
    (∀ e ∈ [{ doneEntry with gen := 9 }, { eMaking with vac := true }, { eMaking with maker := 7 }],
      let s := wEntry e (.future hFuture) hFuture
      s.wire = [] ∧ handleTag (xr s 5) = 0x5D ∧ slathAt s (handleSlice (xr s 5)) (handleEntry (xr s 5)) = e ∧ e.gen = handleGen (xr s 5) ∧
        e.state ≠ .free ∧ (sliceAt s (handleSlice (xr s 5))).deferred = []) ∧
    (let s := wEntry eMaking (.future hFuture) hFuture
     FirstSlot s (HoldsFuture (xr s 5)) 0) ∧
    (let s := wEntry { eMaking with gen := 8 } .free hClaim
     handleTag (xr s 5) = 0x5C ∧ (slathAt s (handleSlice (xr s 5)) (handleEntry (xr s 5))).gen ≠ handleGen (xr s 5)) ∧
    Direct w0 ∧ (∀ j, j < 32 → ¬ HoldsMaker 8 (w0.t.claims.getD j .free)) ∧ (∀ j, j < 32 → ¬ HoldsFuture 8 (w0.t.claims.getD j .free)) ∧
    (∀ j, j < 32 → ¬ ∃ x y z, w0.t.claims.getD j .free = .ref x y z 8) ∧ handleTag 8 ≠ 0x5C ∧ handleTag 8 ≠ 0x5D := by
  refine ⟨by decide +kernel, first_slot ⟨hFuture, rfl, rfl⟩, by decide +kernel, direct_w0, fun j _ => ?_, fun j _ => ?_, fun j _ => ?_,
    by decide, by decide⟩ <;> rw [free_w0]
  · rintro ⟨g, h, -⟩
    cases h
  · rintro ⟨g, h, -⟩
    cases h
  · rintro ⟨x, y, z, h⟩
    cases h

/-! Scheduling, the SYS group and the scalar rows. -/

/-- A valid record: COUNT 1, one level of scope DIE, WEIGHT 1, no dependence. -/
def wRecord : List Byte :=
  (List.range 256).map fun i =>
    if i = 8 then 1 else if i = 0x90 then 0x98 else if i = 0xDD then 1 else if 0xE0 ≤ i ∧ i < 0xF0 then 0xFF else 0

/-- A launch with that record, of the nodes given. -/
def wLaunch (key : Nat) (hold : Bool) (nodes : List (Nat × Nat)) : Launch :=
  { key := key, image := wRecord, queue := none, xl := none, spawner := taskTag w0, hold := hold, edges := [], nodes := nodes, ready := []
    doneClock := Clock4.zero, clock := Clock4.zero, place := none, started := [], ended := [] }

/-- The record at 0x1040, and the handle of D0's node 1 in x5, of node 2 in x7; both nodes have generation 1. -/
def wPool (ls : List Launch) : State :=
  { setX (setX (setX (pokeBytes w0 0x1040 wRecord) 8 0x1040) 5 (word (1 + 2 ^ 16 + 0x5E * 2 ^ 56))) 7 (word (2 + 2 ^ 16 + 0x5E * 2 ^ 56)) with
    launches := ls
    nodeGen := [(1, 1), (2, 1)] }

theorem witness_SpawnAndDep :
    (let s := wPool []
     let r := (List.range 256).map fun k => readByte s 0 ((xr s 8).toNat + k)
     Direct s ∧ Plain s 0 ∧ (xr s 8).toNat % 64 = 0 ∧ InHbm 0 (xr s 8).toNat 256 ∧ recValid r = true ∧ topScope (levelsOf r) ≤ 3 ∧
       poolCount s 0 < 4096 ∧ nodeTaken s 0 0 = false ∧ recValid ((List.range 256).map fun _ => (0 : Byte)) = false) ∧
    (xr wMem 6).toNat % 64 ≠ 0 ∧
    (let s := wPool [wLaunch 0 true ((List.range 4096).map fun i => (0, i))]
     4096 ≤ poolCount s 0) ∧
    (let s := wPool [wLaunch 0 true [(0, 1)], wLaunch 1 false [(0, 2)], wLaunch 2 true [(0, 3)]]
     (launchOfHandle s (xr s 5)).isSome ∧ ((launchOfHandle s (xr s 5)).map fun l => (l.hold, l.spawner)) = some (true, taskTag s) ∧
       (taskTag s).isSome ∧ xr s 0 = 0 ∧ launchOfHandle s 8 = none ∧ handleForm 8 = false ∧
       ((launchOfHandle s (xr s 7)).map fun p => p.hold) = some false) := by
  refine ⟨⟨⟨by decide +kernel, by decide +kernel⟩, ⟨inv_of _ (by decide +kernel), by decide +kernel, by decide +kernel,
    by decide +kernel, fun _ => ⟨rfl, rfl⟩, .inl (by decide +kernel)⟩, by unfold InHbm; decide +kernel⟩, by decide +kernel, by decide +kernel, by decide +kernel⟩

/-- VL = 0 and VL above it, for `vx.munf`, `vx.spawn` and `vx.glaunch`. -/
theorem witness_no_length : Direct (cfg w0 0 4) ∧ (cfg w0 0 4).Inv ∧ Plain (cfg w0 0 4) 0 ∧ vl (cfg w0 0 4) = 0 ∧ 0 < vl w0 ∧ 0 < vl wMem :=
  have h : (cfg w0 0 4).Inv := inv_of _ (by decide +kernel)
  ⟨⟨rfl, rfl, rfl⟩, h, ⟨h, rfl, rfl, rfl, fun _ => ⟨rfl, rfl⟩, .inl rfl⟩, rfl, by decide, by decide⟩

/-- A reference whose entry is stale raises CLAIM; one that an uncorrectable error freed does not. -/
theorem witness_stale_reference :
    let s := wEntry eMaking (.ref 3 2 0 8) 8
    FirstSlot s (fun c => ∃ x y z, c = .ref x y z (xr s 5)) 0 ∧ s.t.claims.getD 0 .free = .ref 3 2 0 (xr s 5) ∧
      (slathAt s 3 2).state ≠ .done ∧ ¬ (sliceAt s 3).lost.contains (2, 0) = true ∧
      (sliceAt (onSlice s 3 fun c => { c with lost := [(2, 0)] }) 3).lost.contains (2, 0) = true :=
  ⟨first_slot ⟨3, 2, 0, rfl⟩, by decide +kernel, by decide +kernel, by decide +kernel, by decide +kernel⟩

theorem witness_GlaunchYieldLvl :
    Direct w0 ∧ w0.Inv ∧ (xr wMem 6).toNat % 64 ≠ 0 ∧ (xr wMem 8).toNat % 64 = 0 ∧ (blockAt w0 0).queue.length < 8 ∧
      8 ≤ (blockAt (putBlock w0 0 { GBlock.reset with queue := List.replicate 8 ⟨0, xlateNow w0, 0, 0, 0⟩ }) 0).queue.length ∧
      (entry w0 .vxYield).t.queue ≠ [] ∧ w0.t.queue = [] ∧ w0.t.preempt = none ∧ readyWaits w0 = false ∧ preemptSure w0 = false ∧
      (let s := wAsked w0
       s.t.task.isSome ∧ pushBusy s s.t = false ∧ s.t.preempt.isSome ∧ preemptWaits s = false ∧ s.t.medeleg.getLsbD 29 = true ∧
         s.t.mode ≠ .machine) ∧ AreaSound (wAsked w0) ∧
      (let s := { wCopying with t := { wCopying.t with preempt := some ⟨0, false⟩ } }
       s.t.task.isSome ∧ pushBusy s s.t = false ∧ s.t.preempt.isSome ∧ preemptWaits s = true) ∧
      w0.t.task = some placedTask :=
  ⟨direct_w0, inv_w0, by decide, by decide, by decide, by decide, by decide, rfl, rfl, by decide +kernel, rfl, by decide +kernel,
    ⟨by decide +kernel, rfl, rfl, rfl⟩, by decide +kernel, rfl⟩

/-- Another strand's atomic has locked the line of the context's descriptor. -/
def wLocked : State := onSlice w0 (homeSlice 0x2000) fun c => { c with locks := [(0x2000, 9)] }

theorem witness_EndOfTask :
    (let s := w0.onT fun t => { t with task := none }
     s.t.task = none ∧ s.t.queue = [] ∧ (encode .vxEnd).isSome) ∧
    (wCopying.t.task.isSome ∧ copiesOpen wCopying wCopying.gid = true) ∧ (entry w0 .vxEnd).t.queue ≠ [] ∧
    (let s := w0.onT fun t => { t with cfault := 0x8000000000000000 }
     s.t.task.isSome ∧ copiesOpen s s.gid = false ∧ closeLocked s s.gid = false ∧ Lowest s.t.cfault 63) ∧ closeLocked wLocked wLocked.gid = true ∧
    (w0.t.task = some placedTask ∧ w0.t.queue = [] ∧ copiesOpen w0 w0.gid = false ∧ closeLocked w0 w0.gid = false ∧ w0.t.cfault = 0 ∧ w0.Inv ∧
      Sound w0 w0.t.sbaseNow w0.t.sdescNow) ∧
    (let l := { wLaunch 0 false [(0, 1)] with queue := some (5, 0x1000), image := wRecord.set 0xFC 1 }
     (launchOf (wPool [l]) placedTask.launch) = some l ∧ recCompl l.image ≠ 0) :=
  ⟨⟨rfl, rfl, rfl⟩, by decide, by decide, ⟨rfl, by decide +kernel, by decide +kernel, by decide, by decide⟩, by decide +kernel,
    ⟨rfl, rfl, rfl, by decide +kernel, rfl, inv_w0, sound_w0⟩, by decide +kernel⟩

/-- The strand in user mode. -/
def wUser (s : State) : State := s.onT fun t => { t with mode := .user }

/-- A frame of the task's context is pending. -/
def wPending : State :=
  { (w0.onT fun t => { t with pend := true }) with
    frames := [(0, ⟨25, 7, [pushEntry w0 (.vaIota 1 0)], [(1, VReg.zero)], [], [], 256⟩)]
    images := [⟨0x201000, 256, 7, []⟩] }

theorem witness_SysGroup :
    ((wUser w0).t.mode = .user ∧ (wUser w0).t.queue = [] ∧ (wUser w0).t.replay = none ∧ (encode (.vxSave 5)).isSome) ∧
    (w0.t.mode ≠ .user ∧ (entry w0 .vxVdrain).t.queue ≠ [] ∧ copiesOpen wCopying wCopying.gid = true ∧ copiesOpen w0 w0.gid = false) ∧
    (128 ≤ (xr (setX w0 5 128) 5).toNat ∧ (xr (setX w0 5 127) 5).toNat < 128 ∧ 1 ≤ (xr (setX w0 5 1) 5).toNat ∧ (xr w0 0).toNat = 0) ∧
    (w0.t.task = some placedTask ∧ AreaSound w0 ∧ w0.t.ctxState = .active ∧ w0.t.pend = false ∧ saveLocked w0 = false ∧
      closeLocked w0 w0.gid = false ∧ saveLocked wLocked = true) ∧
    (let s := { (w0.onT fun t => { t with ctxState := .preempted }) with scalarFrames := [⟨0, 3, wStrand⟩] }
     s.t.ctxState = .preempted ∧ s.scalarFrames.find? (fun p => p.ctx == placedTask.ctx) = some ⟨0, 3, wStrand⟩ ∧ AreaSound s) ∧
    (wPending.t.pend = true ∧ saveLocked wPending = false ∧ closeLocked wPending wPending.gid = false ∧ wPending.t.task = some placedTask ∧ AreaSound wPending ∧
      (∃ f, wPending.frames.find? (fun p => p.1 == placedTask.ctx) = some (placedTask.ctx, f) ∧ (f.vregs.map fun p => p.1 % 32).Nodup) ∧
      imageOk wPending 0x201000 7 = true ∧ imageOk { wPending with images := [⟨0x201000, 256, 7, [0x201010]⟩] } 0x201000 7 = false) ∧
    Direct w0 ∧ w0.Inv :=
  ⟨⟨rfl, rfl, rfl, rfl⟩, ⟨by decide, by decide, by decide, rfl⟩, by decide, ⟨rfl, sound_w0, rfl, rfl, by decide +kernel⟩,
    ⟨rfl, rfl, by decide +kernel, rfl, rfl, rfl⟩, ⟨rfl, by decide +kernel, by decide +kernel, rfl, ⟨by decide +kernel, rfl, rfl, rfl⟩, ⟨_, rfl, by decide⟩, by decide +kernel, by decide +kernel⟩, direct_w0, inv_w0⟩

/-- A copy under a page that `vx.tlbinv` removes, and one under another; no instruction runs under either. -/
theorem witness_copyUnder :
    let c := fun va : Nat => { w0 with copies := [{ wJob 1 with
      started := true, pages := [⟨false, va, 12, 0x1000, false, false⟩], xl := { xlateNow w0 with datp := 0xA000000000000000 } }] }
    (∃ j ∈ (c 1).copies, j.outcome = none ∧ ∃ p ∈ j.pages, pageUnder j p (some 0x1000) none = true) ∧
      (∀ j ∈ (c 9).copies, ∀ p ∈ j.pages, pageUnder j p (some 0x1000) none = false) ∧ ∀ g, (strandAt (c 9) g).queue = [] :=
  ⟨by decide +kernel, by decide +kernel, fun g => by unfold strandAt; split <;> rfl⟩

theorem witness_ScalarInstructions :
    (∃ p, scalarOf (.op .divw 1 2 3) = some p) ∧ (∃ p, scalarOf (.unary .rev8 1 2) = some p) ∧
      (w0.t.pc + BitVec.ofInt 64 ((0xFFFFF#20 ++ 0#1).toInt)).toNat % 4 ≠ 0 ∧
      (w0.t.pc + BitVec.ofInt 64 ((0xFFFFE#20 ++ 0#1).toInt)).toNat % 4 = 0 ∧
      ((xr wMem 6 + BitVec.ofInt 64 (3#12).toInt) &&& ~~~1#64).toNat % 4 = 0 ∧ branches .bgeu (xr wMem 5) (xr wMem 0) ∧
      ¬ branches .beq (xr wMem 5) (xr wMem 0) ∧ w0.t.queue = [] :=
  ⟨⟨_, rfl⟩, ⟨_, rfl⟩, by decide, by decide, by decide, by unfold branches; decide, by unfold branches; decide, rfl⟩

theorem witness_ScalarMemoryAndAtomics :
    (xr wMem 6 + BitVec.ofInt 64 (0#12).toInt).toNat % (loadForm .lh).1 ≠ 0 ∧ (xr wMem 6 + BitVec.ofInt 64 (0#12).toInt).toNat % storeForm .sd ≠ 0 ∧
      (xr wMem 7 + BitVec.ofInt 64 (0#12).toInt).toNat % (loadForm .ld).1 = 0 ∧ PlainScalar wMem 0 ∧
      InHbm 0 (xr wMem 7 + BitVec.ofInt 64 (0#12).toInt).toNat 8 ∧ wMem.invals = [] ∧ wMem.waits = [] ∧ wMem.t.queue = [] ∧ (xr wMem 6).toNat % 4 ≠ 0 ∧
      (wMem.onT fun t => { t with reservation := some 32 }).t.reservation = some (lineOf ((xr wMem 5).toNat - 0)) :=
  ⟨by decide, by decide, by decide, ⟨plain_wMem, fun h => absurd h (by decide)⟩, by unfold InHbm; decide, rfl, rfl, rfl, by decide, rfl⟩

theorem witness_ScalarFences :
    (entry w0 .wfi).t.queue ≠ [] ∧ w0.t.queue = [] ∧ (wUser w0).t.mode = .user ∧ w0.t.mode = .supervisor ∧ w0.t.mstatus.getLsbD 20 = false ∧
      (let s := w0.onT fun t => { t with ssip := true, mie := 2 }
       s.t.ssip = true ∧ s.t.mie.getLsbD 1 = true) ∧ w0.t.ssip = false ∧ ¬ w0.t.stimecmp.toNat ≤ w0.time.toNat ∧
      (w0.onT fun t => { t with mstatus := 0x300000 }).t.mstatus.getLsbD 21 = true ∧ (encode .wfi).isSome ∧
      (encode (.sfenceVma 1 2)).isSome := by decide +kernel

theorem witness_ControlRegisters :
    ((0xCC7#12, w0.t.ctags.toNat) ∈ deviceCsrs w0) ∧ (entry w0 .wfi).t.queue ≠ [] ∧ w0.t.queue = [] ∧ w0.t.mode ≠ .user ∧
      copiesOpen wCopying wCopying.gid = true ∧ copiesOpen w0 w0.gid = false ∧ (wUser w0).t.mode = .user ∧
      (0x5C2#12).toNat / 256 % 4 ≠ 0 ∧ 2 ≤ (0x300#12).toNat / 256 % 4 ∧ csrRead w0 0x7FF = none ∧ (csrRead w0 0x141).isSome ∧
      (csrRead w0 0xC00).isSome ∧ (0xC00#12).toNat / 1024 = 3 ∧ (0x141#12).toNat / 1024 ≠ 3 ∧
      (w0.onT fun t => { t with mode := .machine }).t.mode = .machine ∧ (0xB02#12, 2 ^ 64 - 1) ∈ csrMasks := by decide +kernel

theorem witness_TrapsTakenAndLeft :
    (w0.t.mode ≠ .machine ∧ w0.t.medeleg.getLsbD 2 = true ∧ w0.t.medeleg.getLsbD 9 = false ∧ 63 < 64) ∧ w0.t.queue = [] ∧
      (entry w0 .wfi).t.queue ≠ [] ∧
      ((wUser w0).t.mode = .user ∧ (w0.onT fun t => { t with mstatus := 0x400000 }).t.mstatus.getLsbD 22 = true ∧
        w0.t.mstatus.getLsbD 22 = false) ∧
      (let s := w0.onT fun t => { t with mode := .machine, firmware := true, mcause := 9, ctxState := .preempted }
       s.t.mode = .machine ∧ s.t.firmware = true ∧ s.t.mcause = 9 ∧ s.t.ctxState = .preempted ∧ s.t.task.isSome ∧
         Sound s s.t.sbaseNow s.t.sdescNow ∧ physLocked s s.t.sdescNow.toNat 64 = false) ∧
      (encode .sret).isSome ∧ (encode .mret).isSome :=
  ⟨⟨by decide, rfl, rfl, by decide⟩, rfl, by decide, ⟨rfl, rfl, rfl⟩, ⟨rfl, rfl, rfl, rfl, rfl, ⟨by decide +kernel, rfl, rfl, rfl⟩, by decide +kernel⟩, rfl, rfl⟩

/-! The events. -/

/-- The inputs of an event. -/
def inp (s : State) (f : Input → Input) : State := { s with inp := f s.inp }

/-- The only strand with a task is the one to take the place of. -/
theorem victimAlone {s : State} {prio : Nat} {can : Nat → Bool} (hp : s.peers = [])
    (h : ∃ k, strandAt s s.gid = s.t ∧ s.t.task = some k ∧ can s.gid = true ∧ k.prio < prio) : Victim s prio can s.gid := by
  obtain ⟨k, h0, h1, h2, h3⟩ := h
  refine ⟨k, h0 ▸ h1, h2, h3, fun g j hg hj => ?_⟩
  rw [show strandAt s g = Strand.reset by simp [strandAt, hg, hp]] at hj
  exact absurd hj (by simp [Strand.reset])

theorem witness_Focus : w0.Inv := inv_w0

/-- Two candidates of core 0 for lane group 0. -/
def wIssuing : State :=
  let e := pushEntry w0 (.vaIota 1 0)
  { (w0.onT fun t => { t with queue := [e], share := 4 }) with
    peers := [(1, { wStrand with vl := 2, queue := [{ e with vl := 300 }], share := 4 })] }

theorem witness_ElementGroupIssue :
    w0.Inv ∧ (List.range 4).filterMap (fun j => candidateOf w0 0 0 j) = [] ∧ wIssuing.Inv ∧
      (let C := (List.range 4).filterMap fun j => candidateOf wIssuing 0 0 j
       C.length = 2 ∧ ∃ c ∈ C, ∀ d ∈ C, d ≠ c → IssuesFirst c d) :=
  ⟨inv_w0, by decide +kernel, inv_of _ (by decide +kernel), by unfold IssuesFirst; decide +kernel⟩

/-- Each of the units that take one instruction at a time: free with one candidate, free with none, and at work. -/
theorem witness_units :
    ∀ p ∈ [(IssueUnit.plait, Instr.vpSort 4 0), (.matrix, .vxMzero 31), (.plait, .vmLdx 1 2 3 0)],
      let C := fun s => (if p.1 = .matrix then [IssueUnit.matrix] else [.plait, .sorter]).flatMap fun v =>
        (List.range 4).filterMap fun j => wholeOf s 0 v j
      (unitBusy (entry wMem p.2) 0 p.1 (fun _ _ => true) = false ∧ (C (entry wMem p.2)).length = 1) ∧ C wMem = [] ∧
        unitBusy ((entry wMem p.2).onT fun t => { t with queue := t.queue.map fun e => { startEntry e with since := [(0, 0)] } }) 0 p.1 (fun _ _ => true) = true := by
  decide +kernel

/-- Traps that wait, the software and the timer interrupt enabled and delegated. -/
def wIntr : State := w0.onT fun t => { t with mie := 0x22, mideleg := 0x22, mstatus := 2, ssip := true, stimecmp := 0 }

theorem witness_CommitAndDelivery :
    (let T := (focusOn (entry w0 .vxVdrain) 0).t
     (∃ e r, T.queue = e :: r ∧ e.done = false) ∧ (entry w0 .vxVdrain).Inv) ∧ wIntr.Inv ∧
    (wIntr.t.queue = [] ∧ wIntr.t.storeTraps = [] ∧ wIntr.t.ssip = true ∧ IntrTaken wIntr.t 1) ∧
    (w0.t.ssip = false ∧ w0.time.toNat < w0.t.stimecmp.toNat) ∧
    (let s := wIntr.onT fun t => { t with ssip := false }
     s.t.ssip = false ∧ s.t.stimecmp.toNat ≤ s.time.toNat ∧ IntrTaken s.t 5) ∧
    (∃ p r, (w0.onT fun t => { t with storeTraps := [⟨7, 0⟩] }).t.storeTraps = p :: r) :=
  ⟨⟨⟨_, _, rfl, rfl⟩, inv_of _ (by decide +kernel)⟩, inv_of _ (by decide +kernel), ⟨rfl, rfl, rfl, by unfold IntrTaken; decide +kernel⟩,
    ⟨rfl, by decide +kernel⟩, ⟨rfl, by decide +kernel, by unfold IntrTaken; decide +kernel⟩, ⟨_, _, rfl⟩⟩

/-- The launch of key 1 with PRIO 5, ready and not started; the strand's own launch has PRIO 0 and stands on strand 0. -/
def wWants : State :=
  { wPool [{ wLaunch 0 false [(0, 1)] with ready := [(0, (0, 0))], place := some (0, 0), started := [0] },
           { wLaunch 1 false [(0, 2)] with ready := [(0, (1, 0))], image := wRecord.set 0xDC 5 }] with
    clock := 10000000
    ctxTable := [(0, 0x40000)]
    inp := { Input.none with key := 1, b := 1 } }

/-- A context of that launch, suspended. -/
def wSuspended (c : State) (prio : Nat) : State :=
  { c with suspended := [⟨7, [], false, none, 0, 0, [], { wStrand with task := some { placedTask with ctx := 7, prio := prio } }⟩]
           inp := { Input.none with key := 7, f0 := true } }

/-- A waiting node of a grouped launch of PRIO 5 in block 0, ready since the moment 0. -/
def wNode (c : State) : State :=
  { putBlock c 0 { GBlock.reset with
      served := [⟨0, ⟨0, xlateNow w0, 5, 1, 0⟩, 0, 0, 0, 0, 64, 64, 0, 1, 1, 10, [], 0, 0, 0, false, false⟩]
      nodes := [⟨0, 0, 0, 0, 8, 0, 0, 0, 0⟩] } with
    inp := { Input.none with f1 := true } }

theorem sound_wWants : Sound wWants 0x200000 0x100000 := by unfold Sound; decide +kernel

theorem witness_requests :
    (wWants.Inv ∧ ∃ l, wWants.inp.f1 = false ∧ wWants.inp.f0 = false ∧ launchOf wWants wWants.inp.key = some l ∧ launchReady l = true ∧
      wWants.inp.die ∈ l.nodes.map Prod.fst ∧ l.ready.find? (fun p => p.1 == wWants.inp.die) = some (wWants.inp.die, (1, 0)) ∧
      0 + 10 * wWants.handle.clockMhz ≤ wWants.clock ∧
      ∃ v, Victim wWants (recPrio l.image) (fun g => dieOf g == wWants.inp.die && couldTake l g) v) ∧
    (let s := { wWants with clock := 0 }
     ∃ l, launchOf s s.inp.key = some l ∧ l.ready.find? (fun p => p.1 == s.inp.die) = some (s.inp.die, (1, 0)) ∧
       s.clock < 0 + 10 * s.handle.clockMhz) ∧
    (let s := wSuspended wWants 3
     s.Inv ∧ ∃ c k, s.inp.f1 = false ∧ s.inp.f0 = true ∧ s.suspended.find? (fun d => d.ctx == s.inp.key) = some c ∧ c.saved.task = some k ∧
       c.since + 10 * s.handle.clockMhz ≤ s.clock ∧ ∃ v, Victim s k.prio (mayResume s c) v) ∧
    (let s := wNode wWants
     s.Inv ∧ s.inp.f1 = true ∧ ∃ n w, waitingNode (blockAt s s.inp.unit) = some (n, w) ∧ n.since + 10 * s.handle.clockMhz ≤ s.clock ∧
       ∃ v, Victim s w.req.prio (fun g => dieOf g == s.inp.unit / 4) v) ∧
    ∃ n w, waitingNode (blockAt (wNode w0) 0) = some (n, w) ∧ w0.clock < n.since + 10 * w0.handle.clockMhz :=
  have victim : ∀ {s : State} {prio can}, s.peers = [] → (∃ k, _ ∧ _) → ∃ v, Victim s prio can v := fun hp h => ⟨_, victimAlone hp h⟩
  ⟨⟨inv_of _ (by decide +kernel), _, rfl, rfl, rfl, by decide +kernel, by decide +kernel, rfl, by decide +kernel,
      victim (by decide +kernel) ⟨placedTask, by decide +kernel⟩⟩,
    ⟨_, rfl, rfl, by decide +kernel⟩,
    ⟨inv_of _ (by decide +kernel), _, _, rfl, rfl, rfl, rfl, by decide +kernel, victim (by decide +kernel) ⟨placedTask, by decide +kernel⟩⟩,
    ⟨inv_of _ (by decide +kernel), rfl, _, _, rfl, by decide +kernel, victim (by decide +kernel) ⟨placedTask, by decide +kernel⟩⟩,
    _, _, rfl, by decide +kernel⟩

theorem witness_forced :
    (∃ r, (wAsked w0).t.preempt.map (fun r => { r with sure := true }) = some r ∧ r.sure = true) ∧
    (let s := wAsked wWants
     s.Inv ∧ ∃ r k, s.t.preempt = some r ∧ r.sure = false ∧ s.t.task = some k ∧
       ((r.deadline ≤ s.clock ∧ saveWaits (withdrawWaiting s s.gid) = false) ∧ s.clock < r.deadline + 10000 * s.handle.clockMhz + 1) ∧ Sound s s.t.sbase s.t.sdesc) ∧
    (let s := { wAsked wWants with scOut := some 0 }
     ∃ r, s.t.preempt = some r ∧ r.deadline ≤ s.clock ∧ saveWaits (withdrawWaiting s s.gid) = true) ∧
    ∀ p ∈ [(wWants, false), (wCopying, true)],
      let s := { wAsked p.1 with clock := 10 ^ 9 }
      (s.t.preempt.all fun r => decide (r.deadline + 10000 * s.handle.clockMhz ≤ s.clock)) = true ∧ copiesOpen s s.gid = p.2 ∧
        closeLocked s s.gid = false :=
  ⟨⟨_, rfl, rfl⟩, ⟨inv_of _ (by decide +kernel), _, _, rfl, rfl, rfl, by decide +kernel, by unfold Sound; decide +kernel⟩,
    ⟨_, rfl, by decide +kernel⟩, by decide +kernel⟩

theorem witness_watchdog :
    (let s := (entry wWants (.vaIota 1 0)).onT fun t => { t with watchdog := 9 }
     ∃ k, s.t.task = some k ∧ s.t.ctxState = .active ∧ s.t.watchdog ≠ 0 ∧ s.t.watchdog ≤ s.clock ∧ s.t.framing = none ∧ s.t.preempt = none ∧ s.t.pend = false ∧ saveLocked s = false ∧
       Sound s s.t.sbase s.t.sdesc ∧ (∀ e ∈ s.t.queue.head?, e.done = false) ∧ recordsOwed s s.gid = false ∧ s.t.mode ≠ .machine ∧
       s.t.medeleg.getLsbD 48 = true) ∧
    (let s := (wAsked wWants).onT fun t => { t with watchdog := 9 }
     ∃ r, s.t.preempt = some r ∧ r.sure = false ∧ r.deadline < s.t.watchdog ∧ r.deadline ≤ s.clock ∧ s.t.ctxState = .active) :=
  ⟨⟨_, rfl, by unfold Sound; decide +kernel⟩, _, rfl, by decide +kernel⟩

/-- The context table of die 0 gives the save area and the descriptor. -/
def wTable : State := pokeBytes wWants 0x40000 (bytesOf 8 0x200000 ++ bytesOf 8 0x100000)

theorem witness_TaskDispatch :
    ∃ l g e ws, wTable.Inv ∧ launchOf wTable wTable.inp.key = some l ∧ launchReady l = true ∧
      outranked wTable (dieOf g) (launchRank l (dieOf g)) = false ∧ startStrand wTable l wTable.inp.x wTable.inp.b wTable.inp.idx = some g ∧
      freeCtx wTable (dieOf g) = some e ∧
      (let te := tableEntry wTable (dieOf g) e
       let sdesc := te.2 &&& 0xFFFFFFFFFFFFC0
       Sound wTable (te.1 &&& 0xFFFFFFFFFFF000) sdesc ∧ supervisorBlock wTable ((descRead wTable sdesc 24 8).getD 1) = some ws) := by
  refine ⟨{ wLaunch 1 false [(0, 2)] with ready := [(0, (1, 0))], image := wRecord.set 0xDC 5 }, 1, 0, List.replicate 7 0,
    inv_of _ (by decide +kernel), ?_⟩
  unfold Sound; decide +kernel

theorem witness_ResumptionAndReadiness :
    (let s := { (wSuspended wWants 3).onT (fun t => { t with task := none }) with launches := wWants.launches.take 1 }
     s.Inv ∧ ∃ c, s.suspended.find? (fun d => d.ctx == s.inp.key) = some c ∧ strandFree s s.inp.gid = true ∧ (∀ n, (sliceAt s n).locks = []) ∧
       mayResume s c s.inp.gid = true ∧ outranked s (c.ctx / 8192) (readyRank s c) = false ∧ Sound s c.saved.sbase c.saved.sdesc ∧
       (∀ p ∈ c.seeds, imageOk s (c.saved.sbase.toNat + p.1) p.2 = true) ∧ c.saved.task.isSome ∧ copiesOpen s s.inp.gid = false ∧
       imageOk s c.saved.sbase.toNat 3 = false) ∧
    (let s := wPool [wLaunch 0 false [(0, 1), (1, 4)]]
     s.Inv ∧ ∃ l, launchOf s s.inp.key = some l ∧ l.hold = false ∧ (∀ k ∈ l.edges, launchOf s k = none) ∧
       s.inp.die ∈ l.nodes.map Prod.fst ∧ s.inp.die ∉ l.ready.map Prod.fst) :=
  ⟨⟨inv_of _ (by decide +kernel), _, rfl, by decide +kernel, fun _ => rfl, by decide +kernel, by decide +kernel, by unfold Sound; decide +kernel,
      by decide +kernel, by decide +kernel, by decide +kernel, by decide +kernel⟩,
    inv_of _ (by decide +kernel), _, rfl, rfl, by decide +kernel, by decide +kernel, by decide +kernel⟩

/-- One message on the wire. -/
def wire (s : State) (m : Msg) : State := { s with wire := [m] }

theorem first_msg {s : State} {kind : Msg → Prop} {m : Msg} (h : s.wire = [m]) (hk : kind m) : FirstMsg s kind m [] :=
  ⟨[], [], h, rfl, hk, fun _ hx => by cases hx⟩

/-- Nothing is locked, owned or queued where no slice holds anything. -/
theorem free_line {s : State} (h : s.slices = []) (line : Nat) : Unlocked s line ∧ Unowned s line := by
  have e : sliceAt s (homeSlice line) = Slice.reset := by simp [sliceAt, h]
  refine ⟨fun p hp => ?_, fun p hp => ?_⟩ <;> rw [e] at hp <;> cases hp

/-- The strand waits for line 32; a flit of it has arrived. -/
def wReading (d : FillDest) : State :=
  { wire w0 (.readReply 0 32 0 (List.replicate 128 7) false d) with
    slices := (onSlice w0 (homeSlice 32) fun c => { c with cache := [32] }).slices
    records := [{ Reserved w0 0 (planeOf 32) 0 32 1 true with got := 1 }]
    inp := { Input.none with line := 32, slot := 1, dest := d } }

theorem witness_ReadEvents :
    (∀ d ∈ [FillDest.scalarL1, .replica, .instrCache, .record],
      let s := { w0 with inp := { Input.none with line := 32, dest := d } }
      Injects s (servingSlice s 0 32) 0 (planeOf 32) 32 0 1 0 ∧ 32 * 128 < bskLoc ∧ s.slices = [] ∧ s.invals = [] ∧ s.waits = [] ∧
        s.inp.f0 = false ∧ setFull s (servingSlice s 0 32) 32 = false) ∧
    (let s := { w0 with inp := { Input.none with gid := 512, line := 32, dest := .replica } }
     s.inp.line * 128 < bskLoc ∧ homeDie s.inp.line ≠ dieOf s.inp.gid ∧ replicaAt s (dieOf s.inp.gid) s.inp.line = none ∧ s.inp.line ∉ s.errs ∧
       s.records = [] ∧ dieOf s.inp.gid < 4 ∧ setFull s (dieOf s.inp.gid * 512 + homeSlice 32 % 512) 32 = false) ∧
    (∀ d ∈ [FillDest.scalarL1, .replica, .instrCache, .record],
      let s := wReading d
      invTest s = true ∧ portStopped s 0 = false ∧ (∃ r, s.records.find? (fun r => recordFor 0 32 r && (replyOf s r).isSome) = some r ∧ r.nf = 1 ∧
        r.dead = false ∧ r.failed = false ∧ r.recNo = 0 ∧ r.got ||| BitVec.ofNat 3 (2 ^ (1 % 2)) = 3 ∧ r.got ||| BitVec.ofNat 3 (2 ^ (0 % 2)) ≠ 3) ∧
        32 ∈ (sliceAt s (servingSlice s (coreOf 0 / 128) 32)).cache) ∧
    (∀ d, FirstMsg (wReading d) (fun m => ∃ b f d, m = .readReply 0 32 0 b f d) (.readReply 0 32 0 (List.replicate 128 7) false d) []) ∧
    homeDie 32 = coreOf 0 / 128 := by
  refine ⟨by unfold Injects; decide +kernel, by decide +kernel, fun d hd => ?_, fun _ => first_msg rfl ⟨_, _, _, rfl⟩, by decide⟩
  simp only [List.mem_cons, List.mem_nil_iff, or_false] at hd
  rcases hd with rfl | rfl | rfl | rfl <;>
    exact ⟨by decide +kernel, by decide +kernel, ⟨{ Reserved w0 0 (planeOf 32) 0 32 1 true with got := 1 }, by decide +kernel⟩, by decide +kernel⟩

/-- Eight bytes to be written at 0x1000, line 32; `L` in scalar L1s, `e` with failing checks, `w` waiting. -/
def wWriting (L : List (Nat × Nat)) (e : List Nat) (w : List WaitWrite) : State :=
  { w0 with l1 := L, errs := e, waits := w, inp := { Input.none with loc := 0x1000, data := List.replicate 8 1, f0 := true, line := 32 } }

/-- A scalar write of strand 4 that waits for line 32. -/
def wWait : WaitWrite := ⟨4, 32, [(0x1000, 9)], none, true, 0⟩

theorem witness_WriteEvents :
    (∀ s ∈ [wWriting [] [] [], wWriting [(1, 32)] [] [], wWriting [] [] [wWait], wWriting [] [32] []],
      invTest s = true ∧ s.inp.loc < hostLoc ∧ s.inp.data ≠ [] ∧ s.inp.loc % 128 + s.inp.data.length ≤ 128 ∧ s.slices = [] ∧ s.invals = [] ∧
        Injects s (homeSlice 32) 0 (planeOf 32) 32 2 0 0 ∧ s.lines = []) ∧
    (Unlocked (wWriting [] [] []) 32 ∧ Unowned (wWriting [] [] []) 32) ∧
    (∃ p ∈ (wWriting [(1, 32)] [] []).l1, p.2 = 32 ∧ p.1 / 128 = homeDie 32 ∧ ¬ ((wWriting [(1, 32)] [] []).inp.f0 = true ∧ p.1 = coreOf 0)) ∧
    (∃ w ∈ (wWriting [] [] [wWait]).waits, w.line = 32) ∧
    ((wWriting [] [32] []).errs = [32] ∧ (wWriting [] [] []).errs = [] ∧ (wWriting [] [] []).l1 = [] ∧ (wWriting [] [] []).waits = []) ∧
    (∀ f, let s := { wire (wWriting [] [] []) (.writeAck 0 32 1 0x1000 true f) with records := [Reserved w0 0 (planeOf 32) 0 32 0 true] }
      FirstMsg s (fun m => ∃ st va sc f, m = .writeAck 0 32 st va sc f) (.writeAck 0 32 1 0x1000 true f) [] ∧
        ∃ r, s.records.find? (fun r => recordFor 0 32 r && decide (r.nf = 0)) = some r ∧ r.got = 0 ∧ r.dead = false ∧ r.failed = false) ∧
    w0.t.task.isSome ∧ (wWriting [] [] []).records = [] :=
  ⟨by unfold Injects; decide +kernel, free_line rfl _, by decide +kernel, by decide +kernel, ⟨rfl, rfl, rfl, rfl⟩,
    fun _ => ⟨first_msg rfl ⟨_, _, _, _, rfl⟩, Reserved w0 0 (planeOf 32) 0 32 0 true, rfl, rfl, rfl, rfl⟩, rfl, rfl⟩

/-- A vector atomic or a conditional store at the head of the queue, its line 32 locked; line 33 is next. -/
def wLocking : State :=
  let s := setX w0 5 0x1000
  { s with t := { s.t with queue := [pushEntry s (.vmAmoadd 1 5 2 0)], locks := [32] }, inp := { Input.none with line := 33 } }

theorem witness_AtomicEvents :
    (let s := wWriting [] [] []
     (Unlocked s 32 ∧ Unowned s 32) ∧ s.inp.loc % 8 = 0 ∧ s.inp.loc % 4 = 0 ∧ lineOf s.inp.loc = 32 ∧ 32 ∉ s.errs ∧
       Injects s (homeSlice 32) 0 (planeOf 32) 32 4 0 0) ∧ (wWriting [] [32] []).errs = [32] ∧
    (let s := { wire (wWriting [] [] []) (.atomicReply 0 0x1000 7 false) with records := [Reserved w0 0 (planeOf 32) 0 32 0 true] }
     FirstMsg s (fun m => ∃ v f, m = .atomicReply 0 0x1000 v f) (.atomicReply 0 0x1000 7 false) [] ∧
       ∃ r, s.records.find? (fun r => recordFor 0 32 r && decide (r.nf = 0)) = some r ∧ r.got = 0 ∧ r.dead = false) ∧
    (∀ s ∈ [wLocking, { wLocking with basket := [(0, 512)] }],
      invTest s = true ∧ s.slices = [] ∧ (∃ e r, s.t.queue = e :: r ∧ e.done = false ∧ e.word.toNat % 128 = 0x2B ∧ e.word.toNat / 2 ^ 12 % 8 = 2) ∧
        s.inp.line * 128 < hostLoc ∧ (∀ l ∈ s.t.locks, l < s.inp.line) ∧ portStopped s 0 = false ∧ unanswered s 0 33 0 = false ∧
        queuedRequest s (homeSlice 33) 0 33 4 = none ∧ (freeRecord s 0 (planeOf 33)).isSome ∧
        waysLocked s 33 = !s.basket.all fun p => p.2 == 128) ∧ (Unlocked wLocking 33 ∧ Unowned wLocking 33) ∧ setFull wLocking (homeSlice 33) 33 = false ∧
    FirstMsg (wire wLocking (.lockReply 0 33 false)) (fun m => ∃ l, m = .lockReply 0 l false) (.lockReply 0 33 false) [] := by
  refine ⟨⟨free_line rfl _, by unfold Injects; decide +kernel⟩, rfl, ⟨first_msg rfl ⟨_, _, rfl⟩, Reserved w0 0 (planeOf 32) 0 32 0 true, by decide +kernel⟩,
    ?_, free_line rfl _, by decide +kernel, first_msg rfl ⟨_, rfl⟩⟩
  intro s hs
  rcases List.mem_pair.mp hs with rfl | rfl <;>
    exact ⟨by decide +kernel, rfl, ⟨_, _, rfl, by decide +kernel⟩, by decide, by decide +kernel, by decide +kernel, by decide +kernel,
      by decide +kernel, by decide +kernel, by decide +kernel⟩

/-- Line 32 with an owner, or agents that wait for it, and copies that run. -/
def wOwning (owned wait : List (Nat × Nat)) (js : List CopyJob) : State :=
  { onSlice w0 (homeSlice 32) (fun k => { k with owned := owned, ownerQueue := wait }) with
    l1 := [(1, 32)], copies := js, inp := { Input.none with line := 32, unit := 4 } }

/-- The copy on tag 4, which writes line 32 next. -/
def wFill : CopyJob := { wJob 4 with started := true, fill := true, dst := 0x1000 }

/-- Cluster 0 holds line 32 in a scalar L1, or not, while a write waits for its invalidation. -/
def wInvalid (L : List (Nat × Nat)) (e : List Nat) (w : List WaitWrite) : State :=
  { wWriting L e w with invals := [(0, 32)], inp := { Input.none with line := 32 } }

theorem witness_invalidations :
    (∀ s ∈ [wInvalid [(1, 32)] [] [], wInvalid [] [] [], wInvalid [] [] [{ wWait with isScalar := false }], wInvalid [(1, 32)] [] [wWait],
        wInvalid [] [32] [wWait], { wInvalid [] [] [wWait] with invals := [(0, 32), (1, 32)] }],
      invTest s = true ∧ (0, 32) ∈ s.invals ∧ s.slices = []) ∧
    (Unlocked (wInvalid [] [] [wWait]) 32 ∧ Unowned (wInvalid [] [] [wWait]) 32) ∧
    (wInvalid [(1, 32)] [] []).waits.find? (fun w => w.line == 32) = none ∧ (0, 32) ∉ w0.invals ∧
    (wInvalid [] [] [wWait]).waits.find? (fun w => w.line == 32) = some wWait ∧ (∀ c, (c, 32) ∉ (wInvalid [] [] [wWait]).invals.erase (0, 32)) ∧
    (1, 32) ∈ ({ wInvalid [] [] [wWait] with invals := [(0, 32), (1, 32)] }).invals.erase (0, 32) ∧
    (32 ∈ (wInvalid [] [32] [wWait]).errs ∧ coversLine (wWait.ws.map Prod.fst) 32 = false) ∧ coreOf wWait.gid = 1 ∧ wWait.isScalar = true :=
  ⟨by decide +kernel, free_line rfl _, by decide +kernel, by decide, by decide +kernel, fun c => by simp [wInvalid], by decide +kernel,
    ⟨by decide, by decide +kernel⟩, by decide, rfl⟩

theorem witness_CoherenceEvents :
    (∀ s ∈ [wOwning [] [] [], wOwning [] [] [wFill], wOwning [] [(32, 4)] [], wOwning [] [(32, 4)] [wFill], wOwning [(32, 4)] [(32, 4)] [wFill],
      wOwning [(32, 4)] [] []], invTest s = true ∧ s.wire = []) ∧
    copyRunning (wOwning [] [] []) 4 = none ∧ copyRunning (wOwning [] [] [wFill]) 4 = some wFill ∧ copyRunning w0 4 = none ∧
    (nextLine (wOwning [] [] [wFill]) wFill = some 32 ∧ Unowned (wOwning [] [] [wFill]) 32 ∧
      (32, 4) ∉ (sliceAt (wOwning [] [] [wFill]) (homeSlice 32)).ownerQueue ∧
      Injects (wOwning [] [] [wFill]) (homeSlice 32) 0 (planeOf 32) 32 8 0 0) ∧
    (let s := { wire (wOwning [] [] []) (.ownerGrant 4 32) with records := [Reserved w0 0 (planeOf 32) 0 32 0 false] }
     FirstMsg s (fun m => ∃ a, m = .ownerGrant a 32) (.ownerGrant 4 32) [] ∧
       ∃ r, s.records.find? (fun r => recordFor 0 32 r && decide (r.nf = 0)) = some r ∧ r.got = 0 ∧ r.dead = false) ∧
    (let s := wOwning [] [(32, 4)] [wFill]
     (sliceAt s (homeSlice 32)).ownerQueue = [] ++ (32, 4) :: [] ∧ Unowned s 32 ∧ Unlocked s 32 ∧ ownedBy s (4 / 256) < 256 ∧
       copyRunning s 4 = some wFill ∧ nextLine s wFill = some 32 ∧ isTranslated wFill.xl = false ∧
       pieceFails s wFill (pieceOf wFill wFill.pos) = none ∧ ∀ b, .ownerGrant b 32 ∉ s.wire) ∧
    copyRunning (wOwning [] [(32, 4)] []) 4 = none ∧
    (let s := wOwning [(32, 4)] [(32, 4)] [wFill]
     ¬ Unowned s 32 ∧ nextLine s wFill = some 32) ∧
    (let s := wOwning [(32, 4)] [] []
     (32, 4) ∈ (sliceAt s (homeSlice 32)).owned ∧ (∀ p ∈ (sliceAt s (homeSlice 32)).owned, p = (32, 4)) ∧ s.copies = []) ∧
    (let s := wOwning [(32, 4)] [] [{ wJob 4 with started := true, held := [(32, [(0x1000, 9)])] }]
     invTest s = true ∧ ∃ j ws, s.copies.find? (fun j => j.gid * 64 + j.tag == 4) = some j ∧ j.held = [(32, ws)]) :=
  ⟨by decide +kernel, by decide +kernel, by decide +kernel, by decide +kernel, by unfold Unowned Injects; decide +kernel,
    ⟨first_msg rfl ⟨_, rfl⟩, Reserved w0 0 (planeOf 32) 0 32 0 false, by decide +kernel⟩,
    ⟨by decide +kernel, by unfold Unowned; decide +kernel, by unfold Unlocked; decide +kernel, by decide +kernel, by decide +kernel, by decide +kernel, by decide +kernel, by decide +kernel,
      fun b hb => by cases hb⟩,
    by decide +kernel, by unfold Unowned; decide +kernel, by decide +kernel, by decide +kernel, _, _, rfl, rfl⟩

/-- An entry of the queue, tried again by an event of strand 0; x5 holds 0x1000. -/
def wTrying (i : Instr) : State := inp (entry (setX (cfg w0 2 4) 5 0x1000) i) fun j => { j with loc := 0x1000 }

/-- A strand that sleeps on addresses whose words differ from v5's and v7's. -/
def wSleeping (d : BitVec 4) : State :=
  setV (setV (wTrying (.vmGcsleep d 5 0 0)) 5 { VReg.zero with len := 2, bits := BitVec.ofNat _ (2 ^ 32 + 1) })
    7 { VReg.zero with len := 2, bits := BitVec.ofNat _ (2 ^ 32 + 1) }

theorem witness_WaitEvents :
    (wTrying .vxEnd).inp.loc % 16 = 0 ∧ (wTrying .vxEnd).inp.loc < hostLoc ∧ (Unlocked (wTrying .vxEnd) 32 ∧ Unowned (wTrying .vxEnd) 32) ∧
    (let s := wTrying (.vmBwait 5 0 0)
     Plain s 0 ∧ s.wire = [] ∧ ∃ e r, (focusOn s 0).t.queue = e :: r ∧ e.instr = .vmBwait 5 0 0 ∧ Retried (focusOn s 0) e ∧ act s 0 0 = true ∧
       e.xa.toNat % 16 = 0 ∧ InHbm 0 e.xa.toNat 16 ∧ numAt (homeByte s) 0 (e.xa.toNat + 8) 4 = e.xb.toNat % 2 ^ 32) ∧
    (let s := wTrying (.vmBwait 5 5 0)
     ∃ e r, (focusOn s 0).t.queue = e :: r ∧ Retried (focusOn s 0) e ∧ numAt (homeByte s) 0 (e.xa.toNat + 8) 4 ≠ e.xb.toNat % 2 ^ 32) ∧
    (∀ d : BitVec 4, d = 2 ∨ d = 3 → ∀ s ∈ [wTrying (.vmGcsleep d 5 0 0), wSleeping d],
      Plain s 0 ∧ (∃ e r, (focusOn s 0).t.queue = e :: r ∧ e.instr = .vmGcsleep d 5 0 0 ∧ Retried (focusOn s 0) e ∧ e.vl.toNat = 2 ∧ e.xa = 0x1000) ∧
        s.t.wake = false ∧ s.t.preempt = none ∧
        ∀ j, j < 2 → InHbm 0 ((0x1000 + elem 32 (getV s (2 * d.toNat)).bits j) % 2 ^ 64) 4 ∧
          ((0x1000 + elem 32 (getV s (2 * d.toNat)).bits j) % 2 ^ 64) % 4 = 0) ∧
    (∀ d : BitVec 4, d = 2 ∨ d = 3 → ∀ j, j < 2 →
      numAt (homeByte (wTrying .vxEnd)) 0 ((0x1000 + elem 32 (getV (wTrying .vxEnd) (2 * d.toNat)).bits j) % 2 ^ 64) 4 =
        elem 32 (getV (wTrying .vxEnd) (2 * d.toNat + 1)).bits j ∧
      numAt (homeByte (wSleeping d)) 0 ((0x1000 + elem 32 (getV (wSleeping d) (2 * d.toNat)).bits j) % 2 ^ 64) 4 ≠
        elem 32 (getV (wSleeping d) (2 * d.toNat + 1)).bits j) ∧
    FirstMsg (wire w0 (.nackBwait 0 0x1000 0 64)) (fun m => (∃ l p n, m = .nackBwait 0 l p n) ∨ ∃ h n, m = .nackFld 0 h n)
      (.nackBwait 0 0x1000 0 64) [] ∧ (Unlocked w0 32 ∧ Unowned w0 32) ∧ ¬ Unlocked wLocked (lineOf 0x100000) ∧
    (∀ p, Deferred.bwait 0 0x1000 p ∉ (sliceAt w0 (homeSlice 32)).deferred) ∧ (∃ k, 32 ≤ (sliceAt wFull k).deferred.length) := by
  refine ⟨by decide, by decide, free_line rfl _, ⟨⟨inv_of _ (by decide +kernel), rfl, rfl, rfl, fun _ => ⟨rfl, rfl⟩, .inl rfl⟩, rfl, _, _, rfl, rfl,
    by unfold Retried AsPushed; decide +kernel, rfl, by decide +kernel, by unfold InHbm; decide +kernel, by decide +kernel⟩,
    ⟨_, _, rfl, by unfold Retried AsPushed; decide +kernel, by decide +kernel⟩, fun d hd => ?_, fun d hd => ?_,
    first_msg rfl (.inl ⟨_, _, _, rfl⟩), free_line rfl _, by unfold Unlocked; decide +kernel, fun p hp => (by cases hp), homeSlice 32, by decide +kernel⟩
  · rcases hd with rfl | rfl <;> intro s hs <;> rcases List.mem_pair.mp hs with rfl | rfl <;>
      exact ⟨⟨inv_of _ (by decide +kernel), rfl, rfl, rfl, fun _ => ⟨rfl, rfl⟩, .inl rfl⟩,
        ⟨_, _, rfl, rfl, by unfold Retried AsPushed; decide +kernel, by decide +kernel, by decide +kernel⟩, rfl, rfl, by unfold InHbm; decide +kernel⟩
  · rcases hd with rfl | rfl <;> decide +kernel

/-- Instruction i, with register a, stands at the head of strand 0's queue. -/
def HeadIs (s : State) (i : Instr) (a : Reg) : Prop :=
  let f := focusOn (entry s i) 0
  (entry s i).Inv ∧ f.t.queue = [pushEntry s i] ∧ (pushEntry s i).instr = i ∧ Retried f (pushEntry s i) ∧ (pushEntry s i).xa = xr s a

theorem witness_heads :
    (∀ p ∈ [(Instr.vxClaim 7 0 0, (0 : Reg)), (.vxFld 7 5, 5), (.vxFulfil 5 0, 5), (.vxAbandon 5, 5), (.vxRelease 5, 5), (.vxFprobe 7 5, 5)],
      HeadIs (wEntry eMaking (.maker hClaim) hClaim) p.1 p.2 ∧ HeadIs (wEntry eMaking (.future hFuture) hFuture) p.1 p.2 ∧
        HeadIs (wEntry doneEntry (.ref 3 2 0 8) 8) p.1 p.2) ∧ w0.t.queue = [] := by
  refine ⟨fun i hi => ?_, rfl⟩
  simp only [List.mem_cons, List.mem_nil_iff, or_false] at hi
  rcases hi with rfl | rfl | rfl | rfl | rfl | rfl <;>
    exact ⟨⟨inv_of _ (by decide +kernel), rfl, rfl, by unfold Retried AsPushed; decide +kernel, by decide +kernel⟩,
      ⟨inv_of _ (by decide +kernel), rfl, rfl, by unfold Retried AsPushed; decide +kernel, by decide +kernel⟩,
      inv_of _ (by decide +kernel), rfl, rfl, by unfold Retried AsPushed; decide +kernel, by decide +kernel⟩

theorem witness_SlathEvents :
    (∀ i, i < 32 → (w0.onT fun t => { t with claims := List.replicate 32 (.maker 0) }).t.claims.getD i .free ≠ .free) ∧
    (FirstSlot w0 (fun c => c = .free) 0 ∧ ∀ w, w < 8 → (slathAt w0 (slathSlice 0 0) (slathSet 0 0 * 8 + w)).state = .free) ∧
    (∀ e ∈ [{ eMaking with gen := 0 }, { doneEntry with hi := 0 }],
      let s := wWays fun w => if w = 3 then e else SlathEntry.reset
      invTest s = true ∧ slathAt s (slathSlice 0 0) (slathSet 0 0 * 8 + 3) = e ∧ e.state ≠ .free ∧ e.hi = 0 ∧ e.lo = 0 ∧
        e.wait ≠ 4095#12 ∧ e.refs ≠ 0xFFFF#16) ∧
    (∀ e ∈ [{ eMaking with vac := true }, { doneEntry with gen := 9 }],
      let s := wEntry e (.future hFuture) hFuture
      Current s hFuture e ∧ s.wire = []) ∧
    (let s := wEntry { eMaking with maker := 7 } (.future hFuture) hFuture
     Current s hFuture { eMaking with maker := 7 } ∧ (sliceAt s (handleSlice hFuture)).deferred = []) ∧
    FirstSlot (wEntry eMaking (.future hFuture) 0) (HoldsFuture hFuture) 0 ∧ handleTag hFuture = 0x5D ∧
    (let s := wEntry eMaking (.maker hClaim) hClaim
     Current s hClaim eMaking ∧ FirstSlot s (HoldsMaker hClaim) 0 ∧ handleTag hClaim = 0x5C ∧ eMaking.vac = false ∧ (8 : Word).toNat % 8 = 0 ∧
       canonical (8 : Word).toNat = true ∧ FirstSlot s (fun c => HoldsMaker hClaim c ∨ HoldsFuture hClaim c) 0 ∧
       heldFlds s (handleSlice hClaim) (handleEntry hClaim) = []) ∧
    (let s := wEntry doneEntry (.ref 3 2 0 8) 0
     FirstSlot s (fun c => ∃ x y z, c = .ref x y z 8) 0 ∧ s.t.claims.getD 0 .free = .ref 3 2 0 8 ∧ (slathAt s 3 2).state = .done ∧
       (slathAt s 3 2).gen = 0 ∧ (2, 0) ∉ (sliceAt s 3).lost) :=
  ⟨by decide +kernel, ⟨⟨by decide, rfl, fun i hi => absurd hi (Nat.not_lt_zero i)⟩, by decide +kernel⟩, by decide +kernel, by unfold Current; decide +kernel,
    by unfold Current; decide +kernel, first_slot ⟨hFuture, rfl, rfl⟩, by decide +kernel,
    ⟨⟨by decide +kernel, by decide, by decide +kernel, fun _ => by decide +kernel⟩, first_slot ⟨hClaim, rfl, rfl⟩, by decide +kernel, rfl, by decide,
      by decide, first_slot (.inl ⟨hClaim, rfl, rfl⟩), by decide +kernel⟩, first_slot ⟨3, 2, 0, rfl⟩, by decide +kernel⟩

/-- A push to strand 4, whose first register is asked for, granted, or under way. -/
def wPushing (m : List Msg) (b : Option Nat) : State :=
  let s := setX { cfg w0 2 4 with peers := [(4, wStrand)] } 5 4
  { (entry s (.vxPush 1 5 2 0)).onT (fun t => { t with bound := b }) with wire := m }

theorem witness_PushEvents :
    (∃ o, { w0 with scOut := some 4 }.scOut = some o) ∧
    (∃ e r, w0.scOut = none ∧ (entry w0 (.vmLdsc 1 5 0)).t.queue = e :: r ∧ e.done = false ∧ e.instr = .vmLdsc 1 5 0) ∧
    (let s := wPushing [] none
     s.Inv ∧ ∃ e r, (focusOn s 0).t.queue = e :: r ∧ e.instr = .vxPush 1 5 2 0 ∧ AsPushed e ∧ (1 : Reg).toNat % cfgG e.vcfg = 0 ∧
       (2 : Reg).toNat % cfgG e.vcfg = 0 ∧ e.xa.toNat < 2048 ∧ e.xa.toNat ≠ s.gid ∧ e.progress < cfgG e.vcfg ∧ s.wire = []) ∧
    (∀ p, FirstMsg (wPushing [.pushAsk 0 p 1 0 2] none) (fun m => ∃ p r b n, m = .pushAsk 0 p r b n) (.pushAsk 0 p 1 0 2) []) ∧
    (let s := wPushing [.pushAsk 0 4 1 0 2] none
     let f := focusOn s 0
     s.t.bound = none ∧ (strandAt s 9).task = none ∧ s.suspended = [] ∧ (strandAt s 4).task = some placedTask ∧ (strandAt s 4).pending[1] = none ∧
       (strandAt s 4).granted = [] ∧ corePending f (coreOf 4) < 16 ∧ 0 < poolFree f (coreOf 4)) ∧
    (let s := { wPushing [.pushAsk 0 9 1 0 2] none with suspended := [⟨7, [], true, none, 9, 0, [], wStrand⟩] }
     invTest s = true ∧ (strandAt s 9).task = none ∧ ∃ c ∈ s.suspended, c.forced = true ∧ c.last = 9) ∧
    (let s := wPushing [.pushGrant 0 4 1 0 2 0] (some 0)
     FirstMsg s (fun m => ∃ p r b n o, m = .pushGrant 0 p r b n o) (.pushGrant 0 4 1 0 2 0) [] ∧ s.t.bound = some 0 ∧
       (strandAt s 4).task = some placedTask ∧ placedTask.order = 0 ∧ (focusOn s 0).t.queue ≠ []) :=
  ⟨⟨_, rfl⟩, ⟨_, _, rfl, rfl, rfl, rfl⟩, ⟨inv_of _ (by decide +kernel), _, _, rfl, rfl, by unfold AsPushed; decide +kernel, by decide, by decide,
      by decide, by decide, by decide, rfl⟩, fun _ => first_msg rfl ⟨_, _, _, _, rfl⟩, by decide +kernel, by decide +kernel,
    first_msg rfl ⟨_, _, _, _, _, rfl⟩, by decide +kernel⟩

/-- Die 1 has a replica of line 32, with an update on its way, and an open epoch. -/
def wReplica (c : Clock4) : State :=
  { w0 with
    replicas := [⟨1, 32, 4, Clock4.zero, List.replicate 128 0, [(3, 6)]⟩], updates := [⟨1, 32, 5, 0, c, List.replicate 128 1⟩], openEpochs := [1]
    lines := [(32, { LineInfo.reset with guests := 2 })], inp := { Input.none with die := 1, line := 32 } }

theorem may_w : ∀ u ∈ (wReplica Clock4.zero).updates, MayApply (wReplica Clock4.zero) u := by
  intro u hu
  rw [show u = ⟨1, 32, 5, 0, Clock4.zero, List.replicate 128 1⟩ from List.mem_singleton.mp hu]
  refine ⟨by decide +kernel, fun e he _ _ => ?_⟩
  have : ∀ e, e < 4 → (Clock4.zero.get e).toNat = 0 := by decide
  simp [this e he]

theorem witness_ReplicaEvents :
    (let s := wReplica Clock4.zero
     s.Inv ∧ (∃ u, s.updates = [] ++ u :: [] ∧ u.die = s.inp.die ∧ MayApply s u ∧ u.line = s.inp.line) ∧ (replicaAt s s.inp.die s.inp.line).isSome ∧
       s.inp.die ∈ s.openEpochs ∧ (lineAt s s.inp.line).guests ≠ 0 ∧ ∃ d, d < 4 ∧ d ≠ homeDie 32 ∧ (lineAt s 32).guests.getLsbD d = true) ∧
    (let s := wReplica (Clock4.zero.put 0 9)
     ∀ u ∈ s.updates, u.die = s.inp.die → ¬ MayApply s u) ∧
    replicaAt w0 1 32 = none ∧ 1 ∉ w0.openEpochs ∧ (lineAt w0 32).guests = 0 := by
  refine ⟨⟨inv_of _ (by decide +kernel), ⟨_, rfl, rfl, may_w _ (List.mem_singleton.mpr rfl), rfl⟩, by decide +kernel, by decide, by decide +kernel, 1,
    by decide +kernel⟩, fun u hu _ hm => ?_, by decide +kernel⟩
  rw [show u = ⟨1, 32, 5, 0, Clock4.zero.put 0 9, List.replicate 128 1⟩ from List.mem_singleton.mp hu] at hm
  exact absurd hm.1 (by decide +kernel)

/-- Every Wale port down. -/
def wDown : State := { w0 with ports := (List.range 36).map fun k => (k, { WalePort.reset with up := false }) }

/-- Port 0 down. -/
def wOneDown : State := { w0 with ports := [(0, { WalePort.reset with up := false })] }

/-- A window of 1 MiB at 2^51 to package 3. -/
def wWindowed : State := { w0 with map := { w0.map with wale := [(0, ⟨2 ^ 51, 2 ^ 20, 3, 0⟩)] } }

theorem witness_OuterAccesses :
    (∀ a ∈ [ExtAccess.read 8, .write [1, 2], .amo .add true 7], ∀ p ∈ [(w0, 2 ^ 50 + 64, hostLoc + 64)],
      let s := inp p.1 fun j => { j with addr := p.2.1, acc := a }
      invTest s = true ∧ locOf s s.inp.addr = some p.2.2 ∧ s.errs = [] ∧ hostLoc ≤ p.2.2 ∧ placeOf p.2.2 = .host ∧ s.records = [] ∧
        Injects s (sliceOn 0 s.inp.addr) 0 (columnOf s.inp.addr) (lineOf p.2.2) 13 0 0) ∧
    (∀ q ∈ [([], true), ((List.range 36).map (fun k => (k, { WalePort.reset with up := false })), false)],
      let s := { (inp wWindowed fun j => { j with addr := 2 ^ 51 + 64, acc := .read 8 }) with ports := q.1 }
      ∃ loc, locOf s s.inp.addr = some loc ∧ invTest s = true ∧ hostLoc ≤ loc ∧ placeOf loc = .wale ∧ s.records = [] ∧
        waleOf s.map s.inp.addr = some ⟨2 ^ 51, 2 ^ 20, 3, 0⟩ ∧ (∀ k, k < 36 → portReady s k = q.2) ∧
        Injects s (sliceOn 0 s.inp.addr) 0 (columnOf s.inp.addr) (lineOf loc) 13 0 0) ∧
    (∀ s ∈ [w0, wOneDown, wDown],
      let s := inp s fun j => { j with addr := 0x1000 }
      invTest s = true ∧ locOf s s.inp.addr = some 0x1000 ∧ 0x1000 < hostLoc ∧ s.wire = [] ∧ s.slices = [] ∧ s.incoming = []) ∧
    portReady w0 0 = true ∧ ((portAt wOneDown 0).up = false ∧ portReady wOneDown 1 = true ∧ ∀ i, i < 1 → portReady wOneDown i = false) ∧
    (Unlocked w0 32 ∧ Unowned w0 32) ∧ ¬ Unlocked wLocked (lineOf 0x100000) ∧ ∀ k, k < 36 → portReady wDown k = false :=
  ⟨by unfold Injects; decide +kernel, by
      intro q hq
      rcases List.mem_pair.mp hq with rfl | rfl <;> exact ⟨_, rfl, by unfold Injects; decide +kernel⟩,
    by decide +kernel, by decide +kernel, by decide +kernel, free_line rfl _, by unfold Unlocked; decide +kernel, by decide +kernel⟩

/-- A window of line 32 and cluster 0 that cores 0 and 1 may join; strand 0 waits at a `vm.ldmc` of that line for them, or for core 2 alone. -/
def wWindow (ws : List Window) (mask : Word) : State :=
  let s := onSlice (setX (cfg w0 2 4) 5 0x1000) (homeSlice 32) fun k => { k with windows := ws }
  { entry (setX s 6 mask) (.vmLdmc 1 5 6 0) with inp := { Input.none with line := 32, key := 3 } }

/-- Windows of that line, core 1 having joined: open since the moment 0, and open since the moment 64 cycles ago. -/
def wOpen (n : Nat) : State := { wWindow [⟨32, 0, 3, 2, true, 0⟩] 3 with weave := n }

theorem witness_MulticastEvents :
    (∀ p ∈ [(wWindow [] 4, 4#16), (wWindow [] 3, 3), (wOpen 0, 3), (wWindow [⟨32, 0, 7, 2, true, 0⟩] 7, 7), (wWindow [⟨32, 0, 3, 1, true, 0⟩] 3, 3)],
      let s := p.1
      invTest s = true ∧ s.records = [] ∧ portStopped s 0 = false ∧ Unlocked s 32 ∧ Unowned s 32 ∧ headWants s 0 32 = true ∧ headMask s 0 = p.2 ∧
        unanswered s 0 32 1 = false ∧ queuedRequest s (homeSlice 32) 0 32 14 = none ∧ ∀ w ∈ (sliceAt s (homeSlice 32)).windows, windowDue s w = false) ∧
    headWants w0 0 32 = false ∧
    (4#16).getLsbD (coreOf 0 % 16) = false ∧ (3#16).getLsbD (coreOf 0 % 16) = true ∧ 3#16 ≠ BitVec.ofNat 16 (2 ^ (coreOf 0 % 16)) ∧
    (sliceAt (wWindow [] 3) (homeSlice 32)).windows = [] ∧
    (∀ n, (sliceAt (wOpen n) (homeSlice 32)).windows = [] ++ ⟨32, 0, 3, 2, true, 0⟩ :: []) ∧
    (2#16).getLsbD 0 = false ∧ (1#16).getLsbD 0 = true ∧ 2#16 ||| 1 = 3 ∧ 2#16 ||| 1 ≠ 7 ∧ (0 + 64 ≤ (wOpen 64).weave ∧ Unowned (wOpen 64) 32) ∧
    (let r : Record := ⟨0, planeOf 32, 0, true, 32, 0, 1, [], none, false, false, false, Clock4.zero, 0, false⟩
     let s := { wire w0 (.mcReply 0 0 3 32 [] true false Clock4.zero) with records := [r] }
     FirstMsg s (fun x => ∃ d m b c f v, x = .mcReply d 0 m 32 b c f v) (.mcReply 0 0 3 32 [] true false Clock4.zero) [] ∧
       r.gid / 64 = 0 ∧ (3#16).getLsbD (r.gid / 4 % 16) = true ∧ ∀ r ∈ s.records, r.dead = false) :=
  ⟨by unfold Unlocked Unowned; decide +kernel, by decide +kernel, by decide, by decide, by decide, by decide +kernel, fun _ => rfl, by decide, by decide,
    by decide, by decide, ⟨by decide, by unfold Unowned; decide +kernel⟩, first_msg rfl ⟨_, _, _, _, _, _, rfl⟩, by decide, by decide, by decide +kernel⟩

/-- A root at 0x10000 whose tables lead the first page to a leaf, with the permissions given. -/
def wPaged (perm : Nat) : State :=
  let t := fun s p q => pokeBytes s (p * 4096) (bytesOf 8 (q * 2 ^ 10 + 1))
  (pokeBytes (t (t (t (t w0 16 17) 17 18) 18 19) 19 20) (20 * 4096) (bytesOf 8 (21 * 2 ^ 10 + perm))).onT fun u =>
    { u with datp := word (10 * 2 ^ 60 + 16) }

theorem walk_ends {s : State} {va ppn : Nat} {p : Leaf → Bool} (h : (walkFrom s va 5 ppn).toOption.any p = true) :
    ∃ l, walkFrom s va 5 ppn = .ok l ∧ p l = true := by
  cases hw : walkFrom s va 5 ppn with
  | error c => rw [hw] at h; cases h
  | ok l => rw [hw] at h; exact ⟨l, rfl, h⟩

theorem walk_fails {s : State} {va ppn : Nat} (h : (walkFrom s va 5 ppn).toOption.isNone = true) : ∃ c, walkFrom s va 5 ppn = .error c := by
  cases hw : walkFrom s va 5 ppn with
  | error c => exact ⟨c, rfl⟩
  | ok l => rw [hw] at h; cases h

theorem witness_PageWalk :
    isTranslated (xlateNow w0) = false ∧ canonical (2 ^ 63) = false ∧
    (∃ c, walkFrom (wPaged 0) 0 5 ((wPaged 0).t.datp.toNat % 2 ^ 44) = .error c) ∧
    ∀ perm ∈ [0xC3, 0xD3],
      (let s := wPaged perm
       invTest s = true ∧ isTranslated (xlateNow s) = true ∧ canonical 0 = true ∧ walkWaits (focusOn s 0) 0 (xlateNow s) 0 = false) ∧
      ∃ l, walkFrom (wPaged perm) 0 5 ((wPaged perm).t.datp.toNat % 2 ^ 44) = .ok l ∧
        (decide (l.pte / 2 ^ 54 % 128 = 0) && permOk (xlateNow (wPaged perm)) .read (l.pte % 256) == decide (perm = 0xC3)) = true := by
  refine ⟨rfl, by decide, walk_fails (by decide +kernel), fun perm hp => ?_⟩
  simp only [List.mem_cons, List.mem_nil_iff, or_false] at hp
  rcases hp with rfl | rfl
  all_goals exact ⟨by decide +kernel, walk_ends (by decide +kernel)⟩
/-- No strand has a task. -/
def wIdle : State := { w0.onT (fun t => { t with task := none }) with mem := [] }

theorem quiet {s : State} (hp : s.peers = []) (ht : s.t.task = none) (on : Nat → Prop) : Quiet s on := fun g _ => by
  by_cases h : g = s.gid
  · simp [strandAt, h, ht]
  · simp [strandAt, h, hp, Strand.reset]

/-- A copy of four bytes, as an event of strand 0 and tag 1 finds it. -/
def wCopy (f : CopyJob → CopyJob) : State := inp { wCopying with copies := wCopying.copies.map f } fun j => { j with unit := 1 }

/-- A copy that has started, of rows of four bytes. -/
def wStarted (f : CopyJob → CopyJob) : State := wCopy fun c => f { c with started := true }

theorem witness_CopyEvents :
    (∀ s ∈ [wCopy id, wStarted id, wCopy fun c => { c with outcome := some true }, wCopy fun c => { c with outcome := some false }],
      invTest s = true ∧ (copyAt s 0 1).isSome ∧ s.errs = [] ∧ s.slices = [] ∧ s.inp.f1 = false ∧ s.inp.f0 = false) ∧
    (let s := { wCopy id with copies := [wJob 2, wJob 1] }
     (copyAt (wCopy id) 0 1).any (copyMayStart (wCopy id)) = true ∧ (copyAt s 0 1).any (copyMayStart s) = false) ∧
    (∀ p ∈ [(true, 0), (false, 4)],
      ∃ j, copyAt (wStarted fun c => { c with bad := p.1, pos := p.2 }) 0 1 = some j ∧ j.outcome = none ∧ j.started = true ∧
        j.held = [] ∧ (j.bad = true ∨ j.rowlen * j.rows ≤ j.pos)) ∧
    (∃ j, copyAt (wStarted fun c => { c with rows := 2, dstride := 4, pos := 4 }) 0 1 = some j ∧ j.bad = false ∧ j.pos < j.rowlen * j.rows ∧
      lineDone j j.pos = true) ∧
    (∀ fill, let s := wStarted fun c => { c with fill := fill }
      ∃ j, copyAt s 0 1 = some j ∧ j.started = true ∧ j.held = [] ∧ j.got = [] ∧ j.bad = false ∧ j.pos < j.rowlen * j.rows ∧
        lineDone j j.pos = false ∧ isTranslated j.xl = false ∧ pieceOf j j.pos = [0, 1, 2, 3] ∧
        (∀ t, t < 4 → copyByteFails s j t = false) ∧ copyTo s j j.pos = some 0x2000 ∧ 0x2000 < hostLoc) ∧
    (let s := wStarted fun c => { c with dst := 2 ^ 50 }
     ∃ j x, copyAt s 0 1 = some j ∧ copyTo s j j.pos = some x ∧ hostLoc ≤ x) ∧
    (let s := wStarted fun c => { c with dst := 2 ^ 55 }
     ∃ j, copyAt s 0 1 = some j ∧ lineDone j j.pos = false ∧ copyByteFails s j j.pos = true ∧ j.pos ≤ (pieceOf j j.pos).foldl Nat.max j.pos) ∧
    (let s := wStarted fun c => { c with src := 0x107E }
     ∃ j, copyAt s 0 1 = some j ∧ sourceLines s j (pieceOf j j.pos) = [32, 33] ∧ { s.inp with f1 := true }.f1 = true) := by
  refine ⟨by decide +kernel, by decide +kernel, fun p hp => ?_, ⟨_, rfl, by decide +kernel⟩, fun fill => ?_, ⟨_, _, rfl, rfl, by decide +kernel⟩,
    ⟨_, rfl, by decide +kernel⟩, _, rfl, by decide +kernel, rfl⟩
  · rcases List.mem_pair.mp hp with rfl | rfl <;> exact ⟨_, rfl, by decide⟩
  · cases fill <;> exact ⟨_, rfl, by decide +kernel⟩

theorem witness_MatrixStep :
    let s := entry (wLong 0) (.vxMgemm 4 8)
    let f := focusOn s 0
    ∃ e r, f.t.queue = e :: r ∧ e.instr = .vxMgemm 4 8 ∧ Retried f e ∧ e.progress = 0 ∧ Plain f 0 ∧ (fpFmt (cfgFmt e.vcfg)).isSome ∧
      8 ≤ cfgFmt e.vcfg ∧ cfgFmt e.vcfg ≤ 11 ∧ cfgLam e.vcfg = true ∧ 0 < e.vl.toNat ∧ e.vl.toNat ≤ 1024 ∧ (4 : Reg).toNat % cfgG e.vcfg = 0 ∧
      e.xa.toNat % 64 = 0 ∧ InHbm 0 e.xa.toNat 64 ∧
      (let D := fun off k => numAt (readByte s 0) 0 (e.xa.toNat + off) k
       1 ≤ D 24 4 ∧ D 24 4 ≤ 32768 ∧ D 32 4 = 0 ∧ D 36 28 = 0) ∧
      ∀ va : Nat, va < 16 → Mapped f (wrap (va : Int)) 8 :=
  ⟨_, _, rfl, rfl, by unfold Retried AsPushed; decide +kernel, rfl, ⟨inv_of _ (by decide +kernel), by decide +kernel, by decide +kernel, by decide +kernel,
    fun _ => ⟨rfl, rfl⟩, .inl (by decide +kernel)⟩, by unfold InHbm Mapped; decide +kernel⟩

/-- The block of lane 0, with a request whose descriptor is at 0x1000: one group of 9 rows at 0x1100, K and N 1, FP16, the arrays from 0x2000. -/
def wBlock (served : List GServed) (nodes : List GNode) (q : List GRequest) : State :=
  let d := bytesOf 8 0x1100 ++ bytesOf 8 0x2000 ++ bytesOf 8 0x3000 ++ bytesOf 8 0x4000 ++ bytesOf 8 0x5000 ++ bytesOf 4 64 ++ bytesOf 4 64 ++
    bytesOf 4 0 ++ bytesOf 2 1 ++ bytesOf 2 1 ++ bytesOf 2 1 ++ [10]
  putBlock (pokeBytes (pokeBytes wIdle 0x1000 d) 0x1100 (bytesOf 4 9)) 0 ⟨q, 1, served, nodes⟩

/-- The request, and what the block has read for it. -/
def wReq : GRequest := ⟨0x1000, xlateNow w0, 0, 1, 0⟩
def wServed : GServed := ⟨0, wReq, 0x2000, 0x3000, 0x4000, 0x5000, 64, 64, 0, 1, 1, 10, [9], 0, 0, 0, true, false⟩

/-- The one node of the request, in a status. -/
def wAt (status : Nat) : State :=
  wBlock [{ wServed with serving := false, counts := [] }] [⟨0, 0, 0, 0, 8, status, 0, 0, 0⟩] []

/-- A descriptor read, legal, with its counts; one that cannot be read. -/
theorem witness_block_serve :
    let s := wBlock [] [] [wReq]
    (invTest s = true ∧ (blockAt s 0).served = [] ∧ (blockAt s 0).queue = [wReq]) ∧
    ((blockRead s wReq 0x1000 64).any fun bs =>
      let F := fun off n => ofBytes ((bs.drop off).take n)
      (F 52 2, F 54 2, F 56 2, F 58 1, F 40 4, F 44 4, F 59 5, F 32 8) == (1, 1, 1, 10, 64, 64, 0, 0x5000) &&
        (blockRead s wReq (F 0 8) (4 * F 52 2)).any fun cs => ((List.range (F 52 2)).map fun i => ofBytes ((cs.drop (4 * i)).take 4)) == [9]) = true ∧
    (1 * fmtWidth 10 / 8 ≤ 64 ∧ 4 * 1 ≤ 64 ∧ 0x5000 % 4 = 0) ∧ blockRead s wReq (2 ^ 55) 64 = none ∧ wReq.desc.toNat = 0x1000 := by decide +kernel

/-- The counts' end, and a node to be inserted: in a pool with room, and in a full one. -/
theorem witness_block_insert :
    (∀ cs ∈ [[0], [0, 9]], invTest (wBlock [{ wServed with counts := cs }] [] [wReq]) = true) ∧ wServed.serving = true ∧
    ([0] = List.replicate 1 0 ∧ [0, 9] = List.replicate 1 0 ++ 9 :: []) ∧
    (∀ p ∈ [([], false), ((List.range 4096).map (fun i => (0, i)), true)],
      decide (4096 ≤ poolCount { wBlock [{ wServed with counts := [0, 9] }] [] [wReq] with launches := [wLaunch 0 true p.1] } 0) = p.2) := by
  decide +kernel

/-- A node to be placed, one that runs, and a request that is over. -/
theorem witness_block_node :
    (∀ st ∈ [0, 1, 2], invTest (wAt st) = true ∧ (wAt st).errs = [] ∧ (wAt st).map.hbmb = some 0 ∧ strandFree (wAt 0) 0 = true) ∧
    (∃ n v, waitingNode (blockAt (wAt 0) 0) = some (n, v) ∧ outranked (wAt 0) 0 (v.req.prio, n.order) = false ∧
      ∀ m ∈ (blockAt (wAt 0) 0).nodes, ¬ (m.status = 1 ∧ m.on = 0)) ∧
    (let s := wAt 1
     ∃ n v, runningNode (blockAt s 0) 0 = some (n, v) ∧ nodeWaits s 0 (n, v) = false ∧ isTranslated v.req.xl = false ∧ (fpFmt v.fmt).isSome ∧
       8 ≤ v.fmt ∧ v.fmt ≤ 11 ∧ v.n ≤ 1024 ∧ 0 < v.n ∧ v.k ≤ 32768 ∧ 4 * v.n ≤ v.cpitch ∧ InHbm 0 (v.cbase.toNat + n.row * v.cpitch) (n.m * v.cpitch) ∧
       (∀ q, q < n.m → ∀ i, i < v.k → Mapped s ((v.abase.toNat + (n.row + q) * v.apitch + i * 2) % 2 ^ 64) 2) ∧
       (∀ i, i < v.k → ∀ c, c < v.n → Mapped s ((v.bbase.toNat + n.group * v.bstride + i * (v.n * 2) + c * 2) % 2 ^ 64) 2) ∧
       ∀ p ∈ s.slices, p.2.owned = []) ∧
    ∃ v, doneRequest (blockAt (wAt 2) 0) = some v ∧ v.doneVa.toNat % 4 = 0 ∧ InHbm 0 v.doneVa.toNat 4 :=
  ⟨by decide +kernel, ⟨_, _, rfl, by decide +kernel⟩, ⟨_, _, rfl, by unfold InHbm Mapped; decide +kernel⟩, _, rfl, by unfold InHbm; decide +kernel⟩

/-- Queue 0 running with 16 packets' room and one packet at the host's base. -/
def wQueue (r : List Byte) (tail : BitVec 32) : State :=
  { putQueue wIdle 0 { HostQueue.reset with state := .run, rsize := 4, tail := tail, inte := true, cbase := 0x10000 } with
    mem := (pokeBytes wIdle hostLoc r).mem }

theorem witness_queue :
    (∀ s ∈ [wQueue wRecord 1, wQueue (wRecord.set 0xDD 0) 1, wQueue ((wRecord.set 0xDD 0).set 0xFC 1) 1, wQueue wRecord 17], invTest s = true ∧
      (queueAt s 0).state = .run ∧ (queueAt s 0).stuck = none ∧ (queueAt s 0).head ≠ (queueAt s 0).tail) ∧
    (wIdle.inp.unit = 0 / 32 ∧ wIdle.bonded = false ∧ 1 ≠ 0 / 32 ∧ { wIdle with bonded := true }.bonded = true) ∧
    (2 ^ (4#4).toNat < ((17#32) - 0).toNat ∧ ¬ 2 ^ (4#4).toNat < ((1#32) - 0).toNat) ∧ (queueAt w0 0).state = .stopped ∧
    liveTask w0 5 = none := by decide +kernel

theorem witness_packet :
    (∀ r ∈ [wRecord, wRecord.set 0xDD 0, (wRecord.set 0xDD 0).set 0xFC 1],
      homeBytes (wQueue r 1) (hostLoc + 0 + 256 * 0) 256 = r ∧ recSeq r = (queueAt (wQueue r 1) 0).expseq.toNat) ∧
    (recValid wRecord = true ∧ recValid (wRecord.set 0xDD 0) = false ∧ recCompl (wRecord.set 0xDD 0) = 0 ∧
      recCompl ((wRecord.set 0xDD 0).set 0xFC 1) ≠ 0) ∧
    (∀ d, d < 4 → poolCount (wQueue wRecord 1) d < 4096 ∧ nodeTaken (wQueue wRecord 1) d 0 = false) ∧
    (let s := { wQueue wRecord 1 with
       launches := [wLaunch 0 true ((List.range 4096).flatMap fun i => (List.range 4).map fun d => (d, i))] }
     ∀ d, d < 4 → 4096 ≤ poolCount s d) ∧
    topScope (levelsOf wRecord) ≠ 4 ∧ topScope (levelsOf (wRecord.set 0x90 0xA0)) = 4 := by decide +kernel

theorem othersIdle {s : State} (hp : s.peers = []) {h : Nat} (hh : h ≠ s.gid) : strandAt s h = Strand.reset := by
  simp [strandAt, hh, hp]

/-- The launch whose one task the strand runs. -/
def wRunning : State := { wPool [{ wLaunch 0 false [(0, 1)] with started := [0] }] with inp := { Input.none with lo := 0 } }

theorem witness_TaskAbort :
    wRunning.Inv ∧ (∃ l i t, liveTask wRunning (wRunning.inp.lo.setWidth 32) = some (l, i) ∧ (strandAt wRunning 0).task = some t ∧
      t.launch = l.key ∧ t.index = i ∧ ∀ h u, h ≠ 0 → (strandAt wRunning h).task = some u → ¬ (u.launch = l.key ∧ u.index = i)) ∧
    (copiesOpen wRunning 0 = false ∧ closeLocked wRunning 0 = false) ∧ copiesOpen { wRunning with copies := wCopying.copies } 0 = true ∧
    closeLocked (dropLocks (onSlice wRunning (homeSlice 0x2000) fun c => { c with locks := [(0x2000, 9)] }) 0) 0 = true := by
  refine ⟨inv_of _ (by decide +kernel), ⟨wLaunch 0 false [(0, 1)] |> fun l => { l with started := [0] }, 0, placedTask, by decide +kernel,
    by decide +kernel, by decide, by decide, fun h u hh hu => ?_⟩, by decide +kernel, by decide +kernel, by decide +kernel⟩
  rw [othersIdle (by decide +kernel) (by rw [show wRunning.gid = 0 by decide +kernel]; exact hh)] at hu
  exact absurd hu (by simp [Strand.reset])

/-- An invalidation whose GO still reads 1. -/
def wGoing : State := { wCopying with
  tlbGo := some (none, none), copies := [{ wJob 1 with started := true, pages := [⟨false, 1, 12, 0x1000, false, true⟩] }] }

theorem witness_HostAccesses :
    (goReads wGoing = true ∧ wGoing.Inv ∧ goReads wIdle = false ∧ wIdle.Inv) ∧ ((0x80000000 : Word).getLsbD 31 = true ∧ wIdle.inp.lo.getLsbD 31 = false) ∧
    Quiet wIdle (fun x => x = 3) ∧ ¬ Quiet w0 (fun x => x = 0) ∧
    (let v : Word := 0x200000000001
     inHbm wIdle (v &&& 0xFFFFFFFFFFF000).toNat 1 = false ∧ inHbm wIdle (0x1000 : Word).toNat 1 = true) ∧
    (4 ≤ (0x4 : Word).toNat % 16 ∧ (0x4 : Word).toNat % 16 ≤ 12) ∧ (queueAt w0 63).state = .stopped ∧ (queueAt (wQueue wRecord 1) 0).state ≠ .stopped ∧
    (wIdle.inp.unit = 0 / 32 ∧ wIdle.inp.unit ≠ 63 / 32 ∧ wIdle.bonded = false) ∧
    (2 ^ 40 + 2 ^ 30 ≤ 2 ^ 40 + 2 ^ 30 ∧ 768 * 2 ^ 30 - 8 + 8 ≤ 768 * 2 ^ 30) ∧ (∀ k, (sliceAt wIdle k).locks = [] ∧ (sliceAt wIdle k).owned = []) ∧
    (∃ k, k < 8 ∧ lineOf (0x1000 + k) ∈ { wIdle with errs := [32] }.errs) ∧
    (∀ p ∈ [(0, 0, 0), (0x108, 0, 0), (0x3000, 1, 0), (0x3000, 1, 5)],
      let s := inp { wIdle with bonded := true, arena := [(0, (0, 0x1000))] } fun j => { j with addr := p.1, unit := p.2.1, key := p.2.2, f1 := true }
      invTest s = true ∧ s.inp.unit = s.inp.addr / 4096 % 2 ∧ s.posted = [] ∧ (s.postNext < s.inp.key ∨ s.inp.key = s.postNext) ∧
        (sget (0, 0) s.arena 0).2 < 2 ^ 64 ∧ (queueAt s 0).rbase < 2 ^ 64) ∧
    (wIdle.bonded = false ∧ wIdle.inp.f1 = false ∧ wIdle.errs = []) ∧ (1 : Nat) ≠ 0x2000 / 4096 % 2 := by
  refine ⟨⟨by decide +kernel, inv_of _ (by decide +kernel), by decide +kernel, inv_of _ (by decide +kernel)⟩, by decide, quiet rfl rfl _, fun h => ?_,
    by decide +kernel, by decide, rfl, by decide +kernel, by decide, by decide, fun _ => ⟨rfl, rfl⟩, ⟨0, by decide +kernel⟩, by decide +kernel, ⟨rfl, rfl, rfl⟩, by decide⟩
  exact absurd (h 0 (by decide)) (by decide)

/-- A map of HBM, the Baskets and the host, and the same with a window onto package 1023. -/
def wMap : PhysMap := { PhysMap.reset with hbmb := some 0, bskb := some (2 ^ 40), hostb := some (2 ^ 50), hostsz := 2 ^ 30 }
def wMapWale : PhysMap := { wMap with wale := [(3, ⟨2 ^ 52, 2 ^ 31, 1023, 0⟩)] }

theorem mapOk_w : MapOk wMap :=
  ⟨fun b hb => by cases hb; decide, fun b hb => by cases hb; decide, fun b hb => by cases hb; exact ⟨⟨30, by decide⟩, by decide⟩,
    fun w hw => (by cases hw), by decide +kernel, by decide +kernel⟩

theorem mapOk_wale : MapOk wMapWale :=
  ⟨fun b hb => by cases hb; decide, fun b hb => by cases hb; decide, fun b hb => by cases hb; exact ⟨⟨30, by decide⟩, by decide⟩,
    fun w hw => by rw [List.mem_singleton.mp hw]; exact ⟨⟨31, by decide⟩, by decide, by decide⟩, by decide +kernel, by decide +kernel⟩

theorem mapBad_w : ¬ MapOk { wMap with hostsz := 3 } := fun h => by
  obtain ⟨⟨k, h1, h2, h3⟩, -⟩ := h.2.2.1 _ rfl
  have : 2 ^ 30 ≤ 2 ^ k := Nat.pow_le_pow_right (by decide) h1
  rw [← h3] at this
  exact absurd this (by decide)

theorem witness_Configuring :
    wIdle.Inv ∧ (∀ on, Quiet wIdle on) ∧ MapOk wMap ∧ MapOk wMapWale ∧ ¬ MapOk { wMap with hostsz := 3 } ∧
      (∀ p ∈ wIdle.queues, p.2.state = .stopped) ∧ wIdle.posted = [] ∧ wIdle.records = [] ∧ ¬ (∀ p ∈ (wQueue wRecord 1).queues, p.2.state = .stopped) :=
  ⟨inv_of _ (by decide +kernel), quiet rfl rfl, mapOk_w, mapOk_wale, mapBad_w, by decide +kernel, rfl, rfl, by decide +kernel⟩

/-- The Handle's log holds one entry, and both slots hold a version that it accepts. -/
def wHandle : State := let s := logEvent wIdle 1 0 0 []; { s with handle := { s.handle with slotA := ⟨3, true⟩, slotB := ⟨4, true⟩, fuse := 2 } }

/-- The tenth node of die 0's pool belongs to a launch of one task that has not started. -/
def wSpoiled : State := { wIdle with launches := [wLaunch 4 false [(0, 9)]] }

theorem witness_handle :
    wHandle.Inv ∧ (∃ e, wHandle.handle.log[0]? = some e) ∧ wIdle.handle.log.length ≤ 0 ∧
    (let hot := fun (nums : List Nat) n => ∃ i, i < 64 ∧ n ≤ nums.getD i 0
     ¬ hot [94] 95 ∧ hot [109] 95 ∧ ¬ hot [109] 110 ∧ hot [110] 110 ∧ ¬ 1000 < railPower [1000, 1000000] ∧ 1000 < railPower [1000, 1001000]) ∧
    (∃ m ∈ (blockAt (wAt 0) 0).nodes, m.serial = 0 ∧ m.num = 0 ∧ m.status = 0) ∧ (invTest (wAt 0) = true) ∧
    ((sliceAt (onSlice w0 3 fun k => { k with deferred := [.bwait 0 0x1000 0, .fld 9 2 hFuture] }) 3).deferred[1]? = some (.fld 9 2 hFuture)) ∧
    (slathAt (putSlath w0 3 2 eMaking) 3 2).state ≠ .free :=
  ⟨inv_of _ (by decide +kernel), ⟨_, rfl⟩, by decide, by decide +kernel, by decide +kernel, by decide +kernel, by decide +kernel, by decide +kernel⟩

theorem witness_spoiled :
    wSpoiled.Inv ∧ ∃ l, wSpoiled.launches.find? (fun l => l.nodes.contains (0, 9)) = some l ∧ launchOf wSpoiled l.key = some l ∧
      taskTotal l.image = 1 ∧ l.ended = [] ∧ l.started = [] ∧ (∀ g k, (strandAt wSpoiled g).task = some k → k.launch ≠ l.key) ∧
      wSpoiled.suspended = [] := by
  refine ⟨inv_of _ (by decide +kernel), _, rfl, rfl, by decide +kernel, rfl, rfl, fun g k hk => ?_, rfl⟩
  rw [quiet (s := wSpoiled) rfl rfl (fun _ => True) g trivial] at hk
  cases hk

theorem witness_Resets :
    (let ok := fun h : Handle => fun f : FwSlot => decide (f.valid = true ∧ h.fuse ≤ f.version)
     let one := { wHandle.handle with slotB := ⟨1, true⟩ }
     let two := { wHandle.handle with slotA := ⟨9, false⟩ }
     ([wHandle.handle, one, two, { two with slotB := ⟨1, true⟩ }].map fun h => (ok h h.slotA, ok h h.slotB)) =
       [(true, true), (true, false), (false, true), (false, false)]) ∧ (∀ k, (sliceAt w0 k).locks = []) ∧ wHandle.Inv ∧
    (∃ j, j < 4 ∧ strandFree w0 (0 * 4 + j) = false) ∧ (∀ j, j < 4 → strandFree wIdle (0 * 4 + j) = true) ∧
    wIdle.d3hot = false ∧ { wIdle with d3hot := true }.d3hot = true :=
  ⟨by decide, fun _ => rfl, inv_of _ (by decide +kernel), ⟨0, by decide +kernel⟩, by decide +kernel, rfl, rfl⟩

/-- A port that is up, with flits 1 and 2 kept for replay and so many replays behind it. -/
def wPort (n : Nat) : State :=
  { w0 with ports := [(0, { WalePort.reset with up := true, replays := n, replay := [(1, [7]), (2, [8])], expSeq := 5 })] }

theorem witness_WalePorts :
    (∀ n, n < 16 → invTest (wPort n) = true ∧ (portAt (wPort n) 0).up = true ∧ (portAt (wPort n) 0).replays = n ∧ (wPort n).wire = []) ∧
    (portAt wOneDown 0).up = false ∧ w0.t.task.isSome ∧ wIdle.t.task = none ∧ copyAt w0 0 1 = none ∧
    (∀ o ∈ [none, some true], ((copyAt (wCopy fun c => { c with outcome := o }) 0 1).map fun j => (j.outcome, j.held.length)) = some (o, 0)) ∧
    waleOf w0.map 0x1000 = none ∧ (waleOf wWindowed.map (2 ^ 51 + 64)).isSome ∧
    ((locOf wWindowed (2 ^ 51 + 64)).any fun x => decide (2 ^ 64 ≤ x)) = true := by
  decide +kernel

/-- A flit of a class for node 64 of die 0, the node of slice 0, about line 32. -/
def wFlit (typ : BitVec 4) : Flit := sealFlit ⟨typ, false, 0, 0, 0, 64, 0, 0, 0, 0, 0, 7, 32, 0, []⟩

/-- The flit arrives at a node of plane 0. -/
def wArrived (typ : BitVec 4) (at' : Nat) : State :=
  { w0 with routers := [(at', { Router.reset with arriving := [wFlit typ] })], inp := { Input.none with unit := at' } }

theorem witness_Weave :
    (∀ typ ∈ [0#4, 6], (∀ n ∈ [0, 64], let s := wArrived typ n
        invTest s = true ∧ s.inp.nums = [] ∧ routerNo 0 0 n = n ∧ (routerAt s n).down = false ∧ (routerAt s n).inject = [] ∧ s.inp.f1 = false ∧
          s.transit = [] ∧ s.slices = [])) ∧
    (∀ typ, (wFlit typ).mc = false ∧ (wFlit typ).crc = crcOf (wFlit typ) ∧ ((wFlit typ).ddie.toNat, (wFlit typ).dnode.toNat) = (0, 64)) ∧
    (∀ typ n x, x ≠ n → routerAt (wArrived typ n) x = Router.reset) ∧
    (∀ typ n, routerAt (wArrived typ n) n = { Router.reset with arriving := [wFlit typ] }) ∧
    (isRequest (wFlit 0).typ = true ∧ (wFlit 0).nf = 0 ∧ (wFlit 0).fi = 0 ∧ argLine (wArrived 0 64) (wFlit 0) = some 32) ∧ sliceOfNode 0 (0, 64) = some 0 ∧
    (∃ p ∈ ports, productive (0, 0) p (0, 64) = true) ∧ (hasBridge (0, 17) = false ∧ hasBridge (0, 191) = true) ∧
    (∀ m d, let x := { Reserved w0 0 0 0 32 1 false with multicast := m, dead := d, marked := some 0 }
     let s := { w0 with records := [x], planes := [(0, 2 ^ 24)] }
     s.Inv ∧ s.records = [] ++ x :: [] ∧ (∃ c, x.marked = some c ∧ c + 2 ^ 24 ≤ sget 0 s.planes x.plane)) ∧ w0.records = [] ∧
    ((routerAt w0 0).idleFrom = 0 ∧ sget 0 { w0 with planes := [(0, 2048)] }.planes 0 = 2048) := by
  refine ⟨by decide +kernel, fun _ => ⟨rfl, rfl, rfl⟩, fun typ n x h => ?_, fun typ n => ?_, by decide +kernel, by decide +kernel, by decide +kernel, by decide +kernel,
    fun m d => ⟨inv_of _ (by cases m <;> cases d <;> decide +kernel), rfl, 0, rfl, by cases m <;> cases d <;> decide⟩, rfl, rfl, rfl⟩
  · simp only [routerAt, wArrived, sget]
    split
    · rfl
    · rfl
  · simp [routerAt, wArrived, sget]

/-- A word at the pc. -/
def wWord (w : InstrWord) : State := pokeBytes w0 0x8000 (bytesOf 4 w.toNat)

/-- The state as the step finds it, time having passed. -/
def later (s : State) : State :=
  { s with
    clock := s.clock + s.timePace * s.handle.clockMhz / 100, weave := s.weave + 24 * s.timePace
    time := s.time + BitVec.ofNat 64 s.timePace
    tlbGo := if goReads s then s.tlbGo else none }

/-- What a fetch gives: 0 no word, 1 a word that is not an instruction, 2 an instruction. -/
def fetched (s : State) : Nat :=
  match fetchWord (later s) with
  | .error _ => 0
  | .ok w => if rejects w then 1 else 2

/-- The premises that all clauses share. -/
def stepsFrom (s : State) : Bool :=
  decide (s.agenda = [] ∧ s.stalled = false ∧ s.t.xbad = [] ∧ s.t.vbad = [] ∧ s.t.kbad = []) && (attend (later s)).isNone

/-- The line of the pc is locked. -/
def wLockedPc : State := onSlice (wWord 0x13) (homeSlice 256) fun k => { k with locks := [(256, 9)] }

/-- One instruction in the queue, completed or not, in the vector or the scalar stream's turn. -/
def wTurn (turn done : Bool) : State :=
  (wWord 0x13).onT fun t => { t with vectorTurn := turn, queue := [{ pushEntry w0 (.vaIota 1 0) with done := done }] }

/-- A `vp.chk` in the queue, while the core's Plait unit works on another strand's. -/
def wBusy : State :=
  let e := pushEntry w0 (.vpChk 5 4)
  { (w0.onT fun t => { t with vectorTurn := true, queue := [{ e with xw := true }] }) with
    peers := [(1, { wStrand with queue := [{ startEntry e with since := [(0, 0)] }] })] }

theorem witness_StepRunsDecoded :
    (∀ s ∈ [wWord 0x13, wWord 0, w0.onT (fun t => { t with pc := 2 ^ 55 }), wLockedPc],
      stepsFrom s = true ∧ s.t.queue = []) ∧
    fetched (wWord 0x13) = 2 ∧ fetched (wWord 0) = 1 ∧ fetched (w0.onT fun t => { t with pc := 2 ^ 55 }) = 0 ∧
    fetchWaits (later (wWord 0x13)) = false ∧ fetchWaits (later wLockedPc) = true ∧
    (∀ turn done, let s := wTurn turn done
      stepsFrom s = true ∧ (s.t.queue.map fun e => (e.done, e.xw)) = [(done, false)] ∧ held (later s) = false ∧ s.t.waiting = false ∧
        xWaits s.t = false ∧ frontStopped (later s) = false ∧ tryPlace (later s) = if done then none else some 0) ∧
    stepsFrom wBusy = true ∧ (wBusy.t.queue.map fun e => e.done) = [false] ∧ xWaits wBusy.t = true ∧ tryPlace (later wBusy) = none ∧
    (∀ e : Word, e = 0 ∨ e = 2 → let s := w0.onT fun t => { t with waiting := true, mie := e, mideleg := 2, ssip := true }
      let u := later s
      s.agenda = [] ∧ s.stalled = false ∧ s.t.task.isSome ∧ s.t.failing = none ∧ s.t.framing = none ∧ s.t.firmware = false ∧
        watchdogOut u u.t = false ∧ saveDue u = false ∧ (takePending u).isNone ∧ wakePending u = (e == 2) ∧ s.t.queue = []) := by
  refine ⟨by decide +kernel, by decide +kernel, by decide +kernel, by decide +kernel, by decide +kernel, by decide +kernel, by decide +kernel,
    by decide +kernel, by decide +kernel, by decide +kernel, by decide +kernel, fun e he => ?_⟩
  rcases he with rfl | rfl <;> decide +kernel

theorem witness_QueuePush :
    let s := entry w0 (.vaIota 1 0)
    (∃ w, encode (.vaRng 1 2 3) = some w ∧ custom w) ∧ frontEnd (.vaRng 1 2 3) = false ∧ awaited (.vaRng 1 2 3) = false ∧
      awaited (.vpSpk 5 0) = true ∧ frontEnd (.vpSpk 5 0) = false ∧ (∃ w, encode (.vpSpk 5 0) = some w ∧ custom w) ∧
      (∃ w, encode (.vxTlbinv 5 0) = some w ∧ custom w) ∧ s.t.mode ≠ .user ∧ s.t.replay = none ∧ s.t.queue ≠ [] ∧
      s.t.queue.length < 64 ∧ 64 ≤ (s.onT fun t => { t with queue := List.replicate 64 (pushEntry w0 (.vaIota 1 0)) }).t.queue.length :=
  ⟨⟨_, rfl, by unfold custom; decide⟩, rfl, rfl, rfl, rfl, ⟨_, rfl, by unfold custom; decide⟩, ⟨_, rfl, by unfold custom; decide⟩, by decide +kernel⟩

/-- Every operand of one word at its largest value. -/
theorem witness_EncodeDecode :
    (∃ w, encode (.vaAddIvv 31 31 31 7) = some w ∧ decodesTo w (.vaAddIvv 31 31 31 7)) ∧ WellFormed (.vaAddIvv 31 31 31 7) :=
  ⟨⟨_, rfl, by decide⟩, rfl⟩

theorem witness_DecodeEncode : decodesTo 0x0020B18B (.vaFaddFvv 3 1 2 0) = true := by decide

/-- Whether a step has a next state. -/
def goesOn (s : State) : Bool := match step s with
  | .next _ => true
  | _ => false

theorem witness_StepKeeps : (w0.Inv ∧ goesOn (wWord 0x13) = true) ∧ (wWord 0x13).Inv ∧ Memory.wf (wWord 0x13).mem = true ∧ State.reset.agenda = [] :=
  ⟨⟨inv_w0, by decide +kernel⟩, inv_of _ (by decide +kernel), by decide +kernel, rfl⟩

theorem witness_KeptRegisters :
    (∃ t, exec (.vaIota 1 0) (wUser w0) = .next t) ∧ isEvent (.vaIota 1 0) = false ∧ (wUser w0).t.mode = .user ∧
      (∃ w, encode (.vaIota 1 0) = some w ∧ w.toNat % 128 = 0x0B) ∧ (∃ w, encode (.vpSpk 5 0) = some w ∧ w.toNat % 128 = 0x5B) ∧ w0.t.locks = [] :=
  ⟨⟨_, rfl⟩, rfl, rfl, ⟨_, rfl, by decide⟩, ⟨_, rfl, by decide⟩, rfl⟩

/-! Single steps: the expected values are the specification's tables, or worked out from its rules by hand. -/

/-- The state after an instruction; the state itself where there is none. -/
def after (i : Instr) (s : State) : State := match exec i s with
  | .next t => t
  | _ => s

/-- A DENSE register of the elements given. -/
def vec (w : Nat) (xs : List Nat) : VReg :=
  ⟨.dense, false, BitVec.ofNat 12 (ceilDiv (xs.length * w) 32), BitVec.ofNat 11 (ceilDiv (xs.length * w) 32), 0, packV w (fun i => xs.getD i 0) xs.length⟩

/-- v1, v2 and v3 under a length and a configuration. -/
def regs (n : BitVec 13) (c : Cfg) (w : Nat) (x y z : List Nat) : State :=
  setV (setV (setV (cfg w0 n c) 1 (vec w x)) 2 (vec w y)) 3 (vec w z)

/-- The first elements of a register. -/
def out (w n : Nat) (r : Reg) (s : State) : List Nat := (List.range n).map fun i => elem w s.t.v[r.toNat].bits i

/-- The conversions of the table of R168, SAT 0: NV, OF, UF and NX raised together. -/
def fp32Sources : List Nat := [0x3F880000, 0x43FA0000, 0xFF800000, 0x7F800001, 0x39800000, 0x40200000]

theorem test_fcvt_fp8 :
    (let t := after (.vaFcvt 2 8 1 0) (regs 6 0x00C 32 fp32Sources [] [])
     out 8 7 2 t = [0x38, 0x7F, 0x7F, 0x7F, 0x00, 0x42, 0] ∧ t.t.vstat = 0b11101#5 ∧ t.t.v[2].len = 2) ∧
    out 8 6 2 (after (.vaFcvt 2 8 1 0) (regs 6 0x80C 32 fp32Sources [] [])) = [0x38, 0x7E, 0xFE, 0x7F, 0x00, 0x42] := by decide +kernel

theorem test_fcvt_int8 :
    let t := after (.vaFcvt 3 0 1 0) (regs 6 0x00C 32 fp32Sources [] [])
    out 8 6 3 t = [0x01, 0x7F, 0x80, 0x7F, 0x00, 0x02] ∧ t.t.vstat = 0b10001#5 := by decide +kernel

/-- R172 with K = 7, computed from the rule's formula. -/
theorem test_rng :
    out 32 2 1 (after (.vaRng 1 5 0) (setX (cfg w0 2 4) 5 7)) = [0x2D79A612, 0x99C4071B] := by decide +kernel

/-- R108, R23: sums wrap at the width; elements at and above VL read zero. -/
theorem test_add_wraps : out 8 3 3 (after (.vaAddIvv 3 1 2 0) (regs 2 0 8 [1, 255, 9] [0x7F, 1, 9] [7, 7, 7])) = [0x80, 0, 0] := by decide +kernel

/-- R108: B minus A; R97: an inactive element keeps the old destination. -/
theorem test_sub_masked :
    out 8 3 3 (after (.vaSubIvv 3 1 2 1) (setK (regs 3 0 8 [1, 1, 1] [0, 5, 5] [7, 7, 7]) 1 3)) = [0xFF, 4, 7] := by decide +kernel

theorem test_mulh : out 32 2 3 (after (.vaMulhIvv 3 1 2 0) (regs 2 4 32 [2 ^ 32 - 1, 2 ^ 31] [2 ^ 32 - 1, 2] [])) = [0, 2 ^ 32 - 1] := by decide +kernel
theorem test_mulhu : out 32 1 3 (after (.vaMulhuIvv 3 1 2 0) (regs 1 4 32 [2 ^ 32 - 1] [2 ^ 32 - 1] [])) = [2 ^ 32 - 2] := by decide +kernel

/-- R108: at w = 8 an amount of 9 shifts by 1. -/
theorem test_shift_amount : out 8 1 3 (after (.vaSllIvi 3 9 2 0) (regs 1 0 8 [] [3] [])) = [6] := by decide +kernel

/-- R162, R163: B over A; a finite B over zero. -/
theorem test_fdiv :
    let t := after (.vaFdivFvv 3 1 2 0) (regs 3 10 16 [0x4000, 0x8000, 0] [0x3C00, 0x3C00, 0] [])
    out 16 3 3 t = [0x3800, 0xFC00, 0x7E00] ∧ t.t.vstat = 3 := by decide +kernel

/-- R162: −(A × B) + D, rounded once: −2·3 + 10 = 4. -/
theorem test_fnmsac : out 16 1 3 (after (.vaFnmsacFvv 3 1 2 0) (regs 1 10 16 [0x4000] [0x4200] [0x4900])) = [0x4400] := by decide +kernel

/-- R163: −0 is less than +0, and a number is chosen over a NaN. -/
theorem test_fmin : out 16 2 3 (after (.vaFminFvv 3 1 2 0) (regs 2 10 16 [0x8000, 0x7E00] [0, 0x3C00] [])) = [0x8000, 0x3C00] := by decide +kernel

/-- R170: the first of equals, its index in word 1. -/
theorem test_redmaxi : out 32 3 3 (after (.vaRedmaxi 3 2 0) (regs 3 4 32 [] [5, 9, 9] [7, 7, 7])) = [9, 1, 0] := by decide +kernel

/-- R171. -/
theorem test_kfirst_none : (after (.vaKfirst 5 1 0) (setK (cfg w0 2 4) 1 4)).t.x[5] = 2 ^ 64 - 1 := by decide +kernel

/-- R110: signed and unsigned order differ. -/
theorem test_compares :
    (after (.vaSlt 1 1 2 0) (regs 2 4 32 [2 ^ 32 - 1, 1] [0, 0] [])).t.k[1] ≠ (after (.vaSltu 1 1 2 0) (regs 2 4 32 [2 ^ 32 - 1, 1] [0, 0] [])).t.k[1] := by decide +kernel

/-- R174: an index at VL or above reads zero. -/
theorem test_perm : out 8 3 3 (after (.vpPerm 3 1 2) (regs 3 0 8 [2, 0, 3] [4, 5, 6, 7] [])) = [6, 4, 0] := by decide +kernel

/-- R117, R123: the destination is a run of its extent. -/
theorem test_sort :
    let t := after (.vpSort 3 2) (regs 3 5 32 [] [9, 1, 5] [])
    out 32 3 3 t = [1, 5, 9] ∧ t.t.v[3].kind = .run ∧ t.t.v[3].len = 3 := by decide +kernel

/-- R125: of two runs of 2 at VL 3, three elements go to vd and the last to vd+1. -/
theorem test_merge :
    let run := fun x => { vec 32 x with kind := Kind.run }
    let t := after (.vpMerge 2 1 2) (setV (setV (cfg w0 3 5) 1 (run [1, 7])) 2 (run [3, 9]))
    out 32 3 4 t = [1, 3, 7] ∧ out 32 2 5 t = [9, 0] ∧ t.t.v[5].len = 1 := by decide +kernel

/-- R102: the lowest address holds the lowest byte, and an inactive element stores nothing. -/
theorem test_store_bytes :
    let t := after (.vmSt 2 5 1) (setX (setK (regs 2 4 32 [] [0x04030201, 0xFF] []) 1 1) 5 0x1000)
    (List.range 5).map (fun k => homeByte t (0x1000 + k)) = [1, 2, 3, 4, 0] := by decide +kernel

theorem test_load_stride :
    out 16 2 3 (after (.vmLds 3 5 6 0) (setX (setX (cfg (pokeBytes w0 0x1000 [1, 2, 3, 4, 5, 6]) 2 2) 5 0x1004) 6 (0 - 4))) = [0x0605, 0x0201] := by decide +kernel

/-- R253: two elements of one address add up. -/
theorem test_amoadd_same_word :
    homeNat (after (.vmAmoadd 3 5 2 0) (setX (regs 2 4 32 [] [0, 0] [3, 4]) 5 0x1000)) 0x1000 4 = 7 := by decide +kernel

/-- R100, R22: VL is cut to the new VLMAX, and the old configuration is returned. -/
theorem test_setcfg :
    let t := after (.vaSetcfg 5 6) (setX (cfg w0 4096 8) 6 12)
    t.t.vl = 1024 ∧ t.t.x[5] = 8 ∧ t.t.vcfg = 12 := by decide +kernel

/-- R46, R100: a reserved format is an illegal instruction. -/
theorem test_setcfg_reserved :
    let t := after (.vaSetcfg 5 6) (setX (cfg w0 7 8) 6 13)
    t.t.vl = 7 ∧ t.t.scause = 2 ∧ t.t.sepc = 0x8000 ∧ t.t.vcfg = 8 := by decide +kernel

/-! The scalar rows: the values of the RISC-V tables (R35). -/

theorem test_div_by_zero : (after (.scalarInstruction (.op .div 5 6 0)) (setX w0 6 7)).t.x[5] = 2 ^ 64 - 1 := by decide +kernel
theorem test_div_overflow : (after (.scalarInstruction (.op .div 5 6 7)) (setX (setX w0 6 (2 ^ 63)) 7 (2 ^ 64 - 1))).t.x[5] = 2 ^ 63 := by decide +kernel
theorem test_addiw : (after (.scalarInstruction (.opImm .addiw 5 6 1)) (setX w0 6 0x7FFFFFFF)).t.x[5] = 0xFFFFFFFF80000000 := by decide +kernel
theorem test_x0 : (after (.scalarInstruction (.opImm .addi 0 6 1)) w0).t.x[0] = 0 := by decide +kernel
theorem test_jalr_clears_bit0 :
    let t := after (.scalarInstruction (.jalr 1 1 1)) (setX w0 1 0x9000)
    t.t.pc = 0x9000 ∧ t.t.x[1] = 0x8004 := by decide +kernel
theorem test_ecall :
    let t := after (.scalarInstruction .ecall) ((wUser w0).onT fun u => { u with stvec := 0x7000 })
    t.t.pc = 0x7000 ∧ t.t.scause = 8 ∧ t.t.sepc = 0x8000 ∧ t.t.mode = .supervisor := by decide +kernel

end Sys2Proof.Tests
end

section
/-! SUPPORT. The core vector instructions, performed at once: `va.merge`, mask logic, `va.setcfg` and `va.setkey` (R46, R47, R100, R101,
R109, R111). -/

namespace Sys2Proof.Machine

open Sys2Proof.Claims

/-! Words of the V layout. -/

/-- A bit of a word of the V layout, field by field (R37). -/
theorem mkV_getLsbD (f4 : BitVec 4) (m : BitVec 3) (b a : BitVec 5) (f3 : BitVec 3) (d : BitVec 5) (opc : BitVec 7) (i : Nat) :
    (mkV f4 m b a f3 d opc).getLsbD i =
      if i < 7 then opc.getLsbD i else if i < 12 then d.getLsbD (i - 7) else if i < 15 then f3.getLsbD (i - 12)
      else if i < 20 then a.getLsbD (i - 15) else if i < 25 then b.getLsbD (i - 20) else if i < 28 then m.getLsbD (i - 25)
      else f4.getLsbD (i - 28) := by
  have h : (mkV f4 m b a f3 d opc).getLsbD i =
      (f4 ++ m ++ b ++ a ++ f3 ++ d ++ opc : BitVec (4 + 3 + 5 + 5 + 3 + 5 + 7)).getLsbD i := rfl
  simp only [h, BitVec.getLsbD_append, Nat.sub_sub]
  grind

/-- Field a of a word of the V layout (R37). -/
theorem mkV_field_a (f4 : BitVec 4) (m : BitVec 3) (b a : BitVec 5) (f3 : BitVec 3) (d : BitVec 5) (opc : BitVec 7) :
    (mkV f4 m b a f3 d opc).extractLsb' 15 5 = a := by
  refine BitVec.eq_of_getLsbD_eq fun i hi => ?_
  rw [BitVec.getLsbD_extractLsb', mkV_getLsbD, if_neg (by omega), if_neg (by omega), if_neg (by omega), if_pos (by omega)]
  simp [hi]

/-- A word of the V layout without mask and field b: its fixed bits, with fields a and d in their places (R37). -/
theorem mkV_eq_or (f4 : BitVec 4) (a : BitVec 5) (f3 : BitVec 3) (d : BitVec 5) (opc : BitVec 7) :
    mkV f4 0 0 a f3 d opc = mkV f4 0 0 0 f3 0 opc ||| (a.setWidth 32 <<< 15) ||| (d.setWidth 32 <<< 7) := by
  refine BitVec.eq_of_getLsbD_eq fun i hi => ?_
  have above : ∀ (r : BitVec 5) (j : Nat), 5 ≤ j → r.getLsbD j = false := fun r j => BitVec.getLsbD_of_ge r j
  simp only [BitVec.getLsbD_or, mkV_getLsbD, BitVec.getLsbD_shiftLeft, BitVec.getLsbD_setWidth]
  grind

/-! Registers as the statements name them. -/

/-- A mask bit; k0 reads all true (R41). -/
theorem getK_getLsbD (s : State) (k : KReg) (i : Nat) : (getK s k).getLsbD i = kb s k i := by
  unfold getK kb
  split
  · rw [BitVec.getLsbD_allOnes]
  · rfl

theorem setV_eq_withV (s : State) (d : Reg) (X : VReg) : setV s d.toNat X = withV s d X := by
  simp only [setV, withV, Nat.mod_eq_of_lt d.isLt]

theorem setK_eq_withK (s : State) (d : KReg) (K : KBits) (h : d ≠ 0) : setK s d K = withK s d K := if_neg h

/-- Where no flag was raised `vstat` stays as it was. -/
theorem raise_noFlags (s u : State) (h : u.t.vstat = 0) :
    raise s u u.t.vstat = { u with t := { u.t with vstat := s.t.vstat } } := by
  have hflags : s.t.vstat ||| 0 = s.t.vstat := BitVec.or_zero
  rw [raise, h, hflags]

/-! What an instruction that nothing precedes reads, the strand's own registers, and what it leaves. -/

section Direct

variable {s : State} (hd : Direct s)
include hd

theorem srcV_quiet (r : Reg) : srcV (quiet s) r.toNat = s.t.v[r.toNat] := by
  simp only [srcV, quiet, hd.1, getV, Nat.mod_eq_of_lt r.isLt]

theorem srcK_quiet (k : KReg) : srcK (quiet s) k = getK s k := by
  simp only [srcK, quiet, hd.1, getK]

theorem srcK_quiet_getLsbD (k : KReg) (i : Nat) : (srcK (quiet s) k).getLsbD i = kb s k i := by
  rw [srcK_quiet hd, getK_getLsbD]

/-- Whether an element is active under km (R37). -/
theorem actOf_quiet (m : KReg) (i : Nat) : actOf (quiet s) m i = act s m i := by
  rw [actOf, maskOf, srcK_quiet_getLsbD hd, kb, act]
  by_cases hm : m = 0
  · rw [decide_eq_true hm, Bool.true_or, if_pos hm]
  · rw [decide_eq_false hm, Bool.false_or, if_neg hm, if_neg hm]

/-- An element of a source register (R108). -/
theorem vElem_quiet (i : Instr) (r : Reg) (j : Nat) : vElem (ctxOfEntry s (pushEntry s i)) (quiet s) r j = el s r j := by
  rw [vElem, srcV_quiet hd]
  rfl

/-- An instruction performed at once that completes: its effect, the flags it raised, and its retirement and commit (R17, R18, R146). -/
theorem runVec_completes (i : Instr) (xw : Bool) (body : Ctx → State → Eff) (u : State) (hpc : u.t.pc = s.t.pc)
    (h : body (ctxOfEntry s (pushEntry s i)) (quiet s) = .ok u) :
    runVec i xw body s = .next (vectorDone (raise s u u.t.vstat)) := by
  obtain ⟨hr, hq, hh⟩ := hd
  have hflags : 0 ||| u.t.vstat = u.t.vstat := BitVec.zero_or
  rw [runVec_ok i xw body s u hr hq hh h, hflags, ← hpc]
  rfl

/-- An instruction performed at once that only writes a vector register. -/
theorem runVec_setV (i : Instr) (xw : Bool) (body : Ctx → State → Eff) (d : Reg) (X : VReg)
    (h : body (ctxOfEntry s (pushEntry s i)) (quiet s) = .ok (setV (quiet s) d.toNat X)) :
    runVec i xw body s = .next (vectorDone (withV s d X)) := by
  rw [setV_eq_withV] at h
  rw [runVec_completes hd i xw body (withV (quiet s) d X) rfl h, raise_noFlags s _ rfl]
  rfl

/-- An instruction performed at once that only writes a mask register. -/
theorem runVec_setK (i : Instr) (xw : Bool) (body : Ctx → State → Eff) (d : KReg) (K : KBits) (hd0 : d ≠ 0)
    (h : body (ctxOfEntry s (pushEntry s i)) (quiet s) = .ok (setK (quiet s) d K)) :
    runVec i xw body s = .next (vectorDone (withK s d K)) := by
  rw [setK_eq_withK _ _ _ hd0] at h
  rw [runVec_completes hd i xw body (withK (quiet s) d K) rfl h, raise_noFlags s _ rfl]
  rfl

end Direct

/-- The scalar operand that an instruction of the V layout captures at its push (R17, R108). -/
theorem xElem_pushEntry (s : State) {i : Instr} {a : Reg} (h : (wordOf i).extractLsb' 15 5 = a) :
    xElem (ctxOfEntry s (pushEntry s i)) = low (wd s) (xr s a) := by
  subst h
  rfl

/-! What a granted length leaves room for. -/

theorem eight_le_fmtWidth (c : Nat) : 8 ≤ fmtWidth c := by
  unfold fmtWidth
  split_ifs <;> decide

section Granted

variable {s : State} (hg : Granted s)
include hg

/-- VL elements fit a vector register (R96). -/
theorem wd_mul_vl_le : wd s * vl s ≤ 32768 :=
  calc wd s * vl s ≤ wd s * (32768 / wd s) := Nat.mul_le_mul_left _ hg.2
    _ ≤ 32768 := Nat.mul_div_le _ _

/-- VL bits fit a mask register (R41, R96). -/
theorem vl_le : vl s ≤ 4096 :=
  calc vl s ≤ 32768 / wd s := hg.2
    _ ≤ 32768 / 8 := Nat.div_le_div_left (eight_le_fmtWidth _) (by decide)

/-- A DENSE register of VL packed elements (R23, R24, R43). -/
theorem dense_packV (f : Nat → Nat) (hf : ∀ j, f j < 2 ^ wd s) :
    Dense (wd s) (vl s) (denseReg (wd s) (vl s) (packV (wd s) f (vl s))) f := by
  have hfit := wd_mul_vl_le hg
  have hwords : (vl s * wd s + 31) / 32 ≤ 1024 := by rw [Nat.mul_comm]; omega
  refine ⟨rfl, rfl, rfl, Nat.mod_eq_of_lt ?_, Nat.mod_eq_of_lt ?_, fun j => ?_⟩
  · exact Nat.lt_of_le_of_lt hwords (by decide)
  · exact Nat.lt_of_le_of_lt hwords (by decide)
  · exact (elem_packV _ _ _ _ hfit).trans (by rw [Nat.mod_eq_of_lt (hf j)])

/-- A mask of VL packed bits (R41). -/
theorem mask_packK (f : Nat → Bool) : Mask (vl s) (packK f (vl s)) f := fun i => getLsbD_packK f _ i (vl_le hg)

end Granted

/-! `va.merge` (R109). -/

theorem el_lt (s : State) (r : Reg) (i : Nat) : el s r i < 2 ^ wd s := Nat.mod_lt _ (Nat.two_pow_pos _)

theorem low_lt (w : Nat) (x : Word) : low w x < 2 ^ w := Nat.mod_lt _ (Nat.two_pow_pos _)

/-- Field a as a signed immediate is a pattern of the element's width (R37, R108). -/
theorem r108Imm_add_lt (w : Nat) (a : Reg) : r108Imm w .add a < 2 ^ w := by
  have hpos : (0 : Int) < ((2 ^ w : Nat) : Int) := by exact_mod_cast Nat.two_pow_pos w
  have hlt := Int.emod_lt_of_pos a.toInt hpos
  have hnn := Int.emod_nonneg a.toInt hpos.ne'
  show (a.toInt % ((2 ^ w : Nat) : Int)).toNat < 2 ^ w
  omega

/-- A merge performed at once: every element below VL is written, whatever its mask bit is. -/
theorem runVec_mergeWith {s : State} (hd : Direct s) (hg : Granted s) (i : Instr) (d b : Reg) (m : KReg)
    (A : Ctx → State → Nat → Nat) (B : Nat → Nat) (hA : ∀ j, A (ctxOfEntry s (pushEntry s i)) (quiet s) j = B j)
    (hB : ∀ j, B j < 2 ^ wd s) :
    ∃ X, runVec i false (mergeWith d b m A) s = .next (vectorDone (withV s d X)) ∧
      Dense (wd s) (vl s) X fun j => if act s m j then B j else el s b j := by
  refine ⟨_, runVec_setV hd i false _ d _ ?_, dense_packV hg _ fun j => ?_⟩
  · simp only [mergeWith, actOf_quiet hd, vElem_quiet hd, hA]
    rfl
  · split
    · exact hB j
    · exact el_lt s b j

/-! Mask logic (R111). -/

/-- Mask logic performed at once: each bit below VL from the bits of its sources, and zeros from VL on. -/
theorem runVec_maskLogic {s : State} (hd : Direct s) (hg : Granted s) (i : Instr) (op : KOp) (d a b : KReg) (hd0 : d ≠ 0) :
    ∃ K, runVec i false (maskLogic op d a b) s = .next (vectorDone (withK s d K)) ∧
      Mask (vl s) K fun j => kop op (kb s a j) (kb s b j) := by
  refine ⟨_, runVec_setK hd i false _ d _ hd0 ?_, mask_packK hg _⟩
  simp only [maskLogic, srcK_quiet_getLsbD hd]
  rfl

/-! `va.setcfg` and `va.setkey` (R46, R47, R100, R101). -/

theorem exec_vaSetcfg_legal (s : State) (d a : Reg) (h : cfgLegal (xr s a) = true) :
    exec (.vaSetcfg d a) s = .next (scalarDone (withX { s with t := { s.t with
      vcfg := (xr s a).setWidth 12, vl := BitVec.ofNat 13 (min (vl s) (cfgVlmax ((xr s a).setWidth 12))) } } d
        (s.t.vcfg.setWidth 64))) :=
  congrArg Host.Outcome.next (if_pos h)

theorem exec_vaSetkey_legal (s : State) (d a : Reg) (h : keyLegal (xr s a) = true) :
    exec (.vaSetkey d a) s =
      .next (scalarDone (withX { s with t := { s.t with vkey := (xr s a).setWidth 6 } } d (s.t.vkey.setWidth 64))) :=
  congrArg Host.Outcome.next (if_pos h)

theorem exec_vaSetcfg_reserved (s : State) (d a : Reg) (h : cfgLegal (xr s a) = false) :
    exec (.vaSetcfg d a) s = .next (illegal s (wordOf (.vaSetcfg d a))) :=
  congrArg Host.Outcome.next (if_neg (ne_true_of_eq_false h))

theorem exec_vaSetkey_reserved (s : State) (d a : Reg) (h : keyLegal (xr s a) = false) :
    exec (.vaSetkey d a) s = .next (illegal s (wordOf (.vaSetkey d a))) :=
  congrArg Host.Outcome.next (if_neg (ne_true_of_eq_false h))

theorem wordOf_vaSetcfg (d a : Reg) :
    wordOf (.vaSetcfg d a) = 0x2000700B#32 ||| (a.setWidth 32 <<< 15) ||| (d.setWidth 32 <<< 7) :=
  mkV_eq_or 2 a 7 d 11

theorem wordOf_vaSetkey (d a : Reg) :
    wordOf (.vaSetkey d a) = 0x3000700B#32 ||| (a.setWidth 32 <<< 15) ||| (d.setWidth 32 <<< 7) :=
  mkV_eq_or 3 a 7 d 11

/-- With the queue empty an illegal instruction traps at once (R57, R343). -/
theorem illegal_nil (s : State) (w : InstrWord) (h : s.t.queue = []) : illegal s w = takeTrap s false 2 (w.setWidth 64) s.t.pc :=
  scalarTrap_nil s 2 _ h

end Sys2Proof.Machine

namespace Sys2Proof.Proofs

open Sys2Proof.Machine Sys2Proof.Claims

/-- Settles O2: each form of the instruction is a merge, whose A operand is what the instruction reads at its push. -/
theorem mergeElements : Obligations.MergeElements := by
  intro i d b m A s hi hd hg
  unfold mergeOf at hi
  split at hi
  case h_1 d a b m =>
    cases hi
    exact runVec_mergeWith hd hg (.vaMergeIvv d a b m) d b m _ (el s a) (vElem_quiet hd _ a) (el_lt s a)
  case h_2 d a b m =>
    cases hi
    exact runVec_mergeWith hd hg (.vaMergeIvx d a b m) d b m _ (fun _ => low (wd s) (xr s a))
      (fun _ => xElem_pushEntry s (mkV_field_a ..)) fun _ => low_lt _ _
  case h_3 d a b m =>
    cases hi
    exact runVec_mergeWith hd hg (.vaMergeIvi d a b m) d b m _ (fun _ => r108Imm (wd s) .add a) (fun _ => rfl)
      fun _ => r108Imm_add_lt _ a
  case h_4 => cases hi

/-- Settles O5: each instruction of the group is mask logic under its own operation, and k0 is no destination of it (R40). -/
theorem maskLogic : Obligations.MaskLogic := by
  intro i d f s hi hw hd hg
  unfold logicOf at hi
  split at hi
  case h_1 d a b =>
    cases hi
    exact runVec_maskLogic hd hg (.vaKand d a b) .kand d a b (of_decide_eq_true hw)
  case h_2 d a b =>
    cases hi
    exact runVec_maskLogic hd hg (.vaKor d a b) .kor d a b (of_decide_eq_true hw)
  case h_3 d a b =>
    cases hi
    exact runVec_maskLogic hd hg (.vaKxor d a b) .kxor d a b (of_decide_eq_true hw)
  case h_4 d a b =>
    cases hi
    exact runVec_maskLogic hd hg (.vaKandn d a b) .kandn d a b (of_decide_eq_true hw)
  case h_5 d b =>
    cases hi
    exact runVec_maskLogic hd hg (.vaKnot d b) .knot d 0 b (of_decide_eq_true hw)
  case h_6 => cases hi

/-- Settles O13: the two instructions by whether their value is legal. -/
theorem configuration : Obligations.Configuration := by
  intro d a s
  refine ⟨exec_vaSetcfg_legal s d a, exec_vaSetkey_legal s d a, fun hq => ⟨fun h => ?_, fun h => ?_⟩⟩
  · rw [exec_vaSetcfg_reserved s d a h, wordOf_vaSetcfg, illegal_nil s _ hq]
  · rw [exec_vaSetkey_reserved s d a h, wordOf_vaSetkey, illegal_nil s _ hq]

end Sys2Proof.Proofs
end

section
/-! SUPPORT. `vp.setd` performed at once: when it narrows a descriptor, what it leaves, and its trap (R132). -/

namespace Sys2Proof.Machine

open Sys2Proof.Claims

/-! A trap without effect, of an instruction that nothing precedes. -/

/-- A trap at which no flag was raised leaves the state as it was (R146, R288). -/
theorem trapFlags_quiet (s : State) (e : QEntry) (h : e.late = 0) : (trapFlags s (quiet s) e).1 = s := by
  have hflags : e.late ||| (quiet s).t.vstat = 0 := by rw [h]; exact BitVec.zero_or
  have hraise : raise s (quiet s) 0 = s := raise_noFlags s (quiet s) rfl
  unfold trapFlags
  split
  · rw [hflags]
    exact hraise
  · exact hraise

/-- Recording a trap's flags leaves the entry's address (R146). -/
theorem trapFlags_pc (s u : State) (e : QEntry) : (trapFlags s u e).2.pc = e.pc := by
  unfold trapFlags
  split <;> rfl

/-- An instruction performed at once that traps without effect, of any cause but 25: the pc is past it (R28, R343). -/
theorem runVec_denies {s : State} (hd : Direct s) (i : Instr) (body : Ctx → State → Eff) (c : Nat) (tv : Word) (hc : c ≠ 25)
    (h : body (ctxOfEntry s (pushEntry s i)) (quiet s) = .deny (quiet s) c tv) :
    runVec i false body s = .next (vectorTrapped s c tv) := by
  obtain ⟨hr, hq, hh⟩ := hd
  rw [runVec_trap i false body s (quiet s) c 0 tv hr hq hh h]
  simp only [Bool.false_eq_true, if_false]
  rw [vectorTrap_other _ _ _ _ _ _ _ hc]
  simp only [trapFlags_quiet s { pushEntry s i with xw := false } rfl, trapFlags_pc]
  rfl

/-- The scalar operand that an instruction of the V layout captures at its push, whole (R17). -/
theorem xa_pushEntry (s : State) {i : Instr} {a : Reg} (h : (wordOf i).extractLsb' 15 5 = a) :
    (ctxOfEntry s (pushEntry s i)).xa = xr s a := by
  subst h
  rfl

/-! KIND codes (R42). -/

theorem kindOf_eq_some_iff (n : Nat) (k : Kind) : kindOf n = some k ↔ kindCode k = n := by
  unfold kindOf
  split <;> cases k <;> simp_all [kindCode, eq_comm]

theorem kindCode_eq_zero_iff (k : Kind) : kindCode k = 0 ↔ k = .dense := by
  cases k <;> simp [kindCode]

theorem kindCode_lt (k : Kind) : kindCode k < 3 := by
  cases k <;> decide

/-! Narrowing a descriptor (R132). -/

/-- Whether `x[a]` names a descriptor that `vp.setd` may give a register: the KIND DENSE or the register's own, and no more words
than its LEN (R132). -/
def Narrows (r : VReg) (x : Word) : Prop :=
  (x.toNat % 4 = 0 ∨ (x.toNat % 4 < 3 ∧ x.toNat % 4 = kindCode r.kind)) ∧ x.toNat / 16 % 4096 ≤ r.len.toNat

/-- The register with the descriptor that `x[a]` names: KEY is 0 with DENSE, and everything else stays (R132). -/
def narrowed (r : VReg) (x : Word) : VReg :=
  { r with
    kind := if x.toNat % 4 = 0 then .dense else r.kind
    len := BitVec.ofNat 12 (x.toNat / 16 % 4096)
    key := if x.toNat % 4 = 0 then 0 else r.key }

theorem bits_kind (x : Word) : bits x.toNat 0 2 = x.toNat % 4 := by
  simp [bits]

theorem len_field (x : Word) : x.extractLsb' 4 12 = BitVec.ofNat 12 (x.toNat / 16 % 4096) := by
  apply BitVec.eq_of_toNat_eq
  simp [Nat.shiftRight_eq_div_pow]

theorem len_field_le (x : Word) (n : BitVec 12) : x.extractLsb' 4 12 ≤ n ↔ x.toNat / 16 % 4096 ≤ n.toNat := by
  simp [BitVec.le_def, Nat.shiftRight_eq_div_pow]

/-- The tests of `vp.setd` are those of `Narrows` (R132). -/
theorem narrows_iff (r : VReg) (x : Word) :
    Narrows r x ↔ ∃ k, kindOf (bits x.toNat 0 2) = some k ∧ (k = .dense ∨ k = r.kind) ∧ x.extractLsb' 4 12 ≤ r.len := by
  simp only [bits_kind, kindOf_eq_some_iff, len_field_le]
  constructor
  · rintro ⟨h0 | ⟨-, hk⟩, hlen⟩
    · exact ⟨.dense, h0.symm, .inl rfl, hlen⟩
    · exact ⟨r.kind, hk.symm, .inr rfl, hlen⟩
  · rintro ⟨k, hk, rfl | rfl, hlen⟩
    · exact ⟨.inl hk.symm, hlen⟩
    · exact ⟨.inr ⟨hk ▸ kindCode_lt _, hk.symm⟩, hlen⟩

/-- What `vp.setd` writes once it has decoded an allowed KIND (R132). -/
theorem narrowed_of_kindOf {r : VReg} {x : Word} {k : Kind} (hk : kindOf (bits x.toNat 0 2) = some k) (hr : k = .dense ∨ k = r.kind) :
    { r with kind := k, len := x.extractLsb' 4 12, key := if k = .dense then 0 else r.key } = narrowed r x := by
  rw [bits_kind, kindOf_eq_some_iff] at hk
  have hkind : k = if k = .dense then .dense else r.kind := by
    split
    next h => exact h
    next h => exact hr.resolve_left h
  simp only [narrowed, ← hk, kindCode_eq_zero_iff, ← hkind, len_field]

theorem setdBody_narrows (d : Reg) (c : Ctx) (s : State) (h : Narrows (getV s d.toNat) c.xa) :
    setdBody d c s = .ok (setV s d.toNat (narrowed (getV s d.toNat) c.xa)) := by
  obtain ⟨k, hk, hr, hlen⟩ := (narrows_iff _ _).mp h
  rw [← narrowed_of_kindOf hk hr]
  simp only [setdBody, hk]
  exact if_pos ⟨hr, hlen⟩

theorem setdBody_denies (d : Reg) (c : Ctx) (s : State) (h : ¬ Narrows (getV s d.toNat) c.xa) :
    setdBody d c s = .deny s 24 (word d.toNat) := by
  unfold setdBody
  dsimp only
  split
  next k hk => exact if_neg fun hallowed => h ((narrows_iff _ _).mpr ⟨k, hk, hallowed⟩)
  next => rfl

/-! `vp.setd` from the scalar stream. -/

theorem getV_quiet (s : State) (d : Reg) : getV (quiet s) d.toNat = s.t.v[d.toNat] := by
  simp only [getV, quiet, Nat.mod_eq_of_lt d.isLt]

theorem xa_vpSetd (s : State) (d a : Reg) : (ctxOfEntry s (pushEntry s (.vpSetd d a))).xa = xr s a :=
  xa_pushEntry s (mkV_field_a ..)

theorem exec_vpSetd_narrows {s : State} (hd : Direct s) (d a : Reg) (h : Narrows s.t.v[d.toNat] (xr s a)) :
    exec (.vpSetd d a) s = .next (vectorDone (withV s d (narrowed s.t.v[d.toNat] (xr s a)))) := by
  refine runVec_setV hd (.vpSetd d a) false (setdBody d) d _ ?_
  rw [← getV_quiet, ← xa_vpSetd s d a] at h ⊢
  exact setdBody_narrows d _ _ h

theorem exec_vpSetd_denies {s : State} (hd : Direct s) (d a : Reg) (h : ¬ Narrows s.t.v[d.toNat] (xr s a)) :
    exec (.vpSetd d a) s = .next (vectorTrapped s 24 (word d.toNat)) := by
  refine runVec_denies hd (.vpSetd d a) (setdBody d) 24 _ (by decide) (setdBody_denies d _ _ ?_)
  rwa [getV_quiet, xa_vpSetd]

end Sys2Proof.Machine

namespace Sys2Proof.Proofs

open Sys2Proof.Machine Sys2Proof.Claims

/-- Settles O9: the descriptor is narrowed where `x[a]` names a narrower one, and SORT-STATE is raised everywhere else. -/
theorem setDescriptor : Obligations.SetDescriptor := by
  intro d a s hd
  dsimp only
  split
  next h => exact exec_vpSetd_narrows hd d a h
  next h => exact exec_vpSetd_denies hd d a h

end Sys2Proof.Proofs
end

section
/-! SUPPORT. `vx.mzero` performed at once: what a group of registers put holds, and the trap of an operand check of the MAT group
(R272, R288, R291). -/

namespace Sys2Proof.Machine

open Sys2Proof.Claims

/-! What putting a group of registers writes, and what it leaves. -/

/-- The vector registers written, all at once. -/
def withRegs (s : State) (V : Vector VReg 32) : State := { s with t := { s.t with v := V } }

/-- Putting a group writes vector registers only. -/
theorem putGroup_eq_withRegs (d : Nat) (f : Nat → VReg) (n : Nat) (s : State) :
    putGroup d f n s = withRegs s (putGroup d f n s).t.v := by
  induction n with
  | zero => rfl
  | succ n ih =>
    rw [putGroup, ih]
    rfl

/-- A register after a group that ends by v31 was put: the group's own value, or what it was. -/
theorem getV_putGroup (d : Nat) (f : Nat → VReg) (n : Nat) (s : State) {q : Nat} (hq : q < 32) (hn : d + n ≤ 32) :
    getV (putGroup d f n s) q = if d ≤ q ∧ q < d + n then f (q - d) else getV s q := by
  induction n with
  | zero => rw [if_neg (by omega), putGroup]
  | succ n ih =>
    rw [putGroup]
    by_cases hlast : q = d + n
    · subst hlast
      rw [getV_setV_same, if_pos (by omega), Nat.add_sub_cancel_left]
    · have hrange : (d ≤ q ∧ q < d + (n + 1)) ↔ (d ≤ q ∧ q < d + n) := by omega
      rw [getV_setV_other _ _ _ _ (by omega), ih (by omega), if_congr hrange rfl rfl]

/-- The registers by number, as `getV` reads them. -/
theorem getV_fin (s : State) (q : Fin 32) : getV s q.val = s.t.v[q] := by
  simp only [getV, Nat.mod_eq_of_lt q.isLt, Fin.getElem_fin]

/-- A register group that begins at a multiple of G ends by v31 (R40). -/
theorem aligned_group_le (d : Reg) (c : Cfg) (h : d.toNat % cfgG c = 0) : d.toNat + cfgG c ≤ 32 := by
  have hcode : bits c.toNat 5 2 < 4 := Nat.mod_lt _ (by decide)
  have hG : cfgG c ∣ 32 := Nat.pow_dvd_pow 2 (show bits c.toNat 5 2 ≤ 5 by omega)
  obtain ⟨k, hk⟩ := hG
  obtain ⟨j, hj⟩ := Nat.dvd_of_mod_eq_zero h
  have hjk : j < k := Nat.lt_of_mul_lt_mul_left (a := cfgG c) (by rw [← hj, ← hk]; exact d.isLt)
  calc d.toNat + cfgG c = cfgG c * (j + 1) := by rw [hj, Nat.mul_succ]
    _ ≤ cfgG c * k := Nat.mul_le_mul_left _ hjk
    _ = 32 := hk.symm

/-- An element of contents that are all zero. -/
theorem elem_zero (w i : Nat) : elem w 0 i = 0 := by
  have hzero : (0 : VBits).toNat = 0 := BitVec.toNat_zero
  rw [elem, bits, hzero, Nat.zero_div, Nat.zero_mod]

/-- A DENSE register of n words of zeros (R24, R43, R291). -/
theorem dense_zeroWords (n : Nat) (h : n ≤ 1024) : Dense 32 n (denseWords n 0) fun _ => 0 := by
  have hwords : (n * 32 + 31) / 32 = n := by omega
  refine ⟨rfl, rfl, rfl, ?_, ?_, fun j => ?_⟩
  · exact (Nat.mod_eq_of_lt (by omega)).trans hwords.symm
  · exact (Nat.mod_eq_of_lt (by omega)).trans hwords.symm
  · rw [ite_self]
    exact elem_zero 32 j

/-! An instruction performed at once that only puts a group of registers, and one whose operands are illegal. -/

section Direct

variable {s : State} (hd : Direct s)
include hd

/-- An instruction performed at once that writes vector registers only, and raises no flag. -/
theorem runVec_withRegs (i : Instr) (xw : Bool) (body : Ctx → State → Eff) (V : Vector VReg 32)
    (h : body (ctxOfEntry s (pushEntry s i)) (quiet s) = .ok (withRegs (quiet s) V)) :
    runVec i xw body s = .next (vectorDone (withRegs s V)) := by
  rw [runVec_completes hd i xw body (withRegs (quiet s) V) rfl h, raise_noFlags s _ rfl]
  rfl

/-- An instruction performed at once that only puts a group of registers: the group is written, and every other register stays. -/
theorem runVec_putGroup (i : Instr) (xw : Bool) (body : Ctx → State → Eff) (d : Nat) (f : Nat → VReg) (n : Nat) (hn : d + n ≤ 32)
    (h : body (ctxOfEntry s (pushEntry s i)) (quiet s) = .ok (putGroup d f n (quiet s))) :
    ∃ V, runVec i xw body s = .next (vectorDone (withRegs s V)) ∧
      ∀ q : Fin 32, V[q] = if d ≤ q.val ∧ q.val < d + n then f (q.val - d) else s.t.v[q] := by
  rw [putGroup_eq_withRegs] at h
  refine ⟨_, runVec_withRegs hd i xw body _ h, fun q => ?_⟩
  rw [← getV_fin, getV_putGroup d f n (quiet s) q.isLt hn, getV_fin]
  rfl

/-- An instruction performed at once that breaks an operand condition of its group traps with its word (R272, R288). -/
theorem runVec_matIllegal (i : Instr) (body : Ctx → State → Eff)
    (h : body (ctxOfEntry s (pushEntry s i)) (quiet s) = matIllegal (ctxOfEntry s (pushEntry s i)) (quiet s)) :
    runVec i false body s = .next (vectorTrapped s 2 ((wordOf i).setWidth 64)) :=
  runVec_denies hd i body 2 _ (by decide) h

end Direct

theorem wordOf_of_encode {i : Instr} {w : InstrWord} (h : encode i = some w) : wordOf i = w := by
  unfold wordOf
  split
  next => cases h
  next => rw [h, Option.getD_some]

/-! `vx.mzero` (R291). -/

theorem exec_vxMzero_zeroes {s : State} (hd : Direct s) (d : Reg) (hG : d.toNat % cfgG s.t.vcfg = 0) (hvl : vl s ≤ 1024) :
    ∃ V, exec (.vxMzero d) s = .next (vectorDone (withRegs s V)) ∧
      Rows s d.toNat (cfgG s.t.vcfg) (vl s) V fun _ _ => 0 := by
  obtain ⟨V, hrun, hV⟩ := runVec_putGroup hd (.vxMzero d) false (mzeroBody d) d.toNat (fun _ => denseWords (vl s) 0)
    (cfgG s.t.vcfg) (aligned_group_le d _ hG) (if_pos ⟨hG, hvl⟩)
  refine ⟨V, hrun, fun q => ?_⟩
  rw [hV q]
  split
  next => exact dense_zeroWords _ hvl
  next => rfl

theorem exec_vxMzero_illegal {s : State} (hd : Direct s) (d : Reg) (h : ¬ (d.toNat % cfgG s.t.vcfg = 0 ∧ vl s ≤ 1024)) :
    exec (.vxMzero d) s = .next (vectorTrapped s 2 ((wordOf (.vxMzero d)).setWidth 64)) :=
  runVec_matIllegal hd (.vxMzero d) (mzeroBody d) (if_neg h)

end Sys2Proof.Machine

namespace Sys2Proof.Proofs

open Sys2Proof.Machine Sys2Proof.Claims

/-- Settles O22: an aligned group of at most 1,024 elements is put with zeros, and any other operand traps. That the trap comes with
the operands, at the matrix unit, is the model's choice (log entry 78). -/
theorem tileZero : Obligations.TileZero := by
  intro d s hd _
  split
  next h =>
    obtain ⟨hG, hvl⟩ := h
    exact exec_vxMzero_zeroes hd d hG hvl
  next h =>
    intro w hw
    rw [exec_vxMzero_illegal hd d h, wordOf_of_encode hw]

end Sys2Proof.Proofs
end
